-- ==== Sys2Proof/Word.lean ====
section
/-! DEFINITION. The word types of the Fjarcen: 32-bit registers and instruction words, 64-bit pairs, bytes. -/

namespace Sys2Proof

/-- A byte of memory or scratchpad (R2). -/
abbrev Byte := BitVec 8

/-- A register lane, scalar register or instruction word (R31, R113). -/
abbrev Word := BitVec 32

/-- A 64-bit value held in a pair (R115). -/
abbrev DWord := BitVec 64

end Sys2Proof
end

