-- ==== Sys2Proof/Syntax.lean ====
section
/-! DEFINITION. The rows of spec/opcode_table.json as one inductive: the instructions of the opcode map (R39 to R49) and the steps of the device's other agents. -/

namespace Sys2Proof

/-- A scalar register number, s0 to s63 (R33). -/
abbrev SReg := BitVec 6
/-- A vector register number, v0 to v127 (R33). -/
abbrev VNum := BitVec 7
/-- A mask register number, m0 to m7 (R33). -/
abbrev MReg := BitVec 3
/-- An arrival counter number, a0 to a15 (R32). -/
abbrev Ctr := BitVec 4

/-- Conditions of CMP, CMP64 and VCMP (R129). -/
inductive Cond where | eq | ne | lt | le | ltu | leu | tst
  deriving DecidableEq, Repr

/-- Operations of BITU and VBITU (R130). -/
inductive BitFn where | popc | clz | ctz | brev | sext8 | sext16 | zext8 | zext16
  deriving DecidableEq, Repr

/-- Operations of SH64 (R132). -/
inductive Sh64Fn where | shl | shr | sar
  deriving DecidableEq, Repr

/-- Operations of V64 (R136). -/
inductive V64Fn where | add | sub | shl | shr | sar
  deriving DecidableEq, Repr

/-- Operations of MOP (R140). -/
inductive MopFn where | and | or | xor | andn | not | mov | set | clear
  deriving DecidableEq, Repr

/-- Operations of MQ (R141). -/
inductive MqFn where | popc | first | last | any | all
  deriving DecidableEq, Repr

/-- Kinds of SHFL (R164). -/
inductive ShflFn where | idx | up | down | xor
  deriving DecidableEq, Repr

/-- Operations of VRED (R165). -/
inductive VredFn where | iadd | imin | imax | iand | ior | fadd | fmin | fmax
  deriving DecidableEq, Repr

/-- Operations of VSCAN (R166). -/
inductive VscanFn where | iadd | xadd | imax | xmax | fadd
  deriving DecidableEq, Repr

/-- Floating-point types in S (R43). -/
inductive FTy where | f32 | f64 | h2 | b2
  deriving DecidableEq, Repr

/-- Predicates of FCMP (R47). -/
inductive FPred where | eq | ne | lt | le | gt | ge | ord | uno | ueq | one | ult | ule | ugt | uge
  deriving DecidableEq, Repr

/-- Operations of FSGN (R150). -/
inductive SgnFn where | abs | neg | nabs | copysign
  deriving DecidableEq, Repr

/-- Rounding modes (R67). -/
inductive Rm where | rne | rtz | rdn | rup
  deriving DecidableEq, Repr

/-- Conversion codes of CVT (R48, R156). -/
inductive CvtCode where
  | itof | utof | ftoi | ftou | ftod | dtof | itod | utod | dtoi | dtou | ltod | dtol
  | ftoh | hltof | hhtof | ftob | bltof | bhtof
  deriving DecidableEq, Repr

/-- Formats of CVTN (R49). -/
inductive CvtnFmt where | e4m3 | e5m2 | e2m1 | i8 | e4m3n | e5m2n
  deriving DecidableEq, Repr

/-- Formats of CVTW (R49). -/
inductive CvtwFmt where | e4m3 | e5m2 | e2m1 | i8 | t2
  deriving DecidableEq, Repr

/-- Functions of CORD (R85). -/
inductive CordFn where | sin | cos | atan | exp | log | sqrt | sinh | cosh
  deriving DecidableEq, Repr

/-- Access widths (R36). -/
inductive Width where | bz | bs | hz | hs | w | d | q | uw
  deriving DecidableEq, Repr

/-- Cache hints (R37, R272). -/
inductive Hint where | normal | strm | byp | last
  deriving DecidableEq, Repr

/-- Operations of ATOM, RED and ATOMS (R280). -/
inductive AtomOp where | add | min | max | and | or | xor | exch | fadd
  deriving DecidableEq, Repr

/-- Atomic types (R38). -/
inductive AtomTy where | ws | ds | f32 | f64 | w | d
  deriving DecidableEq, Repr

/-- Scopes (R45, R287). -/
inductive Scope where | tl | wg | sh | dv | sy
  deriving DecidableEq, Repr

/-- The base operand of a memory access: a scalar when contiguous, a vector when per lane (R37). -/
inductive Addr where
  | sc (r : SReg)
  | vec (r : VNum)
  deriving DecidableEq, Repr

/-- The special registers (R200). -/
inductive Special where
  | time | cycles | tcyc0 | tcyc1 | tcyc2 | tcyc3
  | tstat | tctl | tcause | tpc | tinfo0 | tinfo1
  | pca | pcb | mska | mskb | spillp | repcnt | joina | joinb | outra | outrb
  | tiller | wgrank | sheafx | sheafy | sheafz | core | cluster | die | region
  | freq | allow | morg | notify
  deriving DecidableEq, Repr

/-- Kinds of access a page walk checks and a fault record names (R321, R326). -/
inductive Access where | load | store | atomic | fetch | spillRd | spillWr | engRd | engWr | table
  deriving DecidableEq, Repr

/-- A boot image as its checks find it: whether its format, its Ed25519 signature and its ML-DSA-65 signature are sound, and its SVN (R371). -/
structure BootImage where
  format  : Bool
  ed25519 : Bool
  mldsa   : Bool
  svn     : BitVec 16
  deriving DecidableEq, Repr

/-- The line of an L1 that a deadline or an error names, by its place, and whether an uncorrectable error has been found in it (R270). -/
structure L1Place where
  k   : Nat
  err : Bool
  deriving DecidableEq, Repr

/-- An answer over a link: the line's bytes where it brings them, and how many flits the link has sent again for it (R365, R369). -/
structure LinkAnswer where
  data    : List Byte
  replays : Nat
  deriving DecidableEq, Repr

/-- The operand bytes of an engine command: FLAGS, BAR, X, Y and Z (R302). -/
structure Cmd where
  flags : BitVec 8
  bar   : BitVec 16
  x     : Word
  y     : Word
  z     : Word
  deriving DecidableEq, Repr

/-- One constructor per row of spec/opcode_table.json.
The rows with bits are instructions; `p` is the park bit (R31).
The other rows are steps of the device: their operands name the unit that acts and carry what comes from outside it. -/
inductive Instr where
  -- control and system (R40)
  | nop (p : Bool)
  | bra (p : Bool) (o : BitVec 20)
  | braSpin (p : Bool) (o : BitVec 20)
  | bz (p : Bool) (s : SReg) (o : BitVec 17)
  | bnz (p : Bool) (s : SReg) (o : BitVec 17)
  | bm (p : Bool) (m : MReg) (o : BitVec 20)
  | bmn (p : Bool) (m : MReg) (o : BitVec 20)
  | jset (p : Bool) (o : BitVec 20)
  | call (p : Bool) (s : SReg) (o : BitVec 18)
  | jmpr (p : Bool) (s : SReg)
  | rep (p : Bool) (n : BitVec 6) (sd sa sb : Bool)
  | yield (p : Bool)
  | yieldSpin (p : Bool)
  | exit
  | trap (c : BitVec 16)
  | rte
  | srd (p : Bool) (d : SReg) (r : Special)
  | swr (p : Bool) (r : Special) (a : SReg)
  | sysLaunch (p : Bool) (d a : SReg)
  | sysGrun (p : Bool) (d a : SReg)
  | sysRcbsync (p : Bool) (d a : SReg)
  | sysCtxdone (p : Bool)
  | sysNotify (p : Bool) (a : SReg)
  -- scalar integer (R41)
  | add (p : Bool) (d a b : SReg)
  | sub (p : Bool) (d a b : SReg)
  | mul (p : Bool) (d a b : SReg)
  | mulh (p sg : Bool) (d a b : SReg)
  | div (p sg : Bool) (d a b : SReg)
  | rem (p sg : Bool) (d a b : SReg)
  | and (p : Bool) (d a b : SReg)
  | or (p : Bool) (d a b : SReg)
  | xor (p : Bool) (d a b : SReg)
  | andn (p : Bool) (d a b : SReg)
  | shl (p : Bool) (d a b : SReg)
  | shr (p : Bool) (d a b : SReg)
  | sar (p : Bool) (d a b : SReg)
  | ror (p : Bool) (d a b : SReg)
  | min (p sg : Bool) (d a b : SReg)
  | max (p sg : Bool) (d a b : SReg)
  | cmp (p : Bool) (c : Cond) (d a b : SReg)
  | sel (p : Bool) (d a b : SReg)
  | bitu (p : Bool) (f : BitFn) (d a : SReg)
  | bfx (p : Bool) (d a b : SReg)
  | bfi (p : Bool) (d a b : SReg)
  | add64 (p : Bool) (d a b : SReg)
  | sub64 (p : Bool) (d a b : SReg)
  | mul64 (p : Bool) (d a b : SReg)
  | sh64 (p : Bool) (f : Sh64Fn) (d a b : SReg)
  | cmp64 (p : Bool) (c : Cond) (d a b : SReg)
  | addi (p : Bool) (d a : SReg) (i : BitVec 10)
  | andi (p : Bool) (d a : SReg) (i : BitVec 10)
  | ori (p : Bool) (d a : SReg) (i : BitVec 10)
  | shli (p : Bool) (d a : SReg) (i : BitVec 5)
  | movl (p : Bool) (d : SReg) (lit : Word)
  | movs (p : Bool) (d a : SReg)
  | movsLane (p : Bool) (d : SReg) (a : VNum) (l : BitVec 5)
  | movsFrm (p : Bool) (d : SReg) (m : MReg)
  | movsTom (p : Bool) (m : MReg) (a : SReg)
  | movsCnt (p : Bool) (d : SReg)
  -- vector integer, mask and cross-lane (R42)
  | vadd (p : Bool) (d a b : VNum)
  | vsub (p : Bool) (d a b : VNum)
  | vmul (p : Bool) (d a b : VNum)
  | vmulh (p sg : Bool) (d a b : VNum)
  | vand (p : Bool) (d a b : VNum)
  | vor (p : Bool) (d a b : VNum)
  | vxor (p : Bool) (d a b : VNum)
  | vshl (p : Bool) (d a b : VNum)
  | vshr (p : Bool) (d a b : VNum)
  | vsar (p : Bool) (d a b : VNum)
  | vmin (p sg : Bool) (d a b : VNum)
  | vmax (p sg : Bool) (d a b : VNum)
  | vcmp (p : Bool) (c : Cond) (m : MReg) (a b : VNum)
  | vsel (p : Bool) (d a b : VNum) (m : MReg)
  | vmov (p : Bool) (d a : VNum)
  | vmovSc (p : Bool) (d : VNum) (a : SReg)
  | vidx (p : Bool) (d : VNum)
  | vaff (p : Bool) (d : VNum) (a b : SReg)
  | vmovG (p : Bool) (d a : VNum)
  | vins (p : Bool) (d : VNum) (a : SReg) (l : BitVec 5)
  | vaddi (p : Bool) (d a : VNum) (i : BitVec 10)
  | vbitu (p : Bool) (f : BitFn) (d a : VNum)
  | vbfx (p : Bool) (d a b : VNum)
  | vdot4 (p sg : Bool) (d a b : VNum)
  | v64 (p : Bool) (f : V64Fn) (d a b : VNum)
  | mop (p : Bool) (f : MopFn) (d a b : MReg)
  | mq (p : Bool) (f : MqFn) (d : SReg) (m : MReg)
  | shfl (p : Bool) (f : ShflFn) (d a b : VNum)
  | vred (p : Bool) (f : VredFn) (d a : VNum)
  | vscan (p : Bool) (f : VscanFn) (d a : VNum)
  | lrefill (p : Bool) (t : VNum) (a : SReg) (c : Ctr) (wide : Bool) (m : MReg)
  | vsav (p : Bool) (t : VNum) (a : SReg) (c : Ctr) (h : Hint)
  | vrst (p : Bool) (t : VNum) (a : SReg) (c : Ctr) (h : Hint)
  | vtag (p : Bool) (d : SReg) (a : VNum)
  -- floating point and function units (R43)
  | fadd (p : Bool) (ty : FTy) (d a b : VNum)
  | fsub (p : Bool) (ty : FTy) (d a b : VNum)
  | fmul (p : Bool) (ty : FTy) (d a b : VNum)
  | ffma (p : Bool) (ty : FTy) (d a b : VNum)
  | fmin (p : Bool) (ty : FTy) (d a b : VNum)
  | fmax (p : Bool) (ty : FTy) (d a b : VNum)
  | fcmp (p f64 : Bool) (q : FPred) (m : MReg) (a b : VNum)
  | fsgn (p f64 : Bool) (f : SgnFn) (d a b : VNum)
  | fdiv (p f64 : Bool) (d a b : VNum)
  | fsqrt (p f64 : Bool) (d a : VNum)
  | frcpe (p : Bool) (d a : VNum)
  | frnd (p : Bool) (rm : Rm) (d a : VNum)
  | frnd64 (p : Bool) (rm : Rm) (d a : VNum)
  | fclass (p f64 : Bool) (d a : VNum)
  | cvt (p : Bool) (c : CvtCode) (rm : Rm) (d a : VNum)
  | cvtn (p : Bool) (f : CvtnFmt) (d a b : VNum)
  | cvtw (p : Bool) (f : CvtwFmt) (d a b : VNum)
  | cord (p f64 : Bool) (f : CordFn) (n : BitVec 6) (d a : VNum)
  | pwpl (p : Bool) (a b : SReg)
  | pwpe (p : Bool) (d a : VNum)
  | fdot2 (p bf : Bool) (d a b : VNum)
  -- memory (R44)
  | ldg (p : Bool) (t : VNum) (a : Addr) (c : Ctr) (wd : Width) (h : Hint)
  | ldgx (p : Bool) (t : VNum) (a : Addr) (c : Ctr) (wd : Width) (h : Hint) (lit : Word)
  | stg (p : Bool) (t : VNum) (a : Addr) (c : Ctr) (wd : Width) (h : Hint)
  | stgx (p : Bool) (t : VNum) (a : Addr) (c : Ctr) (wd : Width) (h : Hint) (lit : Word)
  | lds (p : Bool) (t : VNum) (a : Addr) (c : Ctr) (wd : Width)
  | sts (p : Bool) (t : VNum) (a : Addr) (c : Ctr) (wd : Width)
  | ldx (p : Bool) (t : VNum) (a : Addr) (c : Ctr) (wd : Width) (r : BitVec 2)
  | stx (p : Bool) (t : VNum) (a : Addr) (c : Ctr) (wd : Width) (r : BitVec 2)
  | ldp (p : Bool) (t : VNum) (a : Addr) (c : Ctr) (wd : Width) (n : BitVec 3)
  | atom (p : Bool) (op : AtomOp) (ty : AtomTy) (t a : VNum) (c : Ctr) (lit : Word)
  | red (p : Bool) (op : AtomOp) (ty : AtomTy) (t a : VNum) (c : Ctr) (lit : Word)
  | cas (p wide : Bool) (t a : VNum) (c : Ctr) (lit : Word)
  | prefL1 (p : Bool) (a : VNum) (lit : Word)
  | prefGr (p : Bool) (a : VNum) (lit : Word)
  | atoms (p : Bool) (op : AtomOp) (ty : AtomTy) (t a : VNum) (c : Ctr)
  -- synchronisation (R45)
  | arrive (p : Bool) (d a : SReg)
  | arriveX (p : Bool) (d a b : SReg)
  | arriveR (p : Bool) (d a b : SReg)
  | waitB (p : Bool) (a b : SReg)
  | waitA (p : Bool) (c : Ctr) (b : BitVec 7)
  | fenceAcq (p : Bool) (sc : Scope) (c : Ctr)
  | fenceRel (p : Bool) (sc : Scope) (c : Ctr)
  | fenceAr (p : Bool) (sc : Scope) (c : Ctr)
  | watch (p : Bool) (a b : SReg)
  -- array and engines (R46)
  | mcfg (p : Bool) (a : SReg)
  | mlds (p : Bool) (c : Ctr) (a : SReg)
  | mswp (p : Bool)
  | mstr (p : Bool) (c : Ctr) (a b : SReg)
  | mgrp (p : Bool) (c : Ctr) (a : SReg)
  | mclr (p : Bool) (c : Ctr) (a b : SReg)
  | mhist (p : Bool) (d a b : SReg)
  | mdrn (p : Bool) (c : Ctr) (a : SReg)
  | engFork (p : Bool) (e : BitVec 3) (a b : SReg)
  | engKill (p : Bool) (e : BitVec 3)
  | engStat (p : Bool) (d : SReg) (e : BitVec 3)
  -- steps of cores and clusters
  | cycle (core : Nat)
  | deferralRelease (core : Nat)
  | clauseLate (tid : Nat)
  | arrayOpStart (core k : Nat)
  | mgrpImplicitSwap (core : Nat)
  | allowanceRefill (cl : Nat)
  | tillerOverdue (tid : Nat)
  | watchdogHang (sheaf : Nat) (run : Bool)
  | fllStepComplete (cl : Nat)
  -- landings and completions of outstanding operations
  | loadLand (id : Nat)
  | scratchpadLoadLand (id : Nat)
  | atomicResultLand (id : Nat)
  | cordLand (id : Nat)
  | fdivFsqrtLand (id : Nat)
  | divRemLand (id : Nat)
  | vrstLand (id : Nat)
  | lrefillLand (id : Nat)
  | storePerform (id : Nat)
  | fenceComplete (id : Nat)
  | waitBReturn (tid : Nat)
  -- steps of slices, caches, codec and HBM
  | homeSliceServe (slice : Nat) (arrivals : List Nat)
  | multicastEntryExpiry (slice line : Nat)
  | l1WritebackDeadline (core : Nat) (at0 : L1Place)
  | codecDecode (core : Nat)
  | codecWriteBack (core : Nat) (err : Bool)
  | hbmAdmit (die bank : Nat)
  | hbmBankService (die bank row : Nat) (err : Bool)
  | activationCounterReset
  | bankRetryLeave (die bank : Nat)
  -- translation and residency
  | pageWalk (core slot root va : Nat) (acc : Access)
  | translationReplay (tid : Nat)
  | tlbinvGo
  | tlbinvComplete
  | residencyMapWrite (n off size : Nat) (v : DWord)
  | residencyChangeComplete (n : Nat)
  -- engines; `u` is the engine unit
  | chainStart (u : Nat)
  | pieceWrite (u : Nat)
  | chainReplay (u : Nat)
  | copy (u : Nat) (c : Cmd)
  | copy2d (u : Nat) (c : Cmd)
  | gather (u : Nat) (c : Cmd)
  | tgather (u : Nat) (c : Cmd)
  | mcast (u : Nat) (c : Cmd)
  | trans (u : Nat) (c : Cmd)
  | select (u : Nat) (c : Cmd)
  | flush (u : Nat) (c : Cmd)
  | inval (u : Nat) (c : Cmd)
  | setattr (u : Nat) (c : Cmd)
  | unlock (u : Nat) (c : Cmd)
  | loop (u : Nat) (c : Cmd)
  | ifCmd (u : Nat) (c : Cmd)
  | cmdArrive (u : Nat) (c : Cmd)
  | waitbCmd (u : Nat) (c : Cmd)
  | ppt (u : Nat) (c : Cmd)
  | endCmd (u : Nat) (c : Cmd)
  | cmdMlds (u : Nat) (c : Cmd)
  | cmdMswp (u : Nat) (c : Cmd)
  | cmdMstr (u : Nat) (c : Cmd)
  | cmdMgrp (u : Nat) (c : Cmd)
  | cmdMdrn (u : Nat) (c : Cmd)
  | cmdMhist (u : Nat) (c : Cmd)
  | cmdMclr (u : Nat) (c : Cmd)
  -- scheduler
  | decide
  | preemptSave (sheaf : Nat)
  | resumeRelease (sheaf : Nat)
  | sheafRetire (sheaf : Nat)
  | graphInstanceAdmit (g : Nat)
  -- package, host, peers and lehr
  | retentionEntry (cl : Nat)
  | retentionExit (cl : Nat) (lost : Bool)
  | clholdWrite (cl : Nat) (v : Word)
  | clkctlWrite (cl : Nat) (v : Word)
  | boostctlWrite (v : Word)
  | boostWindowClose
  | controlRegisterWrite (off size : Nat) (v : DWord)
  | attestationRequest (nonce : List Byte)
  | packageReset (firmware steward : BootImage) (fused pkt : Nat)
  | hostCxlMemAccess (addr len : Nat) (wr : Option (List Byte))
  | peerAccess (j addr len : Nat) (wr : Option (List Byte))
  | linkStateChange (l : Nat) (up : Bool)
  | scrub (line : Nat) (unc : Bool)
  | telemetryWrite (die : Nat) (temp : BitVec 16) (pw0 pw1 : Word) (granErr hbmErr : Nat)
  | vfTableReplan (cl mhz : Nat)
  | hostCacheSnoop (line : Nat) (wr : Bool)
  | linkResponse (id : Nat) (ans : LinkAnswer)
  | boostWindowOpen
  | temperatureChange (cl mhz : Nat)
  | msixMaskChange (vec : Nat) (masked : Bool)
  | sysStatusLand (id : Nat)
  deriving DecidableEq, Repr

end Sys2Proof
end

