-- ==== Sys2Proof/Config.lean ====
section
/-! DEFINITION. What an implementation fixes, and the free values: constants without a body for the values the spec leaves open. -/

namespace Sys2Proof

/-- The error of the unrounded result of a CORD, in units of 2^−q of the bound that R85 sets: q and the number of units, cut off at the bound;
from the function, f64 or not, the iteration count and the operand's bits. R85 leaves it open (log 4). -/
opaque Config.cordError : CordFn → Bool → Nat → Nat → Nat × Int

/-- The signature bytes of an attestation report, from the bytes signed (R371 names no value, log 5). -/
opaque Config.signature : List Byte → List Byte

/-- The bytes of a report that the device and its images fix: the serial number, then the two SHA-384 digests (R371, log 5). -/
opaque Config.deviceBytes : List Byte

/-- The row of a bank that holds an address: internal to the controller (R263, log 33). -/
opaque Config.rowOf : Nat → Nat

/-- The row drawn by a counter swap, from a draw number (R267, log 6). -/
opaque Config.swapRow : Nat → Nat

/-- A byte that an access gets from a range whose PINNED contract was removed while the access was on its way: from the request and the byte's place (R259, log 34). -/
opaque Config.unbackedByte : Nat → Nat → Byte

/-! What comes from outside, at a time and for a place (log 14). -/

/-- Whether an uncorrectable error strikes a line of a first-level cache that holds dirty bytes (R270). -/
opaque Config.l1Error : Nat → Nat → Bool

/-- Whether a bank meets a corrected error (R375). -/
opaque Config.hbmError : Nat → Nat → Bool

/-- Whether an uncorrectable error strikes a block under its lock (R106). -/
opaque Config.codecError : Nat → Nat → Bool

/-- Whether a retention element of a cluster has lost its state (R374). -/
opaque Config.retentionLoss : Nat → Nat → Bool

/-- The temperature of a die, and the power of its two clusters (R376). -/
opaque Config.sensors : Nat → Nat → BitVec 16 × Word × Word

/-- The lines in which the scrub of a time finds an error, and whether it is uncorrectable (R375). -/
opaque Config.scrubFinds : Nat → List (Nat × Bool)

/-- The frequency in MHz that the table planned from a cluster's ageing monitors allows (R376). -/
opaque Config.ageingCap : Nat → Nat → Nat

end Sys2Proof
end

