-- ==== Sys2Proof/Machine/Float.lean ====
section
/-! DEFINITION. The floating-point formats of R59 and R60, exact dyadic values, the rounding of R66 to R68, the special values of R69 to R71 and the narrow conversions of R72. -/

namespace Sys2Proof.Machine

/-- The arithmetic flags in the places of TSTAT bits 6:0 (R73). -/
abbrev Flags := BitVec 7

def flagNV : Flags := 1
def flagDZ : Flags := 2
def flagOF : Flags := 4
def flagUF : Flags := 8
def flagNX : Flags := 16
def flagNARROW : Flags := 32
def flagPWIN : Flags := 64

/-- A flag when a condition holds. -/
def flagIf (b : Bool) (f : Flags) : Flags := if b then f else 0

/-- A floating-point format (R59): trailing significand bits, exponent bits, bias, the largest finite magnitude,
the magnitude of infinity where there is one, the least magnitude that is a NaN, and the canonical NaN (R70). -/
structure Fmt where
  mb : Nat
  eb : Nat
  bias : Nat
  top : Nat
  inf : Option Nat
  nanMin : Nat
  canon : Nat
  deriving DecidableEq, Repr

def fp64 : Fmt := ⟨52, 11, 1023, 0x7FEFFFFFFFFFFFFF, some 0x7FF0000000000000, 0x7FF0000000000001, 0x7FF8000000000000⟩
def fp32 : Fmt := ⟨23, 8, 127, 0x7F7FFFFF, some 0x7F800000, 0x7F800001, 0x7FC00000⟩
def fp16 : Fmt := ⟨10, 5, 15, 0x7BFF, some 0x7C00, 0x7C01, 0x7E00⟩
def bf16 : Fmt := ⟨7, 8, 127, 0x7F7F, some 0x7F80, 0x7F81, 0x7FC0⟩
def e4m3 : Fmt := ⟨3, 4, 7, 0x7E, none, 0x7F, 0x7F⟩
def e5m2 : Fmt := ⟨2, 5, 15, 0x7B, some 0x7C, 0x7D, 0x7E⟩
/-- E2M1 has neither infinity nor NaN; R157 names 0 where a NaN enters it. -/
def e2m1 : Fmt := ⟨1, 2, 1, 7, none, 8, 0⟩

/-- The number of bits below the sign. -/
def Fmt.magBits (f : Fmt) : Nat := f.mb + f.eb

/-- A magnitude with its sign. -/
def Fmt.signed (f : Fmt) (neg : Bool) (mag : Nat) : Nat := if neg then mag + 2 ^ f.magBits else mag

/-- The exponent of two of the last place of a subnormal. -/
def Fmt.qmin (f : Fmt) : Int := 1 - (f.bias : Int) - (f.mb : Int)

/-- What an encoding stands for: a NaN, an infinity, or (−1)^neg · m · 2^e (R60). -/
inductive Num where
  | nan
  | inf (neg : Bool)
  | fin (neg : Bool) (m : Nat) (e : Int)
  deriving DecidableEq, Repr

/-- The value of an encoding (R60). -/
def Fmt.num (f : Fmt) (bits : Nat) : Num :=
  let neg := bits / 2 ^ f.magBits % 2 == 1
  let mag := bits % 2 ^ f.magBits
  if f.nanMin ≤ mag then .nan
  else if f.inf = some mag then .inf neg
  else
    let e := mag / 2 ^ f.mb
    let m := mag % 2 ^ f.mb
    if e = 0 then .fin neg m f.qmin else .fin neg (m + 2 ^ f.mb) ((e : Int) - 1 + f.qmin)

/-- m · 2^e rounded to a multiple of 2^q in a mode, and whether it differs from the exact value (R67). -/
def roundAt (rm : Rm) (neg : Bool) (m : Nat) (e q : Int) : Nat × Bool :=
  if q ≤ e then (m * 2 ^ (e - q).toNat, false)
  else
    let k := (q - e).toNat
    let n := m / 2 ^ k
    let r := m % 2 ^ k
    let up := match rm with
      | .rne => decide (2 ^ k < 2 * r) || (2 * r == 2 ^ k && n % 2 == 1)
      | .rtz => false
      | .rdn => neg && r != 0
      | .rup => !neg && r != 0
    (if up then n + 1 else n, r != 0)

/-- A rounded magnitude, as if the exponent field had no upper end: its bits, whether it differs from the exact value, and whether it is tiny (R68). -/
structure Rounded where
  mag : Nat
  inexact : Bool
  tiny : Bool
  deriving DecidableEq, Repr

/-- Rounds m · 2^e to a format's places (R66 to R68). -/
def Fmt.roundMag (f : Fmt) (rm : Rm) (neg : Bool) (m : Nat) (e : Int) : Rounded :=
  if m = 0 then ⟨0, false, false⟩
  else
    let q1 : Int := e + (Nat.log2 m : Int) - (f.mb : Int)
    let q := max q1 f.qmin
    let (n, x) := roundAt rm neg m e q
    let (n1, _) := roundAt rm neg m e q1
    ⟨(q - f.qmin).toNat * 2 ^ f.mb + n, x, decide (q1 + (Nat.log2 n1 : Int) < f.qmin + (f.mb : Int))⟩

/-- The magnitude an overflow delivers (R68). -/
def Fmt.overflowMag (f : Fmt) (rm : Rm) (neg : Bool) : Nat :=
  let i := f.inf.getD f.top
  match rm with
  | .rne => i
  | .rtz => f.top
  | .rdn => if neg then i else f.top
  | .rup => if neg then f.top else i

/-- Rounds (−1)^neg · m · 2^e to a format, with OF, UF and NX (R66 to R68). -/
def Fmt.round (f : Fmt) (rm : Rm) (neg : Bool) (m : Nat) (e : Int) : Nat × Flags :=
  let r := f.roundMag rm neg m e
  if f.top < r.mag then (f.signed neg (f.overflowMag rm neg), flagOF ||| flagNX)
  else (f.signed neg r.mag, flagIf r.inexact flagNX ||| flagIf (r.tiny && r.inexact) flagUF)

/-- A value delivered in a format that has infinities and NaN (R66, R70). -/
def Fmt.ofNum (f : Fmt) (rm : Rm) : Num → Nat × Flags
  | .nan => (f.canon, 0)
  | .inf neg => (f.signed neg (f.inf.getD f.top), 0)
  | .fin neg m e => f.round rm neg m e

/-! ## Exact arithmetic -/

/-- (−1)^neg · m as an integer. -/
def sgnInt (neg : Bool) (m : Nat) : Int := if neg then -(m : Int) else (m : Int)

/-- The exact product, with NV for 0 × ∞ (R70, R71). -/
def Num.mul : Num → Num → Num × Flags
  | .nan, _ => (.nan, 0)
  | _, .nan => (.nan, 0)
  | .inf s, .inf t => (.inf (s != t), 0)
  | .inf s, .fin t m _ => if m = 0 then (.nan, flagNV) else (.inf (s != t), 0)
  | .fin s m _, .inf t => if m = 0 then (.nan, flagNV) else (.inf (s != t), 0)
  | .fin s m e, .fin t n g => (.fin (s != t) (m * n) (e + g), 0)

/-- The exact sum, with NV for ∞ − ∞; an exact zero of operands that are not both −0 is +0, and −0 in RDN (R70, R71). -/
def Num.add (rm : Rm) : Num → Num → Num × Flags
  | .nan, _ => (.nan, 0)
  | _, .nan => (.nan, 0)
  | .inf s, .inf t => if s = t then (.inf s, 0) else (.nan, flagNV)
  | .inf s, .fin .. => (.inf s, 0)
  | .fin .., .inf t => (.inf t, 0)
  | .fin s m e, .fin t n g =>
    let q := min e g
    let v : Int := sgnInt s (m * 2 ^ (e - q).toNat) + sgnInt t (n * 2 ^ (g - q).toNat)
    if v = 0 then
      (.fin (if m = 0 ∧ n = 0 ∧ s = t then s else rm == .rdn) 0 q, 0)
    else (.fin (decide (v < 0)) v.natAbs q, 0)

/-- The value with its sign inverted. -/
def Num.neg : Num → Num
  | .nan => .nan
  | .inf s => .inf (!s)
  | .fin s m e => .fin (!s) m e

/-- Exact scaling by a power of two (R66). -/
def Num.scale (k : Int) : Num → Num
  | .nan => .nan
  | .inf s => .inf s
  | .fin s m e => .fin s m (e + k)

def Num.isNan : Num → Bool
  | .nan => true
  | .inf _ | .fin .. => false

/-- The IEEE order of two values: none when either is a NaN; −0 and +0 are equal. -/
def Num.cmp : Num → Num → Option Ordering
  | .nan, _ => none
  | _, .nan => none
  | .inf s, .inf t => some (if s = t then .eq else if s then .lt else .gt)
  | .inf s, .fin .. => some (if s then .lt else .gt)
  | .fin .., .inf t => some (if t then .gt else .lt)
  | .fin s m e, .fin t n g =>
    let q := min e g
    some (compare (sgnInt s (m * 2 ^ (e - q).toNat)) (sgnInt t (n * 2 ^ (g - q).toNat)))

/-! ## Operations on encodings -/

def Fmt.add (f : Fmt) (a b : Nat) : Nat × Flags :=
  let (x, g) := Num.add .rne (f.num a) (f.num b)
  let (r, h) := f.ofNum .rne x
  (r, g ||| h)

def Fmt.sub (f : Fmt) (a b : Nat) : Nat × Flags :=
  let (x, g) := Num.add .rne (f.num a) (f.num b).neg
  let (r, h) := f.ofNum .rne x
  (r, g ||| h)

def Fmt.mul (f : Fmt) (a b : Nat) : Nat × Flags :=
  let (x, g) := Num.mul (f.num a) (f.num b)
  let (r, h) := f.ofNum .rne x
  (r, g ||| h)

/-- a × b + d, exact; a NaN among the inputs gives NaN and no flag (R70, R148). -/
def Num.fma (a b d : Num) : Num × Flags :=
  if a.isNan || b.isNan || d.isNan then (.nan, 0)
  else
    let (x, g) := Num.mul a b
    let (y, h) := Num.add .rne x d
    (y, g ||| h)

/-- a × b + d with one rounding (R148). -/
def Fmt.fma (f : Fmt) (a b d : Nat) : Nat × Flags :=
  let (x, g) := Num.fma (f.num a) (f.num b) (f.num d)
  let (r, h) := f.ofNum .rne x
  (r, g ||| h)

/-- Min or Max of R149: NaN is propagated, −0 orders below +0, no flag. -/
def Fmt.minMax (f : Fmt) (isMin : Bool) (a b : Nat) : Nat :=
  let sa := a / 2 ^ f.magBits % 2 == 1
  match Num.cmp (f.num a) (f.num b) with
  | none => f.canon
  | some .lt => if isMin then a else b
  | some .gt => if isMin then b else a
  | some .eq => if sa == isMin then a else b

/-- a / b, correctly rounded (R155): the quotient is formed with a last bit that says whether a remainder is left. -/
def Fmt.div (f : Fmt) (a b : Nat) : Nat × Flags :=
  match f.num a, f.num b with
  | .nan, _ => (f.canon, 0)
  | _, .nan => (f.canon, 0)
  | .inf _, .inf _ => (f.canon, flagNV)
  | .inf s, .fin t _ _ => f.ofNum .rne (.inf (s != t))
  | .fin s _ _, .inf t => (f.signed (s != t) 0, 0)
  | .fin s m e, .fin t n g =>
    if n = 0 then
      if m = 0 then (f.canon, flagNV) else (f.signed (s != t) (f.inf.getD f.top), flagDZ)
    else
      let k := f.mb + 4 + Nat.log2 n
      let q := m * 2 ^ k / n
      let r := m * 2 ^ k % n
      f.round .rne (s != t) (2 * q + (if r = 0 then 0 else 1)) (e - g - (k : Int) - 1)

/-- The integer square root, by the bits from `i` − 1 down, above a root `r` found so far. -/
def isqrtFrom (x : Nat) : Nat → Nat → Nat
  | 0, r => r
  | i + 1, r =>
    let c := r + 2 ^ i
    isqrtFrom x i (if c * c ≤ x then c else r)

def isqrt (x : Nat) : Nat := isqrtFrom x (Nat.log2 x / 2 + 1) 0

/-- √a, correctly rounded (R155). -/
def Fmt.sqrt (f : Fmt) (a : Nat) : Nat × Flags :=
  match f.num a with
  | .nan => (f.canon, 0)
  | .inf s => if s then (f.canon, flagNV) else f.ofNum .rne (.inf false)
  | .fin s m e =>
    if m = 0 then (f.signed s 0, 0)
    else if s then (f.canon, flagNV)
    else
      let odd := e % 2 != 0
      let m1 := if odd then 2 * m else m
      let e1 := if odd then e - 1 else e
      let k := f.mb + 3
      let x := m1 * 4 ^ k
      let r := isqrt x
      f.round .rne false (2 * r + (if r * r = x then 0 else 1)) (e1 / 2 - (k : Int) - 1)

/-- The 12-bit reciprocal estimate of an FP32 value (R154). -/
def rcpEst (a : Nat) : Nat × Flags :=
  match fp32.num a with
  | .nan => (fp32.canon, 0)
  | .inf s => (fp32.signed s 0, 0)
  | .fin s m e =>
    if m = 0 then (fp32.signed s 0x7F800000, flagDZ)
    else
      let l := Nat.log2 m
      let num := 2 ^ (l + 40)
      let q := num / m
      let x := 2 * q + (if num % m = 0 then 0 else 1)
      let (n, _) := roundAt .rne false x 0 ((Nat.log2 x : Int) - 11)
      fp32.round .rne s n ((Nat.log2 x : Int) - 11 - 41 - (e + (l : Int)))

/-- An integral value of the same format; a zero keeps the sign of a, and no flag is raised (R153). -/
def Fmt.integral (f : Fmt) (rm : Rm) (a : Nat) : Nat :=
  match f.num a with
  | .nan => f.canon
  | .inf _ => a
  | .fin s m e =>
    let (n, _) := roundAt rm s m e 0
    if n = 0 then f.signed s 0 else if (0 : Int) ≤ e then a else (f.round .rne s n 0).1

/-- The class bit of R152. -/
def Fmt.classBit (f : Fmt) (a : Nat) : Nat :=
  let mag := a % 2 ^ f.magBits
  let sub := decide (mag < 2 ^ f.mb)
  match f.num a with
  | .nan => 256
  | .inf s => if s then 1 else 128
  | .fin s m _ =>
    if m = 0 then (if s then 8 else 16)
    else if sub then (if s then 4 else 32)
    else (if s then 2 else 64)

/-- The predicates of FCMP (R47, R151). -/
def predHolds (q : FPred) (o : Option Ordering) : Bool :=
  match q, o with
  | .eq, some .eq => true
  | .ne, some .eq => false
  | .ne, _ => true
  | .lt, some .lt => true
  | .le, some .lt => true
  | .le, some .eq => true
  | .gt, some .gt => true
  | .ge, some .gt => true
  | .ge, some .eq => true
  | .ord, some _ => true
  | .uno, none => true
  | .ueq, none => true
  | .ueq, some .eq => true
  | .one, some .lt => true
  | .one, some .gt => true
  | .ult, none => true
  | .ult, some .lt => true
  | .ule, none => true
  | .ule, some .lt => true
  | .ule, some .eq => true
  | .ugt, none => true
  | .ugt, some .gt => true
  | .uge, none => true
  | .uge, some .gt => true
  | .uge, some .eq => true
  | .eq, _ | .lt, _ | .le, _ | .gt, _ | .ge, _ | .ord, _ | .uno, _ | .ueq, _ | .one, _
  | .ult, _ | .ule, _ | .ugt, _ | .uge, _ => false

/-! ## Conversions (R72, R156) -/

/-- An integer from `lo` to `hi`, as its two's complement in `w` bits. -/
def toInt (w : Nat) (lo hi : Int) (rm : Rm) : Num → Nat × Flags
  | .nan => (0, flagNV)
  | .inf s => (((if s then lo else hi) % (2 ^ w : Nat)).toNat, flagNV)
  | .fin s m e =>
    let (n, x) := roundAt rm s m e 0
    let v := sgnInt s n
    if v < lo then ((lo % (2 ^ w : Nat)).toNat, flagNV)
    else if hi < v then ((hi % (2 ^ w : Nat)).toNat, flagNV)
    else ((v % (2 ^ w : Nat)).toNat, flagIf x flagNX)

def toI32 : Rm → Num → Nat × Flags := toInt 32 (-2147483648) 2147483647
def toU32 : Rm → Num → Nat × Flags := toInt 32 0 4294967295
def toI64 : Rm → Num → Nat × Flags := toInt 64 (-9223372036854775808) 9223372036854775807
def toI8 : Num → Nat × Flags := toInt 8 (-128) 127 .rne

/-- An exact integer as a value. -/
def Num.ofInt (v : Int) : Num := .fin (decide (v < 0)) v.natAbs 0

/-- One row of R72 for a floating-point narrow format: what NaN, an infinity and a finite overflow become. -/
def narrowTo (f : Fmt) (nanOut : Nat × Flags) (infOut ovOut : Bool → Nat × Flags) : Num → Nat × Flags
  | .nan => nanOut
  | .inf s => infOut s
  | .fin s m e =>
    let r := f.roundMag .rne s m e
    if f.top < r.mag then ovOut s
    else (f.signed s r.mag, flagIf r.inexact flagNX ||| flagIf (r.tiny && r.inexact) flagUF)

/-- The narrow conversions of CVTN and of the drain, RNE (R72). -/
def toNarrow (t : CvtnFmt) (x : Num) : Nat × Flags :=
  match t with
  | .e4m3 => narrowTo e4m3 (0x7F, 0) (fun s => (e4m3.signed s 0x7E, flagOF ||| flagNX))
      (fun s => (e4m3.signed s 0x7E, flagOF ||| flagNX)) x
  | .e4m3n => narrowTo e4m3 (0x7F, 0) (fun _ => (0x7F, 0)) (fun _ => (0x7F, flagOF ||| flagNX)) x
  | .e5m2 => narrowTo e5m2 (0x7E, 0) (fun s => (e5m2.signed s 0x7B, flagOF ||| flagNX))
      (fun s => (e5m2.signed s 0x7B, flagOF ||| flagNX)) x
  | .e5m2n => narrowTo e5m2 (0x7E, 0) (fun s => (e5m2.signed s 0x7C, 0))
      (fun s => (e5m2.signed s 0x7C, flagOF ||| flagNX)) x
  | .e2m1 => narrowTo e2m1 (0, flagNV) (fun s => (e2m1.signed s 7, flagOF ||| flagNX))
      (fun s => (e2m1.signed s 7, flagOF ||| flagNX)) x
  | .i8 => toI8 x

/-- The code of a NaN scale in a narrow format (R157). -/
def nanCode : CvtnFmt → Nat
  | .e4m3 | .e4m3n => 0x7F
  | .e5m2 | .e5m2n => 0x7E
  | .e2m1 | .i8 => 0

/-- CVTN of one FP32 value under a scale byte (R157). -/
def cvtnOne (t : CvtnFmt) (a s : Nat) : Nat × Flags :=
  if s = 0xFF then (nanCode t, flagNARROW)
  else toNarrow t ((fp32.num a).scale (127 - (s : Int)))

/-- The ternary code: 0, +1 or −1; the reserved code is read as 0 with NARROW (R61). -/
def ternary (c : Nat) : Int × Flags :=
  match c % 4 with
  | 1 => (1, 0)
  | 3 => (-1, 0)
  | 2 => (0, flagNARROW)
  | _ => (0, 0)

/-- The narrow element of CVTW in the low bits of a lane (R158). -/
def cvtwElem (t : CvtwFmt) (a : Nat) : Num × Flags :=
  match t with
  | .e4m3 => (e4m3.num (a % 256), 0)
  | .e5m2 => (e5m2.num (a % 256), 0)
  | .e2m1 => (e2m1.num (a % 16), 0)
  | .i8 => (Num.ofInt (((a % 256 : Nat) : Int) - (if 128 ≤ a % 256 then 256 else 0)), 0)
  | .t2 => ((Num.ofInt (ternary a).1), (ternary a).2)

/-- CVTW of one narrow element under a scale byte (R158). -/
def cvtwOne (t : CvtwFmt) (a s : Nat) : Nat × Flags :=
  if s = 0xFF then (fp32.canon, flagNARROW)
  else
    let (v, g) := cvtwElem t a
    let (r, h) := fp32.ofNum .rne (v.scale ((s : Int) - 127))
    (r, g ||| h)

/-- CVT of one value, the source as its bits (R48, R156). -/
def cvtOne (c : CvtCode) (rm : Rm) (a : Nat) : Nat × Flags :=
  let sx (w : Nat) : Int := if 2 ^ (w - 1) ≤ a % 2 ^ w then ((a % 2 ^ w : Nat) : Int) - (2 ^ w : Nat) else ((a % 2 ^ w : Nat) : Int)
  match c with
  | .itof => fp32.ofNum rm (Num.ofInt (sx 32))
  | .utof => fp32.ofNum rm (Num.ofInt ((a % 2 ^ 32 : Nat) : Int))
  | .ftoi => toI32 rm (fp32.num a)
  | .ftou => toU32 rm (fp32.num a)
  | .ftod => fp64.ofNum rm (fp32.num a)
  | .dtof => fp32.ofNum rm (fp64.num a)
  | .itod => fp64.ofNum rm (Num.ofInt (sx 32))
  | .utod => fp64.ofNum rm (Num.ofInt ((a % 2 ^ 32 : Nat) : Int))
  | .dtoi => toI32 rm (fp64.num a)
  | .dtou => toU32 rm (fp64.num a)
  | .ltod => fp64.ofNum rm (Num.ofInt (sx 64))
  | .dtol => toI64 rm (fp64.num a)
  | .ftoh => fp16.ofNum rm (fp32.num a)
  | .hltof => fp32.ofNum rm (fp16.num (a % 65536))
  | .hhtof => fp32.ofNum rm (fp16.num (a / 65536 % 65536))
  | .ftob => bf16.ofNum rm (fp32.num a)
  | .bltof => fp32.ofNum rm (bf16.num (a % 65536))
  | .bhtof => fp32.ofNum rm (bf16.num (a / 65536 % 65536))

/-- d + a0 × b0 + a1 × b1 to FP32 with one rounding (R168); the elements are of format `f`. -/
def dot2One (f : Fmt) (d a b : Nat) : Nat × Flags :=
  let a0 := f.num (a % 65536)
  let a1 := f.num (a / 65536 % 65536)
  let b0 := f.num (b % 65536)
  let b1 := f.num (b / 65536 % 65536)
  let x := fp32.num d
  if a0.isNan || a1.isNan || b0.isNan || b1.isNan || x.isNan then (fp32.canon, 0)
  else
    let (p0, g0) := Num.mul a0 b0
    let (p1, g1) := Num.mul a1 b1
    let (s, g2) := Num.add .rne x p0
    let (t, g3) := Num.add .rne s p1
    let (r, g4) := fp32.ofNum .rne t
    (r, g0 ||| g1 ||| g2 ||| g3 ||| g4)

/-! ## Piecewise polynomials (R88) -/

/-- One segment: breakpoint and coefficients, FP32 encodings. -/
structure Segment where
  b : Word
  c0 : Word
  c1 : Word
  c2 : Word
  c3 : Word
  deriving DecidableEq, Repr

/-- A segment with every field +0. -/
def Segment.zero : Segment := ⟨0, 0, 0, 0, 0⟩

/-- The highest-indexed segment whose breakpoint is not above x, else the first (R88). -/
def pickSegment (first : Segment) (x : Num) : List Segment → Segment
  | [] => first
  | s :: rest =>
    match Num.cmp (fp32.num s.b.toNat) x with
    | some .lt | some .eq => pickSegment s x rest
    | some .gt | none => pickSegment first x rest

/-- The value of a table at x (R88). -/
def pwpEval (tab : List Segment) (x : Nat) : Nat × Flags :=
  let s := pickSegment (tab.headD Segment.zero) (fp32.num x) tab
  let (t, g0) := fp32.sub x s.b.toNat
  let (y1, g1) := fp32.fma s.c3.toNat t s.c2.toNat
  let (y2, g2) := fp32.fma y1 t s.c1.toNat
  let (y3, g3) := fp32.fma y2 t s.c0.toNat
  (y3, g0 ||| g1 ||| g2 ||| g3)

end Sys2Proof.Machine
end

