-- ==== Sys2Proof/Machine/Codec.lean ====
section
/-! DEFINITION. Coded FP64 blocks: the stream of R94 and R95, encoding (R96), decoding (R97), and the loss of a block (R98). -/

namespace Sys2Proof.Machine

/-- The rate b in bits per value of a CRATE field (R89). -/
def rateBits (crate : Nat) : Nat :=
  match crate with
  | 0 => 16
  | 1 => 24
  | 2 => 32
  | _ => 48

/-- The bits of `v` from bit `n` − 1 down to bit 0 (R94). -/
def bitsMsb (v : Nat) : Nat → List Bool
  | 0 => []
  | n + 1 => v.testBit n :: bitsMsb v n

/-- The number whose bits, most significant first, are given. -/
def ofBitsMsb (bs : List Bool) : Nat := bs.foldl (fun n b => 2 * n + b.toNat) 0

/-- Eight stream bits as a byte, bit k of the stream at bit k of the byte (R94). -/
def byteOfBits (bs : List Bool) : Byte :=
  BitVec.ofNat 8 (bs.foldr (fun b n => 2 * n + b.toNat) 0)

/-- `n` bytes of a stream. -/
def bytesOfBits : Nat → List Bool → List Byte
  | 0, _ => []
  | n + 1, bs => byteOfBits (bs.take 8) :: bytesOfBits n (bs.drop 8)

/-- The stream of a list of bytes (R94). -/
def bitsOfBytes (bs : List Byte) : List Bool :=
  bs.flatMap fun b => (List.range 8).map fun k => b.getLsbD k

/-- The class code of a value (R94). -/
def classCode (x : Nat) : Nat :=
  match fp64.num x with
  | .nan => 3
  | .inf s => if s then 2 else 1
  | .fin .. => 0

/-- One level of the transform: the sums and the differences of neighbouring pairs (R96). -/
def liftPairs : List Int → List Int × List Int
  | a :: b :: rest =>
    let d := a - b
    let (t, ds) := liftPairs rest
    ((b + d / 2) :: t, d :: ds)
  | _ => ([], [])

/-- One level of the inverse transform (R97). -/
def unliftPairs : List Int → List Int → List Int
  | s :: ss, d :: ds =>
    let lo := s - d / 2
    (d + lo) :: lo :: unliftPairs ss ds
  | _, _ => []

/-- The sixteen coefficients (R96). -/
def coefficients (q : List Int) : List Int :=
  let (s1, d1) := liftPairs q
  let (s2, d2) := liftPairs s1
  let (s3, d3) := liftPairs s2
  let (s4, d4) := liftPairs s3
  s4 ++ d4 ++ d3 ++ d2 ++ d1

/-- The values of sixteen coefficients (R97). -/
def fromCoefficients (c : List Int) : List Int :=
  let s4 := c.take 1
  let s3 := unliftPairs s4 ((c.drop 1).take 1)
  let s2 := unliftPairs s3 ((c.drop 2).take 2)
  let s1 := unliftPairs s2 ((c.drop 4).take 4)
  unliftPairs s1 (c.drop 8)

/-- The block exponent E (R96). -/
def blockExponent (v : List Nat) : Nat :=
  v.foldl (fun e x =>
    let mag := x % 2 ^ 63
    if mag = 0 then e else max e (max (mag / 2 ^ 52) 1)) 0

/-- The fixed-point integer of a value under a block exponent, RTZ (R96). -/
def fixedPoint (e : Nat) (x : Nat) : Int :=
  match fp64.num x with
  | .fin s m g => sgnInt s (roundAt .rtz s m (g + 61 - ((e : Int) - 1023)) 0).1
  | .nan | .inf _ => 0

/-- The bit planes from `n` − 1 down to 0 (R94). -/
def planes (mags : List Nat) : Nat → List Bool
  | 0 => []
  | n + 1 => mags.map (fun m => m.testBit n) ++ planes mags n

/-- Encode 16 FP64 encodings at `b` bits per value (R96). -/
def encodeBlock (b : Nat) (x : List Nat) : List Byte :=
  let cls := x.map classCode
  let special := cls.any (fun c => c != 0)
  let v := x.map (fun a => if classCode a = 0 then a else 0)
  let e := blockExponent v
  let coef := coefficients (v.map (fixedPoint e))
  let mags := coef.map Int.natAbs
  let p := Nat.log2 (mags.foldl (fun a m => a ||| m) 0)
  let head := special :: ((if special then cls.flatMap (fun c => bitsMsb c 2) else []) ++
    bitsMsb e 11 ++ bitsMsb p 6 ++ coef.map (fun c => decide (c < 0)))
  let stream := (head ++ planes mags (p + 1)).take (16 * b)
  bytesOfBits (2 * b) (stream ++ List.replicate (16 * b - stream.length) false)

/-- One plane read into the magnitudes and the lowest planes found so far (R97). -/
def readPlane (p : Nat) : List (Nat × Option Nat) → List Bool → List (Nat × Option Nat) × List Bool
  | [], bs => ([], bs)
  | ms, [] => (ms, [])
  | (m, _) :: ms, b :: bs =>
    let (r, rest) := readPlane p ms bs
    ((if b then m + 2 ^ p else m, some p) :: r, rest)

/-- The planes from `n` − 1 down to 0 (R97). -/
def readPlanes : Nat → List (Nat × Option Nat) → List Bool → List (Nat × Option Nat)
  | 0, ms, _ => ms
  | n + 1, ms, bs =>
    let (r, rest) := readPlane n ms bs
    readPlanes n r rest

/-- The reconstruction offset of a coefficient's magnitude (R97). -/
def reconstruct (c : Nat × Option Nat) : Nat :=
  match c.2 with
  | none => c.1
  | some l => if c.1 ≠ 0 ∧ 0 < l then c.1 + 2 ^ (l - 1) else c.1

/-- A value rounded to FP64 with ±∞ replaced by ± the largest finite (R97). -/
def saturateFinite (s : Int) (e : Int) : Nat :=
  let (r, _) := fp64.round .rne (decide (s < 0)) s.natAbs e
  if r % 2 ^ 63 = 0x7FF0000000000000 then r - 1 else r

/-- Decode a block (R97). -/
def decodeBlock (b : Nat) (bytes : List Byte) : List Nat :=
  let bits := (bitsOfBytes bytes).take (16 * b)
  let special := bits.headD false
  let r1 := bits.drop 1
  let cls := (List.range 16).map fun i => if special then ofBitsMsb ((r1.drop (2 * i)).take 2) else 0
  let r2 := if special then r1.drop 32 else r1
  let e := ofBitsMsb (r2.take 11)
  let p := ofBitsMsb ((r2.drop 11).take 6)
  let signs := (r2.drop 17).take 16
  let mags := readPlanes (p + 1) (List.replicate 16 (0, none)) (r2.drop 33)
  let coef := (signs.zip mags).map fun (s, m) => sgnInt s (reconstruct m)
  let vals := fromCoefficients coef
  (cls.zip vals).map fun (c, s) =>
    match c with
    | 1 => 0x7FF0000000000000
    | 2 => 0xFFF0000000000000
    | 3 => 0x7FF8000000000000
    | _ => saturateFinite s ((e : Int) - 1084)

/-- The 128 logical bytes of 16 values. -/
def bytesOf64s (x : List Nat) : List Byte :=
  x.flatMap fun v => (List.range 8).map fun k => BitVec.ofNat 8 (v / 2 ^ (8 * k))

/-- A little-endian number of bytes (R2). -/
def natOfBytes (bs : List Byte) : Nat := bs.foldr (fun b n => b.toNat + 256 * n) 0

/-- `n` FP64 encodings of a list of bytes. -/
def s64OfBytes : Nat → List Byte → List Nat
  | 0, _ => []
  | n + 1, bs => natOfBytes (bs.take 8) :: s64OfBytes n (bs.drop 8)

/-- How far a block's decode lies from its values: lossy or not, drop and bound (R98). -/
structure Loss where
  lossy : Bool
  drop : Int
  bound : Nat
  deriving DecidableEq, Repr

/-- The larger of an error found so far and |x' − x| (R98). -/
def maxErr (m : Num) (x y : Nat) : Num :=
  if x = y then m
  else
    match Num.add .rne (fp64.num y) (fp64.num x).neg with
    | (.fin _ n e, _) => if Num.cmp m (.fin false n e) = some .lt then .fin false n e else m
    | (.nan, _) | (.inf _, _) => m

/-- The loss of encoding `x` at rate `b` (R98). -/
def blockLoss (b : Nat) (x : List Nat) : Loss :=
  let y := decodeBlock b (encodeBlock b x)
  let pairs := x.zip y
  let same := pairs.all fun (u, v) => u == v || (classCode u == 3 && classCode v == 3)
  let err := pairs.foldl (fun m (u, v) => maxErr m u v) (Num.fin false 0 0)
  match err with
  | .fin _ m e =>
    ⟨!same, if m = 0 then -1075 else e + (Nat.log2 m : Int), (fp64.round .rup false m e).1⟩
  | .nan | .inf _ => ⟨!same, -1075, 0⟩

end Sys2Proof.Machine
end

