-- ==== Sys2Proof/Machine/Table.lean ====
section
/-! DEFINITION. Sparse tables keyed by a number, and the list operations the machine shares. -/

namespace Sys2Proof.Machine

/-- A table: pairs of a number and what it holds. An unlisted number holds the default that its reader names. -/
abbrev Table (α : Type) := List (Nat × α)

/-- What a table holds at a number. -/
def tget {α : Type} (d : α) (t : Table α) (k : Nat) : α :=
  match t with
  | [] => d
  | (j, x) :: rest => if j = k then x else tget d rest k

/-- What a table holds at a number, if it lists it. -/
def tfind {α : Type} (t : Table α) (k : Nat) : Option α :=
  match t with
  | [] => none
  | (j, x) :: rest => if j = k then some x else tfind rest k

/-- A table with the entry of a number replaced, in rising order. -/
def tput {α : Type} (t : Table α) (k : Nat) (x : α) : Table α :=
  match t with
  | [] => [(k, x)]
  | (j, y) :: rest =>
    if k < j then (k, x) :: (j, y) :: rest
    else if j = k then (k, x) :: rest
    else (j, y) :: tput rest k x

/-- A table without the entries of a number. -/
def tdel {α : Type} (t : Table α) (k : Nat) : Table α := t.filter fun e => e.1 != k

/-- The element of a list at a place, or a default. -/
def lget {α : Type} (d : α) (l : List α) (n : Nat) : α :=
  match l, n with
  | [], _ => d
  | x :: _, 0 => x
  | _ :: rest, n + 1 => lget d rest n

/-- A list with the element at a place replaced. -/
def lset {α : Type} (l : List α) (n : Nat) (x : α) : List α :=
  match l, n with
  | [], _ => []
  | _ :: rest, 0 => x :: rest
  | y :: rest, n + 1 => y :: lset rest n x

/-- A list with a number added unless it is there. -/
def addNew {α : Type} [BEq α] (l : List α) (x : α) : List α := if l.contains x then l else l ++ [x]

/-- The natural number kept modulo 2^w in w bits. -/
def bv (w : Nat) (n : Nat) : BitVec w := BitVec.ofNat w n

/-- Bits lo and up of a number, `len` of them. -/
def bits (n lo len : Nat) : Nat := n / 2 ^ lo % 2 ^ len

/-- A condition as 0 or 1. -/
def b2n (b : Bool) : Nat := if b then 1 else 0

end Sys2Proof.Machine
end

