-- ==== Sys2Proof/Machine/State.lean ====
section
/-! DEFINITION. The state of the package, its faults and refusals, and the state after reset. Plain data throughout. -/

namespace Sys2Proof.Machine

/-! ## Lines, and what operations ask of them -/

/-- What names a line of an L1: a physical line (rate 0), or half `h` of a decoded block at a rate (R101). -/
structure LKey where
  base : Nat
  h : Nat
  rate : Nat
  deriving DecidableEq, Repr

/-- One byte of an L1 line, with its valid and dirty bits (R269). -/
inductive L1Byte where
  | invalid
  | clean (b : Byte)
  | dirty (b : Byte)
  deriving DecidableEq, Repr

/-- A line of a first-level cache. `attr` is the page attribute it was used under (R271) and `crid` the region of a decoded line, `writer` the tiller that last wrote it,
`since` when a byte last went dirty, and `va` its logical address. A set's lines stand in order of use, the least recent first. -/
structure L1Line where
  key : LKey
  set : Nat
  cells : List L1Byte
  attr : Nat
  crid : Nat
  writer : Nat
  since : Nat
  va : Nat
  deriving DecidableEq, Repr

/-- A line of a core's parameter cache: the launch it was filled for, its virtual address, the line it was filled from and its bytes (R226, R314). -/
structure PLine where
  launch : Nat
  va : Nat
  key : LKey
  bytes : List Byte
  deriving DecidableEq, Repr

/-- A lane of an atomic at its home: the lane, the physical address, the operand, and the compare value of a CAS. -/
structure AtomLane where
  lane : Nat
  pa : Nat
  operand : Nat
  cmp : Nat
  deriving DecidableEq, Repr

/-- What a request does at the home. -/
inductive ReqOp where
  /-- A read of a line: `install` fills the L1, `overlay` delivers the L1's dirty bytes over the line, `last` carries the .last hint (R272). -/
  | read (install overlay last : Bool)
  /-- A fill of the parameter cache for a launch (R226). -/
  | param (launch : Nat)
  /-- A write of bytes at offsets of the line, under their mask (R269). -/
  | write (bytes : List (Nat × Byte)) (last : Bool)
  /-- The lanes of an ATOM, RED or CAS (R279). -/
  | atomic (op : AtomOp) (ty : AtomTy) (cas returning : Bool) (lanes : List AtomLane)
  /-- Arming a watch (R222). -/
  | watch (bar : Nat)
  /-- PREF.gr (R285). -/
  | prefGr
  deriving DecidableEq, Repr

/-- Where one line of an operation stands: not yet sent for want of a slot (R273), sent, waiting in an HBM bank (R264), waiting for the codec, or done. -/
inductive LineSt where
  | unsent
  | sent
  | bank
  | codec
  | done
  deriving DecidableEq, Repr

/-- One line of an outstanding operation, with what it asks of the home and its bytes once it is done; `page` is the size of the page it was translated through (R323), `err` marks an uncorrectable error (R278), `held` a held block (R106). -/
structure Part where
  key : LKey
  pa : Nat
  va : Nat
  attr : Nat
  crid : Nat
  page : Nat
  op : ReqOp
  st : LineSt
  data : List Byte
  err : Bool
  held : Bool
  deriving DecidableEq, Repr

/-- A lane of a global access: the lane, its line and the offset in it. -/
structure LaneRef where
  lane : Nat
  key : LKey
  off : Nat
  deriving DecidableEq, Repr

/-! ## Tillers (R5, R113) -/

/-- A vector register's contents under its shape tag (R119). -/
inductive VReg where
  | u (x : Word)
  | a (base stride : Word)
  | g (lanes : List Word)
  deriving DecidableEq, Repr

/-- A register that a split-phase instruction can leave pending (R126). -/
inductive PReg where
  | s (n : Nat)
  | v (n : Nat)
  | m (n : Nat)
  deriving DecidableEq, Repr

/-- The state of a PC slot (R171). -/
inductive PathSt where
  | ready
  | parked
  | empty
  deriving DecidableEq, Repr

/-- A PC slot: PC, MASK, JOIN and OUTR, kept also while it is empty (R170, R171). -/
structure Slot where
  st : PathSt
  pc : Word
  mask : Word
  join : Word
  outr : Word
  deriving DecidableEq, Repr

/-- JOIN and OUTR of none (R170). -/
def joinNone : Word := 1

/-- An empty slot (R171). -/
def Slot.blank : Slot := ⟨.empty, 0, 0, joinNone, joinNone⟩

/-- The clause under way: its header's address, its N, and its words as fetched, the header first (R30), or none where RTE resumes it and it is fetched when it is picked (R336);
the index of the next unissued word; the PC slot it issues from (true: B), its class, whether it issues in handler mode, and whether the word at `idx` is being repeated (R142). -/
structure Run where
  hdr : Word
  n : Nat
  words : List Word
  idx : Nat
  slotB : Bool
  cls : Nat
  handler : Bool
  rep : Bool
  deriving DecidableEq, Repr

/-- What holds a tiller back beyond pending registers (R16). -/
inductive Block where
  | none
  /-- A WAIT.a whose counter is above the threshold (R212); `p` is its park bit. -/
  | waitA (c : Nat) (thr : Nat) (p : Bool)
  /-- A WAIT.b whose phase has not passed (R219); `ok` once it has, with the scope of its acquire. -/
  | waitB (off : Nat) (v : Word) (p : Bool) (ok : Option Nat)
  /-- Parked on a replayable fault: the page (VA bits 55:16) that lacks a translation, and whether a migrating leaf held it (R324, R328).
  `free` is set when an invalidation has released it to walk again. -/
  | fault (page : Nat) (acc : Access) (mig free : Bool)
  deriving DecidableEq, Repr

/-- The steps of a pass of Settle (R178): arrivals, the keys that its paths stand under, the merges of those keys, and the loads of slots A and B. -/
inductive SettlePhase where
  | arrivals
  | keys
  | merges (keys : List (Word × Word))
  | loadA
  | loadB
  deriving DecidableEq, Repr

/-- What a list step leaves to be taken up again after a replayable fault on a spill access (R175): a step of Settle, with the slot that does not arrive, whether its pass has changed anything, and the instruction it follows; or a trap entry; `fetch` marks a tiller that waits for a page of the header of the path in a slot (R324, R327). -/
inductive ListStep where
  | fetch (slotB : Bool)
  | settle (skip : Option Bool) (ph : SettlePhase) (ch : Bool) (pc : Word)
  | trap (kind : Nat) (info0 info1 tpc : Word) (widx : Nat) (hdr : Word) (n k : Nat) (slotB : Bool)
  deriving DecidableEq, Repr

/-- Where a tiller stands in a pre-emption (R338, R342, R344); `listing` is a halted tiller that is parked on the writing of its list, with what it was blocked on before (R175). -/
inductive HaltSt where
  | running
  | halted
  | listing (was : Block)
  | saving
  | ctxdone
  | resuming
  | waiting
  deriving DecidableEq, Repr

/-- An errored load: its registers and counter, the place TINFO0 and TINFO1 give, whether the block was held, and the physical address of the line (R278). -/
structure ErrMark where
  regs : List PReg
  ctr : Option Nat
  pa : Nat
  info0 : Word
  info1 : Word
  held : Bool
  deriving DecidableEq, Repr

/-- A tiller position and the tiller that holds it.
`lanes` are the live lanes a loaded entry's mask is ANDed with (R174); `hpc` is where the handler path stands (R332);
`again` says that the word to issue has issued once and waited: for its counter, for the release it makes first, or for a translation; `ran` says that it was eligible, or issued, in its core's last cycle (R199); `vtag` is the line of a VRST's first word once it has been read (log 43). -/
structure Tiller where
  live : Bool
  sheaf : Nat
  rank : Nat
  num : Nat
  steward : Bool
  s : Table Word
  v : Table VReg
  m : Table Word
  a : Table Nat
  flags : Flags
  widx : Nat
  cln : Nat
  clk : Nat
  rslot : Bool
  hnd : Bool
  pwinTrap : Bool
  reqCap : Nat
  tcause : Word
  tpc : Word
  tinfo0 : Word
  tinfo1 : Word
  lanes : Word
  repcnt : Nat
  slotA : Slot
  slotB : Slot
  head : Nat
  count : Nat
  lastB : Bool
  hpc : Word
  run : Option Run
  pend : List PReg
  block : Block
  parkP : Bool
  step : Option ListStep
  exited : Bool
  halt : HaltSt
  errs : List ErrMark
  ng : Nat
  depth : Nat
  area : Nat
  frame : Nat
  resumev : Word
  notify : Nat
  watches : List Nat
  demoted : Bool
  gapEnd : Nat
  elig : Bool
  wait : Nat
  late : Bool
  defer : Option Nat
  released : Bool
  withheld : Option Nat
  overdue : Bool
  again : Bool
  ran : Bool
  vtag : Option (Part × LaneRef)
  deriving DecidableEq, Repr

/-- A position that holds no tiller; its fields are also what a tiller holds when it first issues, where the launch gives nothing else (R114, R171). -/
def Tiller.blank : Tiller where
  live := false
  sheaf := 0
  rank := 0
  num := 0
  steward := false
  s := []
  v := []
  m := []
  a := []
  flags := 0
  widx := 0
  cln := 0
  clk := 0
  rslot := false
  hnd := false
  pwinTrap := false
  reqCap := 16
  tcause := 0
  tpc := 0
  tinfo0 := 0
  tinfo1 := 0
  lanes := 0xFFFFFFFF
  repcnt := 0
  slotA := ⟨.ready, 0, 0xFFFFFFFF, joinNone, joinNone⟩
  slotB := Slot.blank
  head := 0
  count := 0
  lastB := true
  hpc := 0
  run := none
  pend := []
  block := .none
  parkP := false
  step := none
  exited := false
  halt := .running
  errs := []
  ng := 128
  depth := 0
  area := 0
  frame := 0
  resumev := 1
  notify := 0
  watches := []
  demoted := false
  gapEnd := 0
  elig := false
  wait := 0
  late := false
  defer := none
  released := false
  withheld := none
  overdue := false
  again := false
  ran := false
  vtag := none

/-! ## Workgroups, sheaves, launches and regions -/

/-- The mark of an engine stop on a barrier unit: the tiller that forked the chain, the engine, its code, detail and command index, and the chain's offset (R316, R341). -/
structure EngMark where
  tiller : Nat
  engine : Nat
  code : Nat
  detail : Nat
  cidx : Nat
  chain : Nat
  deriving DecidableEq, Repr

/-- A parameter window: virtual base and size, 0 when unbound (R225). -/
structure Window where
  base : Nat
  size : Nat
  deriving DecidableEq, Repr

/-- A workgroup of a resident or saved sheaf (R10). `badUnits` and `badRows` are the 16-byte units of the allocation and the accumulator rows that stand under an uncorrectable error (R240, log 14). -/
structure Wg where
  core : Nat
  s0 : Nat
  spad : Nat
  bytes : List Host.Cell
  pscope : Table Nat
  lscope : Table Nat
  marks : Table EngMark
  segs : List Segment
  accRows : Nat
  acc : Table Word
  cfg : Word
  hclip : Nat
  morg : Nat
  frame : Nat
  badUnits : List Nat
  badRows : List Nat
  deriving DecidableEq, Repr

/-- A workgroup that holds nothing; its fields are the placement values (R161, R203, R231, R232, R247). -/
def Wg.blank : Wg where
  core := 0
  s0 := 0
  spad := 0
  bytes := []
  pscope := []
  lscope := []
  marks := []
  segs := [Segment.zero]
  accRows := 0
  acc := []
  cfg := 0
  hclip := 254
  morg := 0
  frame := 0
  badUnits := []
  badRows := []

/-- Where a sheaf stands (R12, R337 to R344, R374). -/
inductive SheafSt where
  | waiting
  | resident
  | pending
  | saving
  | saved
  | resuming
  | retired
  | discarded
  deriving DecidableEq, Repr

/-- A sheaf of a launch (R10, R12): its launch and index, its cluster and the positions of its tillers by 16 · rank + TILLER, when it was placed and pre-empted, its frame set,
whether the release that its retirement or its save makes has begun, its watchdog counts and the time they are counted to (R199), the tillers that had exited when it was saved (R343), and whether its shortfall record is sent (R192). -/
structure Sheaf where
  launch : Nat
  index : Nat
  st : SheafSt
  cluster : Nat
  tids : Table Nat
  placed : Nat
  preempted : Nat
  frameSet : Option Nat
  closing : Bool
  run : Nat
  stall : Nat
  seen : Nat
  kept : Table Tiller
  shortfall : Bool
  deriving DecidableEq, Repr

def Sheaf.blank : Sheaf where
  launch := 0
  index := 0
  st := .retired
  cluster := 0
  tids := []
  placed := 0
  preempted := 0
  frameSet := none
  closing := false
  run := 0
  stall := 0
  seen := 0
  kept := []
  shortfall := false

/-- The launch packet (R350), its addresses as numbers. -/
structure Packet where
  codeBase : Nat
  recAddr : Nat
  region : Nat
  entry : Nat
  trapv : List Nat
  wg : Nat
  tillers : Nat
  ng : Nat
  spadg : Nat
  accg : Nat
  spill : Nat
  nframes : Nat
  minFreq : Nat
  maxPower : Nat
  boost : Bool
  gx : Nat
  gy : Nat
  gz : Nat
  cmask : Nat
  wintab : Nat
  spillBase : Nat
  frameBase : Nat
  deptab : Nat
  mustZero : Bool
  deriving DecidableEq, Repr

def Packet.zero : Packet where
  codeBase := 0
  recAddr := 0
  region := 0
  entry := 0
  trapv := []
  wg := 1
  tillers := 1
  ng := 128
  spadg := 0
  accg := 0
  spill := 0
  nframes := 0
  minFreq := 0
  maxPower := 1
  boost := false
  gx := 1
  gy := 1
  gz := 1
  cmask := 0
  wintab := 0
  spillBase := 0
  frameBase := 0
  deptab := 0
  mustZero := true

/-- A dependency specification (R358). -/
structure DepSpec where
  kind : Nat
  k : Nat
  prec : Nat
  table : Nat
  list : Nat
  px : Nat
  py : Nat
  pz : Nat
  deriving DecidableEq, Repr

/-- An admitted launch: the device's copies (R353) and counts (R351). `told` are the dependency words a record was sent for (R359). -/
structure Launch where
  pkt : Packet
  wins : List Window
  dep : DepSpec
  next : Nat
  placed : Nat
  retired : Nat
  preempts : Nat
  status : Nat
  free : List Nat
  told : List Nat
  order : Nat
  issuer : Nat
  graph : Option Nat
  deriving DecidableEq, Repr

def Launch.blank : Launch where
  pkt := Packet.zero
  wins := []
  dep := ⟨0, 0, 0, 0, 0, 0, 0, 0⟩
  next := 0
  placed := 0
  retired := 0
  preempts := 0
  status := 0
  free := []
  told := []
  order := 0
  issuer := 0
  graph := none

/-- A graph instance (R361): the packets of its snapshot, the graph object's address, and the index of the packet admitted next. -/
structure GraphInst where
  obj : Nat
  root : Nat
  issuer : Nat
  seq : Nat
  pkts : List (List Byte)
  running : Bool
  launches : List Nat
  deriving DecidableEq, Repr

/-- The scheduler's copy of an RCB (R346, R348): its fields as read. -/
structure Rcb where
  parent : Nat
  id : Nat
  ovr : Nat
  prio : Nat
  preempt : Bool
  budget : Nat
  tenant : Nat
  fmincap : Nat
  grant : Nat
  bgrant : Nat
  fdq : Nat
  ptroot : Nat
  runlim : Nat
  stalllim : Nat
  zeroOk : Bool
  deriving DecidableEq, Repr

def Rcb.zero : Rcb where
  parent := 0
  id := 0
  ovr := 0
  prio := 0
  preempt := false
  budget := 0
  tenant := 0
  fmincap := 600
  grant := 1
  bgrant := 0
  fdq := 0
  ptroot := 0
  runlim := 0
  stalllim := 0
  zeroOk := true

/-! ## Requests and outstanding operations -/

/-- A register and the value that lands in it. -/
inductive RegVal where
  | s (r : SReg) (x : Word)
  | v (r : VNum) (x : VReg)
  | m (r : MReg) (x : Word)
  deriving DecidableEq, Repr

/-- A request on its way to, or queued at, a home slice. -/
structure Req where
  id : Nat
  src : Nat
  tid : Nat
  flight : Option Nat
  key : LKey
  pa : Nat
  op : ReqOp
  tenant : Nat
  age : Nat
  deriving DecidableEq, Repr

/-- The landing rows of results that are computed when the instruction issues. -/
inductive LandRow where
  | spad
  | atoms
  | cord
  | divf
  | divi
  | lrefill
  deriving DecidableEq, Repr

/-- Kinds of outstanding operations. -/
inductive FlightKind where
  /-- A result computed at issue. -/
  | result (row : LandRow)
  /-- A global load (R276). -/
  | load (t : VNum) (wd : Width) (lanes : List LaneRef)
  /-- A load from another workgroup's allocation (R209), by lane and offset. -/
  | remote (t : VNum) (wd : Width) (rank : Nat) (offs : List (Nat × Nat))
  /-- A window load (R227): each lane's bytes by virtual address, none beyond the window. -/
  | ldp (t : VNum) (wd : Width) (oob : Bool) (lanes : List (Nat × List (Option Nat)))
  /-- ATOM and CAS (R281, R283). -/
  | atomic (t : VNum) (wide : Bool)
  /-- VRST (R144): a register, the record's first word, and where the words of its payload stand. -/
  | vrst (t : VNum) (first : Nat) (words : List LaneRef)
  /-- The first word of a VRST's record, whose tag the payload depends on (R144, log 43). -/
  | vtag (at0 : LaneRef)
  /-- Stores, reductions and VSAV. -/
  | store
  /-- A store to another workgroup's allocation (R209). -/
  | spadStore (rank : Nat) (cells : List Host.Cell)
  /-- FENCE (R213). -/
  | fence (acq : Bool) (scope : Nat)
  /-- PREF (R285). -/
  | pref
  /-- WATCH until it is armed (R222). -/
  | watch
  /-- A SYS operation after its release: LAUNCH, GRUN or RCBSYNC (0, 1, 2), its destination, the address in its pair, and its park bit (R352). -/
  | sys (op : Nat) (d : SReg) (a : Nat) (p : Bool)
  /-- The release, at a scope, that an instruction makes before its effect, where it has to wait (R217, R352, R370). -/
  | hold (scope : Nat)
  deriving DecidableEq, Repr

/-- An outstanding operation (R126, R211): its tiller and core, its counter, the registers it holds pending, the lanes it writes, what lands, its flags,
the cycles left where the spec counts them (R87, R128, R147), its lines, the old values of an atomic by lane, and what a fence waits for (R213). -/
structure Flight where
  tid : Nat
  core : Nat
  kind : FlightKind
  ctr : Option Nat
  regs : List PReg
  mask : Word
  out : List RegVal
  flags : Flags
  left : Nat
  parts : List Part
  olds : Table Nat
  waits : List Nat
  deriving DecidableEq, Repr

def Flight.blank : Flight where
  tid := 0
  core := 0
  kind := .store
  ctr := none
  regs := []
  mask := 0
  out := []
  flags := 0
  left := 0
  parts := []
  olds := []
  waits := []

/-- What runs next: a step of the device, the next word of a tiller's clause, the next command of an engine unit's chain (log 2), or a record that is being sent. -/
inductive Turn where
  | ev (i : Instr)
  | tiller (tid : Nat)
  | engine (u : Nat)
  /-- A record on its way to the fault queue at a physical address (R349). -/
  | record (fdq : Nat) (bytes : List Byte)
  deriving DecidableEq, Repr

/-- What a job of a core's codec does (R111). -/
inductive CodecKind where
  /-- A decode for the operations that read its block; `install` where one of them fills the L1 (R101). -/
  | decode (flights : List Nat) (install : Bool)
  /-- Work done for the device, kept for its time alone (R112). -/
  | busy
  /-- A piece of the chain on an engine unit that reads or writes coded blocks (R105), each by base and rate: the blocks it reads, those it writes, and those of them that it first decodes (R102). -/
  | engine (u : Nat) (reads writes parts : List (Nat × Nat))
  /-- Accesses of the device's own that a step makes, such as those of spill entries: the turn of that step, which runs when the job is done, and the blocks it reads and writes (R110, R111). -/
  | device (turn : Turn) (reads writes : List (Nat × Nat))
  /-- The locked sequence of R102: its number, the store it belongs to, the dirty bytes by their offset in the block, and the tiller whose access or release made it (R106). -/
  | write (id : Nat) (flight : Option Nat) (dirty : List (Nat × Byte)) (cause : Nat)
  deriving DecidableEq, Repr

/-- A job of a core's codec (R111): the block it decodes or writes back, or the first that an engine's piece writes (rate 0 for none), `left` the class-3 cycles it still needs once it has started,
`touched` the time at which it asked for its lines and its locks (R103), `engine` the ENGINE of a record about it (R326) and `hint` the HINT of its engine's command (R304). -/
structure CodecJob where
  kind : CodecKind
  base : Nat
  rate : Nat
  crid : Nat
  va : Nat
  attr : Nat
  left : Nat
  started : Bool
  touched : Option Nat
  engine : Nat
  hint : Nat
  deriving DecidableEq, Repr

/-- A job of a block, that has not begun. -/
def CodecJob.of (kind : CodecKind) (base rate crid va attr : Nat) : CodecJob := ⟨kind, base, rate, crid, va, attr, 0, false, none, 0xFF, 0⟩

/-- A coded block that a step of the device must read or write through a core's codec, with the class-3 cycles it takes and the HINT of an engine's command (R110, R111, R304). -/
structure Need where
  core : Nat
  base : Nat
  rate : Nat
  wr : Bool
  cost : Nat
  hint : Nat
  deriving DecidableEq, Repr

/-- An entry of a TLB: the root it was walked from, the first VA it maps, the size of its page, and the leaf as read (R322). -/
structure TlbEntry where
  root : Nat
  va : Nat
  size : Nat
  leaf : DWord
  deriving DecidableEq, Repr

/-! ## Cores and clusters -/

/-- A core (R8). -/
structure Core where
  cycles : Nat
  tcyc : List Nat
  clock : Nat
  openCls : Option Nat
  cont : Table Nat
  rr : Table Nat
  l1 : List L1Line
  pcache : List PLine
  tlb1 : Table (List TlbEntry)
  tlb2 : List TlbEntry
  faultBuf : List Nat
  jobs : List CodecJob
  deriving DecidableEq, Repr

/-- A core after reset (R186, R189); its caches and TLBs are empty (log 7). -/
def Core.reset : Core where
  cycles := 0
  tcyc := [0, 0, 0, 0]
  clock := 0
  openCls := none
  cont := []
  rr := []
  l1 := []
  pcache := []
  tlb1 := []
  tlb2 := []
  faultBuf := []
  jobs := []

/-- A cluster (R9): FREQ, whether a step is under way, upward or not, and when it ends in nanoseconds (R193), CLKCTL (R191), the cap of its voltage-frequency table (R192), the allowance counter and withhold level (R194, R196),
how many nanoseconds have been refilled, CLHOLD (R369), retention, the sheaf it is reserved for (R355), a cap that waits for the end of a step (R376), and how many periods of 24 h of TIME have had their voltage-frequency table planned, boot being the first (R376). -/
structure Cluster where
  cur : Nat
  tgt : Nat
  step : Bool
  up : Bool
  stepEnd : Nat
  base : Nat
  batchw : Nat
  cap : Nat
  allow : Int
  wlvl : Nat
  refills : Nat
  held : Bool
  ret : Bool
  retLoss : Nat
  retIdle : Nat
  idleSince : Nat
  reserved : Option Nat
  capNext : Option Nat
  plans : Nat
  deriving DecidableEq, Repr

/-- A cluster after reset (R191, R193, R369); the cap is a choice (log 10). -/
def Cluster.reset : Cluster where
  cur := 1700
  tgt := 1700
  step := false
  up := false
  stepEnd := 0
  base := 44
  batchw := 0
  cap := 2100
  allow := 0
  wlvl := 0
  refills := 0
  held := false
  ret := false
  retLoss := 0
  retIdle := 100
  idleSince := 0
  reserved := none
  capNext := none
  plans := 0

/-! ## The granary and HBM -/

/-- A residency-map entry (R256). `change` says what is under way while BUSY is 1: 0 nothing, 1 a commit, 2 a removal, 3 a lower quota (R259). -/
structure ResEntry where
  valid : Bool
  kind : Nat
  place : Nat
  policy : Nat
  die : Nat
  vault : Nat
  tenant : Nat
  err : Nat
  base : Nat
  size : Nat
  quota : Nat
  metabase : Nat
  change : Nat
  deriving DecidableEq, Repr

/-- An entry after reset (R256). -/
def ResEntry.reset : ResEntry where
  valid := false
  kind := 0
  place := 0
  policy := 0
  die := 0
  vault := 0
  tenant := 0
  err := 0
  base := 0
  size := 0
  quota := 0
  metabase := 0
  change := 0

/-- An armed watch (R222): its line, the watching tiller, its workgroup and its barrier object. -/
structure Watch where
  line : Nat
  tid : Nat
  wg : Nat
  bar : Nat
  seq : Nat
  deriving DecidableEq, Repr

/-- A line held under a CACHE contract (R260). -/
structure CacheLine where
  line : Nat
  entry : Nat
  dirty : Bool
  deriving DecidableEq, Repr

/-- A block held under a KV contract, with the addresses of its dirty lines (R261). -/
structure KvBlock where
  base : Nat
  entry : Nat
  epoch : Nat
  dirty : List Nat
  deriving DecidableEq, Repr

/-- A home slice (R254): its queue and round-robin pointer, watch table (R222), multicast buffer with the time each entry was filled (R286),
CACHE lines and KV blocks with the least recently used first, held coded blocks (R106), and the locked blocks with the core whose codec holds each lock (R103). -/
structure Slice where
  queue : List Req
  rr : Nat
  watches : List Watch
  mcast : List (Nat × Nat)
  cache : List CacheLine
  kv : List KvBlock
  held : List Nat
  locks : List (Nat × Nat)
  deriving DecidableEq, Repr

def Slice.reset : Slice := ⟨[], 0, [], [], [], [], [], []⟩

/-- A request at an HBM bank (R264): its line, whether it is a fill or another read, its source, and the operation that it alone serves, where other reads of the line do not join it (R286). -/
structure BankReq where
  line : Nat
  read : Bool
  src : Nat
  own : Option Nat
  deriving DecidableEq, Repr

/-- An activation counter of a bank (R266). -/
structure ActCtr where
  row : Nat
  count : Nat
  trig : Nat
  deriving DecidableEq, Repr

/-- An HBM bank (R264, R266, R267, R375). -/
structure Bank where
  waiting : List BankReq
  queue : List BankReq
  last : Nat
  retry : Bool
  errs : List Nat
  ctrs : List ActCtr
  swaps : List (Nat × Nat)
  retrySince : Nat
  deriving DecidableEq, Repr

def Bank.reset : Bank := ⟨[], [], 256, false, [], [], [], 0⟩

/-- A die's HBM registers (R268). -/
structure Die where
  en : Bool
  blast : Nat
  thresh : Nat
  swapn : Nat
  rmcount : Nat
  swapcount : Nat
  deriving DecidableEq, Repr

def Die.reset : Die := ⟨true, 2, 1024, 4, 0, 0⟩

/-! ## The array (R229 to R250) -/

/-- A stationary plane: its element bytes and its scale bytes from offset 0 on; elements beyond the list are 0 and scales beyond it 0x7F (R230). -/
structure Plane where
  elems : List Byte
  scales : List Byte
  deriving DecidableEq, Repr

/-- The array operations with the operands each took when it entered the queue (R242 to R248): MGRP's table (ROWS, AROW, ACCROW) and MDRN's descriptor are copies. -/
inductive ArrKind where
  | mlds (plane ws : Nat)
  | mswp
  | mstr (a sa m row0 : Nat)
  | mgrp (tbase tsbase : Nat) (ents : List (Nat × Nat × Nat))
  | mclr (row0 count : Nat) (load : Bool) (src : Nat)
  | mhist (row0 count q : Nat)
  | mdrn (desc : List Byte)
  deriving DecidableEq, Repr

/-- Who an array operation answers to: a tiller, with its counter and the scalar it lands in (R239), or a chain, with the engine unit, the chain's number, the forking tiller,
the chain's scope, the command's index, the barrier object its bytes land on, and the offset of an MHIST result (R313, R316). -/
inductive ArrBy where
  | tiller (tid : Nat) (ctr : Option Nat) (d : Option SReg)
  | chain (u seq tid scope cidx : Nat) (bar : Option Nat) (res : Option Nat)
  deriving DecidableEq, Repr

/-- A result of a step that is written eight steps later (R244, R248). -/
inductive ArrOut where
  | row (r : Nat) (vals : List Word)
  | spad (cells : List Host.Cell)
  deriving DecidableEq, Repr

/-- An array operation (R233): its copy of CFG, the steps it has taken, where a grouped product stands (`grp` and `row`, and `swap` while it waits for an implicit swap), its flags, the PWP table as of its start (R248), and the results due at later steps;
`after` are the accesses that its issuer has made before it (R235), `undo` what its writes have replaced, the latest first, and `planes` the planes and FULL before it first changed them (R240). -/
structure ArrOp where
  kind : ArrKind
  cfg : Word
  who : ArrBy
  wg : Nat
  started : Bool
  step : Nat
  grp : Nat
  row : Nat
  swap : Bool
  flags : Flags
  segs : List Segment
  due : List (Nat × ArrOut)
  after : List Nat
  undo : List ArrOut
  planes : Option (Plane × Plane × Bool)
  deriving DecidableEq, Repr

/-- A core's array: its planes, whether the shadow is FULL, its queue and its origin (R233, R234, R250). -/
structure ArrayUnit where
  active : Plane
  shadow : Plane
  full : Bool
  queue : List ArrOp
  norg : Nat
  korg : Nat
  gen : Nat
  deriving DecidableEq, Repr

def ArrayUnit.reset : ArrayUnit where
  active := ⟨[], []⟩
  shadow := ⟨[], []⟩
  full := false
  queue := []
  norg := 0
  korg := 0
  gen := 0

/-! ## Engines (R296 to R318) -/

/-- A chain: its offset, barrier, forking tiller, workgroup and scope, what its engine keeps of its header, the flight of its FORK's release, whether it starts from CIDX and DONE as a resume does, its number, and the page of the fault it is parked on. -/
structure Chain where
  off : Nat
  bar : Nat
  tid : Nat
  wg : Nat
  scope : Nat
  code : Nat
  detail : Nat
  cidx : Nat
  done : Nat
  rel : Nat
  resumed : Bool
  seq : Nat
  park : Option Nat
  mig : Bool
  deriving DecidableEq, Repr

/-- A data command in progress: its code, its bytes, its descriptor as copied, and the place reached in its destination order (R304, R305);
`row` is the row whose index or table word has been read, with that word, and `sel` the selector whose indirection word has been read (R308, R310). -/
structure Work where
  op : Nat
  cmd : Cmd
  desc : List Byte
  pos : Nat
  row : Option (Nat × Nat)
  sel : Option (Nat × Nat)
  deriving DecidableEq, Repr

/-- How far a range walker has come in writing back a range core by core (R295): the core it is at, the dirty lines it has met, the bytes that were dirty in the cores before, the lines of its dirty-overlap events, and the write-backs of its core that have to perform. -/
structure Flushing where
  core : Nat
  count : Nat
  seen : List (LKey × Nat)
  laps : List LKey
  waits : List Nat
  deriving DecidableEq, Repr

/-- An engine unit: unit 8 · core + n is engine n of a core, and unit 32 · cluster + 4 the range walker (R296). `last` is the CODE of the chain that last ended or stopped (R300), `saved` are the chains that a ppt has saved (R312), `reforks` the chains that a resume has still to fork again, for want of room among the 3 that wait (R296, R317), `read` is the command that its chain has begun and waits at, by its index, as it was read (R303), `ready` the array operation that it waits to enter (R313), and `walk` how far a range walker has come (R295). -/
structure Engine where
  chain : Option Chain
  waiting : List Chain
  reforks : List Chain
  last : Nat
  work : Option Work
  saved : List Chain
  read : Option (Nat × List Word)
  ready : Option ArrKind
  walk : Option Flushing
  deriving DecidableEq, Repr

def Engine.reset : Engine := ⟨none, [], [], 0, none, [], none, none, none⟩

/-! ## The package -/

/-- An entry of the snoop filter (R366): a line, the partition that holds it, and the tenant. -/
structure SnoopEntry where
  line : Nat
  part : Nat
  tenant : Nat
  deriving DecidableEq, Repr

/-- A request that waits for an answer over a link (R365 to R367): `snoop` where it is the host's answer to a back-invalidation. -/
structure LinkReq where
  req : Req
  snoop : Bool
  deriving DecidableEq, Repr

/-- The package's control registers and what belongs to its links (R323, R363 to R371, R377): `answers` holds the line that each outside source has read last, by 0 for the host and 1 + j for peer j, with its bytes (R365),
and `corrected` the corrected granary and HBM errors of each die (R376). -/
structure Pkg where
  stage : Nat
  err : Nat
  svn : Nat
  tlbVpn : Nat
  tlbRoot : Nat
  tlbCount : Nat
  tlbGo : Bool
  tlbWaits : List Nat
  boostReq : Bool
  boostOpen : Bool
  boostAt : Nat
  hostErr : Nat
  subbase : Nat
  sfmap : Table Nat
  sfx : Nat
  snoops : List SnoopEntry
  hostUp : Bool
  peerUp : Table Bool
  peerReplay : Table Nat
  answers : Table (Nat × List Byte)
  corrected : Table (Nat × Nat)
  nonce : List Byte
  attBusy : Bool
  report : List Byte
  telem : List Host.Cell
  masked : List Nat
  msgPending : List Nat
  sent : Table Nat
  deriving DecidableEq, Repr

/-- The package's registers after reset (R323, R369). -/
def Pkg.reset : Pkg where
  stage := 0
  err := 0
  svn := 0
  tlbVpn := 0
  tlbRoot := 0
  tlbCount := 0
  tlbGo := false
  tlbWaits := []
  boostReq := false
  boostOpen := false
  boostAt := 0
  hostErr := 0
  subbase := 0
  sfmap := []
  sfx := 0
  snoops := []
  hostUp := false
  peerUp := []
  peerReplay := []
  answers := []
  corrected := []
  nonce := []
  attBusy := false
  report := []
  telem := []
  masked := []
  msgPending := []
  sent := []

/-- The package. `moving` are the ranges, by root, first address and size, whose attribute a range walker is changing (R295);
`calls` are the lines that the access under way must first call back from the host (R366), and `waits` says that it must wait for something else, such as a block's lock (R103): both empty between steps;
`needs` are the coded blocks that it needs the codec for, empty between steps, and `grant` the core whose codec has come to the step that runs next (R110, R111);
`later` are the turns that have had to wait, listed again at the end of the next cycle (log 2). -/
structure State where
  cur : Nat
  turns : List Turn
  fresh : Nat
  now : Nat
  mem : List Host.Cell
  badLines : List Nat
  tillers : Table Tiller
  wgs : Table Wg
  sheaves : Table Sheaf
  launches : Table Launch
  rcbs : Table Rcb
  cores : Table Core
  clusters : Table Cluster
  flights : Table Flight
  transit : List Req
  resid : Table ResEntry
  slices : Table Slice
  banks : Table Bank
  dies : Table Die
  kvepoch : Nat
  crtbase : Nat
  aftbase : Nat
  arrays : Table ArrayUnit
  engines : Table Engine
  links : List LinkReq
  graphs : Table GraphInst
  graphSeq : Table Nat
  served : Table Nat
  moving : List (Nat × Nat × Nat)
  calls : List Nat
  waits : Bool
  needs : List Need
  grant : Option Nat
  later : List Turn
  pkg : Pkg
  deriving DecidableEq, Repr

/-- The reasons a step can stop with a fault. -/
inductive Fault where
  /-- A turn names a tiller that has no clause under way: nothing the device does. Raised by `step` alone; safe, since a cycle lists only tillers it has picked (log 2). -/
  | noClause
  deriving DecidableEq, Repr

/-- The reasons a step can be refused. -/
inductive Refusal where
  /-- An instruction whose meaning is not modelled; raised by the arms of `exec` that say so; safe. -/
  | notModelled (mnemonic : String)
  deriving DecidableEq, Repr

/-- What a meaning answers. -/
abbrev Result (σ : Type) := Host.Outcome σ Fault Refusal

/-- The machine right after package reset. -/
def State.reset : State where
  cur := 0
  turns := []
  fresh := 0
  now := 0
  mem := []
  badLines := []
  tillers := []
  wgs := []
  sheaves := []
  launches := []
  rcbs := []
  cores := []
  clusters := []
  flights := []
  transit := []
  resid := []
  slices := []
  banks := []
  dies := []
  kvepoch := 0
  crtbase := 0
  aftbase := 0
  arrays := []
  engines := []
  links := []
  graphs := []
  graphSeq := []
  served := []
  moving := []
  calls := []
  waits := false
  needs := []
  grant := none
  later := []
  pkg := Pkg.reset

/-- The tiller at a position. -/
def State.tiller (s : State) (t : Nat) : Tiller := tget Tiller.blank s.tillers t
/-- The tiller whose instruction is issuing. -/
def State.tl (s : State) : Tiller := s.tiller s.cur
/-- A core. -/
def State.core (s : State) (c : Nat) : Core := tget Core.reset s.cores c
/-- A cluster. -/
def State.cluster (s : State) (c : Nat) : Cluster := tget Cluster.reset s.clusters c
/-- A sheaf. -/
def State.sheaf (s : State) (i : Nat) : Sheaf := tget Sheaf.blank s.sheaves i
/-- A launch. -/
def State.launch (s : State) (i : Nat) : Launch := tget Launch.blank s.launches i
/-- A workgroup, numbered 4 times its sheaf plus its rank. -/
def State.wg (s : State) (i : Nat) : Wg := tget Wg.blank s.wgs i

/-- The core of a tiller position (R6): 64 positions a core, 16 a slot. -/
def coreOf (tid : Nat) : Nat := tid / 64
/-- The issue slot of a tiller position. -/
def slotOf (tid : Nat) : Nat := tid / 16 % 4
/-- The cluster of a core (R6). -/
def clusterOf (core : Nat) : Nat := core / 4
/-- The die of a core (R6). -/
def dieOf (core : Nat) : Nat := core / 8
/-- The number of a workgroup. -/
def wgOf (sheaf rank : Nat) : Nat := 4 * sheaf + rank

def State.setTiller (s : State) (t : Nat) (x : Tiller) : State := { s with tillers := tput s.tillers t x }
def State.setTl (s : State) (x : Tiller) : State := s.setTiller s.cur x
def State.setCore (s : State) (c : Nat) (x : Core) : State := { s with cores := tput s.cores c x }
def State.setCluster (s : State) (c : Nat) (x : Cluster) : State := { s with clusters := tput s.clusters c x }
def State.setSheaf (s : State) (i : Nat) (x : Sheaf) : State := { s with sheaves := tput s.sheaves i x }
def State.setLaunch (s : State) (i : Nat) (x : Launch) : State := { s with launches := tput s.launches i x }
def State.array (s : State) (c : Nat) : ArrayUnit := tget ArrayUnit.reset s.arrays c
def State.setArray (s : State) (c : Nat) (x : ArrayUnit) : State := { s with arrays := tput s.arrays c x }
def State.engine (s : State) (u : Nat) : Engine := tget Engine.reset s.engines u
def State.setEngine (s : State) (u : Nat) (x : Engine) : State := { s with engines := tput s.engines u x }
def State.setWg (s : State) (i : Nat) (x : Wg) : State := { s with wgs := tput s.wgs i x }

/-- A change of the issuing tiller. -/
def State.modTl (s : State) (f : Tiller → Tiller) : State := s.setTl (f s.tl)

/-- A turn put before the others. -/
def State.pushTurn (s : State) (t : Turn) : State := { s with turns := t :: s.turns }
/-- Turns put before the others. -/
def State.pushTurns (s : State) (ts : List Turn) : State := { s with turns := ts ++ s.turns }

end Sys2Proof.Machine
end

