-- ==== Sys2Proof/Machine/Memory.lean ====
section
/-! DEFINITION. Byte memory as a list of cells in one canonical form (addresses rising, no cell equal to what an unlisted address reads as), used for physical memory and for scratchpad allocations. -/

namespace Sys2Proof.Machine

/-- What an unlisted address reads as: 0x00 (log 1). -/
def unlisted : Byte := 0

/-- The byte at an address. -/
def readByte (m : List Host.Cell) (a : Nat) : Byte :=
  match m with
  | [] => unlisted
  | (j, b) :: rest => if j = a then b else readByte rest a

/-- Memory with the byte at an address replaced; a byte equal to `unlisted` is not listed. -/
def writeByte (m : List Host.Cell) (a : Nat) (b : Byte) : List Host.Cell :=
  match m with
  | [] => if b = unlisted then [] else [(a, b)]
  | (j, c) :: rest =>
    if a < j then (if b = unlisted then (j, c) :: rest else (a, b) :: (j, c) :: rest)
    else if a = j then (if b = unlisted then rest else (a, b) :: rest)
    else (j, c) :: writeByte rest a b

/-- Addresses rise from `lo` on, and no cell is equal to `unlisted`. -/
def wfFrom (lo : Nat) : List Host.Cell → Bool
  | [] => true
  | (j, b) :: rest => Nat.ble lo j && b != unlisted && wfFrom (j + 1) rest

/-- The canonical form of a memory. -/
def Memory.wf (m : List Host.Cell) : Bool := wfFrom 0 m

/-- `n` bytes from an address on. -/
def readBytes (m : List Host.Cell) (a : Nat) : Nat → List Byte
  | 0 => []
  | n + 1 => readByte m a :: readBytes m (a + 1) n

/-- Memory with bytes written from an address on. -/
def writeBytes (m : List Host.Cell) (a : Nat) : List Byte → List Host.Cell
  | [] => m
  | b :: rest => writeBytes (writeByte m a b) (a + 1) rest

/-- Memory with each cell written, in order. -/
def writeCells (m : List Host.Cell) : List Host.Cell → List Host.Cell
  | [] => m
  | (a, b) :: rest => writeCells (writeByte m a b) rest

/-- A little-endian number of `n` bytes (R2). -/
def readNat (m : List Host.Cell) (a n : Nat) : Nat := natOfBytes (readBytes m a n)

/-- The `n` bytes of a number, least significant first (R2). -/
def bytesOfNat (v : Nat) : Nat → List Byte
  | 0 => []
  | n + 1 => BitVec.ofNat 8 v :: bytesOfNat (v / 256) n

/-- Memory with a number written in `n` bytes. -/
def writeNat (m : List Host.Cell) (a n v : Nat) : List Host.Cell := writeBytes m a (bytesOfNat v n)

/-- A word of memory. -/
def readWord (m : List Host.Cell) (a : Nat) : Word := BitVec.ofNat 32 (readNat m a 4)

end Sys2Proof.Machine
end

