-- ==== Sys2Proof/Machine/Mat.lean ====
section
/-! DEFINITION. The arithmetic of the array (R76 to R80, R229, R230), the clip of MHIST (R247) and the conversions of the drain (R248, R249). -/

namespace Sys2Proof.Machine

/-! ## Modes -/

/-- A mode's shape (R229): K, N, the bytes of an activation row and of a stationary column, the bits of an activation and of a weight. -/
structure ArrMode where
  k : Nat
  n : Nat
  row : Nat
  col : Nat
  abits : Nat
  wbits : Nat
  deriving DecidableEq, Repr

/-- The modes of R229. -/
def arrMode (mode : Nat) : ArrMode :=
  match mode with
  | 0 => ⟨384, 256, 384, 384, 8, 8⟩
  | 1 => ⟨768, 256, 384, 384, 4, 4⟩
  | 2 => ⟨768, 256, 768, 192, 8, 2⟩
  | 3 => ⟨384, 256, 384, 384, 8, 8⟩
  | 4 | 5 | 6 | 7 => ⟨96, 256, 192, 192, 16, 16⟩
  | 8 => ⟨3072, 256, 384, 384, 1, 1⟩
  | _ => ⟨3, 128, 24, 24, 64, 64⟩

/-- The fields of CFG (R231). -/
def cfgMode (c : Word) : Nat := (c.extractLsb' 0 4).toNat
def cfgAf (c : Word) : Bool := c.getLsbD 4
def cfgWf (c : Word) : Bool := c.getLsbD 5
def cfgScale (c : Word) : Bool := c.getLsbD 6

/-- Whether a value may be written to CFG (R231). -/
def cfgOk (c : Word) : Bool :=
  Nat.ble (cfgMode c) 9 && (!(cfgAf c || cfgWf c) || cfgMode c == 0) && (!cfgScale c || Nat.ble (cfgMode c) 1) &&
    c.extractLsb' 7 25 == 0

/-- The bytes of a plane's elements (R229). -/
def ArrMode.plane (m : ArrMode) : Nat := m.n * m.col
/-- The scale groups of a row or column (R64). -/
def ArrMode.groups (m : ArrMode) : Nat := m.k / 48
/-- The bytes of a plane's scales (R230). -/
def ArrMode.scales (m : ArrMode) : Nat := m.n * m.groups

/-! ## One pass -/

/-- Element j of a run of elements of `w` bits (R62). -/
def elemAt (bs : List Byte) (w j : Nat) : Nat :=
  if w ≤ 8 then (lget 0 bs (j * w / 8)).toNat / 2 ^ (j * w % 8) % 2 ^ w
  else natOfBytes ((List.range (w / 8)).map fun i => lget 0 bs (j * (w / 8) + i))

/-- The activation's and the weight's format in the modes of R77. -/
def actFmt (c : Word) : Fmt := match cfgMode c with
  | 0 => if cfgAf c then e5m2 else e4m3
  | 1 => e2m1
  | 4 => bf16
  | _ => fp16
def wgtFmt (c : Word) : Fmt := match cfgMode c with
  | 0 => if cfgWf c then e5m2 else e4m3
  | 1 => e2m1
  | 4 => bf16
  | _ => fp16

/-- Whether a product is ∞ × 0 (R78). -/
def infZero (a b : Num) : Bool := match (Num.mul a b).1 with
  | .nan => !a.isNan && !b.isNan
  | .inf _ | .fin .. => false

/-- The exact sum of products, with NV for ∞ × 0 and for ∞ − ∞ (R78). -/
def sumProducts : List (Num × Num) → Num × Flags
  | [] => (.fin false 0 0, 0)
  | [(a, b)] => Num.mul a b
  | (a, b) :: rest =>
    let (x, g) := Num.mul a b
    let (y, h) := sumProducts rest
    let (z, k) := Num.add .rne x y
    (z, g ||| h ||| k)

/-- One group sum, rounded to FP32 under its two scales (R77, R78). -/
def groupSum (ps : List (Num × Num)) (sa sb : Nat) : Nat × Flags :=
  if sa = 0xFF ∨ sb = 0xFF then (fp32.canon, flagNARROW)
  else if ps.any fun p => p.1.isNan || p.2.isNan then (fp32.canon, 0)
  else if ps.any fun p => infZero p.1 p.2 then (fp32.canon, flagNV)
  else
    let (x, g) := sumProducts ps
    let (r, h) := fp32.ofNum .rne (x.scale ((sa : Int) - 127 + ((sb : Int) - 127)))
    (r, g ||| h)

/-- One level of the pairwise tree (R77). -/
def passLevel : List (Nat × Flags) → List (Nat × Flags)
  | (a, f) :: (b, g) :: rest =>
    let (r, h) := fp32.add a b
    (r, f ||| g ||| h) :: passLevel rest
  | l => l

/-- The pairwise tree; `fuel` levels (R77). -/
def passTree (l : List (Nat × Flags)) : Nat → Nat × Flags
  | 0 => l.headD (0, 0)
  | fuel + 1 => passTree (passLevel l) fuel

/-- The terms of group g of a pass. -/
def groupTerms (c : Word) (size g : Nat) (a w : List Byte) : List (Num × Num) :=
  let m := arrMode (cfgMode c)
  (List.range size).map fun i => ((actFmt c).num (elemAt a m.abits (g * size + i)), (wgtFmt c).num (elemAt w m.wbits (g * size + i)))

/-- A pass of the FP8, FP4, BF16 and FP16 modes (R77). -/
def passGroups (c : Word) (acc : Nat) (a w : List Byte) (sa sw : List Nat) : Nat × Flags :=
  let (size, n, levels) := match cfgMode c with
    | 0 => (48, 8, 3)
    | 1 => (48, 16, 4)
    | _ => (12, 8, 3)
  let sums := (List.range n).map fun g => groupSum (groupTerms c size g a w) (lget 0x7F sa g) (lget 0x7F sw g)
  let (t, f) := passTree sums levels
  let (r, h) := fp32.add acc t
  (r, f ||| h)

/-- A signed INT8 element. -/
def int8 (n : Nat) : Int := if 128 ≤ n % 256 then ((n % 256 : Nat) : Int) - 256 else ((n % 256 : Nat) : Int)

/-- An exact integer sum added to an entry (R79). -/
def addInt (acc : Nat) (v : Int) (f : Flags) : Nat × Flags :=
  let (x, g) := Num.add .rne (fp32.num acc) (Num.ofInt v)
  let (r, h) := fp32.ofNum .rne x
  (r, f ||| g ||| h)

/-- A pass of the ternary mode and of INT8 (R79). -/
def passInt (tern : Bool) (acc : Nat) (a w : List Byte) : Nat × Flags :=
  let ts := (List.range (if tern then 768 else 384)).map fun k =>
    let x := int8 (elemAt a 8 k)
    if tern then
      let (q, f) := ternary (elemAt w 2 k)
      (q * x, f)
    else (x * int8 (elemAt w 8 k), (0 : Flags))
  addInt acc (ts.foldl (fun s e => s + e.1) 0) (ts.foldl (fun f e => f ||| e.2) 0)

/-- A pass of min-plus and of max-times (R79). -/
def passFold (isMin : Bool) (acc : Nat) (a w : List Byte) : Nat × Flags :=
  let acc0 := if (fp32.num acc).isNan then fp32.canon else acc
  (List.range 96).foldl (fun r k =>
    let x := fp16.num (elemAt a 16 k)
    let y := fp16.num (elemAt w 16 k)
    let (z, g) := if isMin then Num.add .rne x y else Num.mul x y
    let (t, h) := fp32.ofNum .rne z
    (fp32.minMax isMin r.1 t, r.2 ||| g ||| h)) (acc0, 0)

/-- A pass of or-and (R79). -/
def passOr (acc : Nat) (a w : List Byte) : Nat :=
  if acc % 2 ^ 31 ≠ 0 ∨ ((a.zip w).any fun p => p.1 &&& p.2 != 0) then 0x3F800000 else 0

/-- A pass of the FP64 mode (R80). -/
def pass64 (acc : Nat) (a w : List Byte) : Nat × Flags :=
  (List.range 3).foldl (fun r k =>
    let (x, g) := fp64.fma (elemAt a 64 k) (elemAt w 64 k) r.1
    (x, r.2 ||| g)) (acc, 0)

/-- One pass into one accumulator entry (R77 to R80). -/
def passOne (c : Word) (acc : Nat) (a w : List Byte) (sa sw : List Nat) : Nat × Flags :=
  match cfgMode c with
  | 2 => passInt true acc a w
  | 3 => passInt false acc a w
  | 6 => passFold true acc a w
  | 7 => passFold false acc a w
  | 8 => (passOr acc a w, 0)
  | 9 => pass64 acc a w
  | _ => passGroups c acc a w sa sw

/-- `n` bytes of a list of plane bytes from an offset on, `d` beyond its end. -/
def planeBytes (d : Byte) (l : List Byte) (o n : Nat) : List Byte :=
  let x := (l.drop o).take n
  x ++ List.replicate (n - x.length) d

/-- The group scales of a row or column, all 2⁰ where the scale plane is not in use (R76). -/
def scalesAt (c : Word) (l : List Byte) (o : Nat) : List Nat :=
  if cfgScale c then (planeBytes 0x7F l o (arrMode (cfgMode c)).groups).map BitVec.toNat else []

/-- A row of results: the new entries of an accumulator row, and the flags (R244); `acc` gives its FP32 columns. -/
def passRow (c : Word) (pl : List Byte × List Byte) (acc : Nat → Word) (a : List Byte) (sa : List Nat) : List Word × Flags :=
  let m := arrMode (cfgMode c)
  let wide := cfgMode c == 9
  let rs := (List.range m.n).map fun n =>
    let w := planeBytes 0 pl.1 (n * m.col) m.col
    let sw := scalesAt c pl.2 (n * m.groups)
    let x := if wide then (acc (2 * n)).toNat + 2 ^ 32 * (acc (2 * n + 1)).toNat else (acc n).toNat
    passOne c x a w sa sw
  (if wide then rs.flatMap fun r => [bv 32 r.1, bv 32 (r.1 / 2 ^ 32)] else rs.map fun r => bv 32 r.1,
    rs.foldl (fun f r => f ||| r.2) 0)

/-! ## MHIST -/

/-- The biased exponent of an FP32 value that is finite and not zero (R247). -/
def histBin (x : Word) : Option Nat :=
  let e := (x.extractLsb' 23 8).toNat
  if e = 255 ∨ x.extractLsb' 0 31 = 0 then none else some e

/-- The clip of MHIST from its entries and q (R247). -/
def histClip (xs : List Word) (q : Nat) : Nat :=
  let bins := xs.filterMap histBin
  if bins.isEmpty then 254
  else
    let t := Nat.max 1 ((Nat.min q 1024 * bins.length + 1023) / 1024)
    ((List.range 255).find? fun e => Nat.ble t (bins.filter fun b => Nat.ble b e).length).getD 254

/-! ## The drain (R248, R249) -/

/-- A number of `n` bytes at an offset of a descriptor. -/
def descNat (d : List Byte) (o n : Nat) : Nat := natOfBytes ((d.drop o).take n)

/-- The fields of a drain descriptor (R248). -/
structure Drain where
  fmt : Nat
  bias : Bool
  act : Bool
  usehist : Bool
  zeros : Bool
  clip : Nat
  row0 : Nat
  rows : Nat
  col0 : Nat
  ncols : Nat
  dst : Nat
  dstride : Nat
  sdst : Nat
  sstride : Nat
  biasoff : Nat
  scale : Nat
  deriving DecidableEq, Repr

def drainOf (d : List Byte) : Drain :=
  let w := descNat d 0 4
  { fmt := bits w 0 4, bias := w.testBit 4, act := w.testBit 5, usehist := w.testBit 6, zeros := !w.testBit 7 && bits w 16 16 == 0
    clip := bits w 8 8, row0 := descNat d 4 2, rows := descNat d 6 2, col0 := descNat d 8 2, ncols := descNat d 10 2
    dst := descNat d 12 4, dstride := descNat d 16 4, sdst := descNat d 20 4, sstride := descNat d 24 4
    biasoff := descNat d 28 4, scale := descNat d 32 4 }

/-- The bits of an output element (R248). -/
def Drain.ebits (d : Drain) : Nat := match d.fmt with
  | 0 | 1 => 32
  | 2 | 3 => 16
  | 6 => 4
  | _ => 8

/-- The bytes of an output row. -/
def Drain.rowBytes (d : Drain) : Nat := d.ncols * d.ebits / 8

/-- The narrow format of FMT 4 to 6. -/
def Drain.narrow (d : Drain) : CvtnFmt := match d.fmt with
  | 4 => .e4m3
  | 5 => .e5m2
  | _ => .e2m1

/-- EMax of R249. -/
def Drain.emax (d : Drain) : Nat := match d.fmt with
  | 4 => 8
  | 5 => 15
  | _ => 2

/-- The scale of a group (R249). -/
def Drain.groupScale (d : Drain) (clip : Nat) (g : List Nat) : Nat :=
  let gmax := g.foldl (fun n x => match histBin (bv 32 x) with
    | some e => Nat.max n e
    | none => n) 0
  Nat.min gmax clip - d.emax

/-- Block quantisation of one group: its scale and its elements with their flags (R249). -/
def Drain.quantise (d : Drain) (clip : Nat) (g : List Nat) : Nat × List (Nat × Flags) :=
  let s := d.groupScale clip g
  (s, g.map fun x => toNarrow d.narrow ((fp32.num x).scale (127 - (s : Int))))

/-- The groups of 48 of a row, `n` of them. -/
def groups48 (l : List Nat) : Nat → List (List Nat)
  | 0 => []
  | n + 1 => l.take 48 :: groups48 (l.drop 48) n

/-- One entry of the drain before its conversion: the BIAS and ACT steps (R248). -/
def Drain.entry (d : Drain) (segs : List Segment) (x bias : Nat) : Nat × Flags :=
  let (y, f) := if d.bias then fp32.fma x d.scale bias else (x, (0 : Flags))
  if d.act then
    let (z, g) := pwpEval segs y
    (z, f ||| g)
  else (y, f)

/-- Elements of `w` bits packed into bytes (R62). -/
def packBits (w : Nat) : List Nat → List Byte
  | [] => []
  | [x] => bytesOfNat x ((w + 7) / 8)
  | x :: y :: rest =>
    if w = 4 then bv 8 (x % 16 + 16 * (y % 16)) :: packBits w rest
    else bytesOfNat x (w / 8) ++ bytesOfNat y (w / 8) ++ packBits w rest

/-- One row of the drain: its output bytes, its scale bytes and its flags (R248). -/
def Drain.row (d : Drain) (segs : List Segment) (hclip : Nat) (v bias : List Nat) : List Byte × List Byte × Flags :=
  if d.fmt = 0 then (packBits 32 v, [], 0)
  else
    let es := (v.zip bias).map fun e => d.entry segs e.1 e.2
    let f0 := es.foldl (fun f e => f ||| e.2) 0
    let xs := es.map (·.1)
    if d.fmt ≤ 3 then
      let out := xs.map fun x => match d.fmt with
        | 1 => fp32.ofNum .rne (fp32.num x)
        | 2 => bf16.ofNum .rne (fp32.num x)
        | _ => fp16.ofNum .rne (fp32.num x)
      (packBits d.ebits (out.map (·.1)), [], out.foldl (fun f e => f ||| e.2) f0)
    else
      let qs := (groups48 xs (d.ncols / 48)).map fun g => d.quantise (if d.usehist then hclip else d.clip) g
      let es2 := qs.flatMap (·.2)
      (packBits d.ebits (es2.map (·.1)), qs.map fun q => bv 8 q.1, es2.foldl (fun f e => f ||| e.2) f0)

end Sys2Proof.Machine
end

