-- ==== Sys2Proof/WellFormed.lean ====
section
/-! DEFINITION. Which instruction terms some word encodes: the operand-role rules of R33 and the code rules of R36 to R38, R41 to R49, R159 and R283 that the types of Syntax leave open. -/

namespace Sys2Proof

/-- An even register number (roles p and w, R33). -/
def evenReg {n : Nat} (r : BitVec n) : Bool := r.toNat % 2 == 0

/-- A register number that is a multiple of 4 (a quad, R33). -/
def quadReg {n : Nat} (r : BitVec n) : Bool := r.toNat % 4 == 0

/-- A mask destination is not m0 (R33). -/
def destMask (m : MReg) : Bool := m != 0

/-- A vector register named in a w field when the type is f64 (R43). -/
def wide (f64 : Bool) (r : VNum) : Bool := !f64 || evenReg r

/-- The alignment a data register needs under a width (R33, R36). -/
def Width.regOk (wd : Width) (t : VNum) : Bool :=
  match wd with
  | .d => evenReg t
  | .q => quadReg t
  | .bz | .bs | .hz | .hs | .w | .uw => true

/-- Widths a store accepts (R36). -/
def Width.storeOk : Width → Bool
  | .bs | .hs | .uw => false
  | .bz | .hz | .w | .d | .q => true

/-- .uw needs contiguous addressing (R36). -/
def Width.addrOk (wd : Width) : Addr → Bool
  | .sc _ => true
  | .vec _ => wd != .uw

/-- The address operand of LDG and STG: a scalar pair or a vector pair (R37). -/
def Addr.pairOk : Addr → Bool
  | .sc r => evenReg r
  | .vec r => evenReg r

/-- The number of the literal's base scalar, bits 31:26 (R34). -/
def litBase (lit : Word) : SReg := lit.extractLsb' 26 6

/-- The pairing of operation and type that R38 allows. -/
def AtomTy.okFor (ty : AtomTy) : AtomOp → Bool
  | .add | .and | .or | .xor | .exch => ty == .w || ty == .d
  | .min | .max => ty == .ws || ty == .ds || ty == .w || ty == .d
  | .fadd => ty == .f32 || ty == .f64

/-- The 64-bit atomic types (R38). -/
def AtomTy.is64 : AtomTy → Bool
  | .ds | .f64 | .d => true
  | .ws | .f32 | .w => false

/-- The special registers that are 64 bits wide (R200). -/
def Special.is64 : Special → Bool
  | .time | .cycles | .tcyc0 | .tcyc1 | .tcyc2 | .tcyc3 => true
  | _ => false

/-- Conversion codes whose destination is a pair (R48, R156). -/
def CvtCode.wideD : CvtCode → Bool
  | .ftod | .itod | .utod | .ltod | .dtol => true
  | _ => false

/-- Conversion codes whose source is a pair (R48, R156). -/
def CvtCode.wideA : CvtCode → Bool
  | .dtof | .dtoi | .dtou | .ltod | .dtol => true
  | _ => false

/-- Fields that a MOP form leaves zero (R140). -/
def MopFn.zeroOk (f : MopFn) (a b : MReg) : Bool :=
  match f with
  | .and | .or | .xor | .andn => true
  | .not | .mov => b == 0
  | .set | .clear => a == 0 && b == 0

/-- The operand-role and code rules that an encodable instruction meets; a row without a word is always well formed. -/
def Instr.wf : Instr → Bool
  | .srd _ d r => !r.is64 || evenReg d
  | .sysLaunch _ _ a | .sysGrun _ _ a | .sysRcbsync _ _ a => evenReg a
  | .add64 _ d a b | .sub64 _ d a b | .mul64 _ d a b => evenReg d && evenReg a && evenReg b
  | .sh64 _ _ d a _ => evenReg d && evenReg a
  | .cmp64 _ _ _ a b => evenReg a && evenReg b
  | .movsTom _ m _ => destMask m
  | .vcmp _ _ m _ _ => destMask m
  | .v64 _ f d a b =>
    evenReg d && evenReg a && (match f with | .add | .sub => evenReg b | .shl | .shr | .sar => true)
  | .mop _ f d a b => destMask d && f.zeroOk a b
  | .lrefill _ t _ _ wd _ => !wd || evenReg t
  | .vsav _ _ a _ _ | .vrst _ _ a _ _ => evenReg a
  | .fadd _ ty d a b | .fsub _ ty d a b | .fmul _ ty d a b | .ffma _ ty d a b
  | .fmin _ ty d a b | .fmax _ ty d a b =>
    wide (ty == .f64) d && wide (ty == .f64) a && wide (ty == .f64) b
  | .fcmp _ f64 _ m a b => destMask m && wide f64 a && wide f64 b
  | .fsgn _ f64 f d a b =>
    wide f64 d && wide f64 a && (match f with | .copysign => wide f64 b | .abs | .neg | .nabs => b == 0)
  | .fdiv _ f64 d a b => wide f64 d && wide f64 a && wide f64 b
  | .fsqrt _ f64 d a => wide f64 d && wide f64 a
  | .frnd64 _ _ d a => evenReg d && evenReg a
  | .fclass _ f64 _ a => wide f64 a
  | .cvt _ c _ d a => wide c.wideD d && wide c.wideA a
  | .cord _ f64 _ n d a => wide f64 d && wide f64 a && Nat.ble 4 n.toNat && Nat.ble n.toNat 60
  | .ldg _ t a _ wd _ => wd.regOk t && a.pairOk && wd.addrOk a
  | .stg _ t a _ wd _ => wd.regOk t && a.pairOk && wd.storeOk
  | .ldgx _ t a _ wd _ lit => wd.regOk t && wd.addrOk a && evenReg (litBase lit)
  | .stgx _ t _ _ wd _ lit => wd.regOk t && wd.storeOk && evenReg (litBase lit)
  | .lds _ t a _ wd | .ldx _ t a _ wd _ => wd.regOk t && wd.addrOk a
  | .sts _ t _ _ wd | .stx _ t _ _ wd _ => wd.regOk t && wd.storeOk
  | .ldp _ t a _ wd _ =>
    wd.regOk t && (match a with | .sc _ => wd == .uw | .vec _ => wd != .uw)
  | .atom _ op ty t _ _ lit => ty.okFor op && (!ty.is64 || evenReg t) && evenReg (litBase lit)
  | .red _ op ty t _ _ lit =>
    ty.okFor op && op != .exch && (!ty.is64 || evenReg t) && evenReg (litBase lit)
  | .cas _ wd t _ _ lit => (if wd then quadReg t else evenReg t) && evenReg (litBase lit)
  | .prefL1 _ _ lit | .prefGr _ _ lit => evenReg (litBase lit)
  | .atoms _ op ty t _ _ => ty.okFor op && (!ty.is64 || evenReg t)
  | .watch _ a _ => evenReg a
  | .mlds _ _ a => evenReg a
  | .mstr _ _ a b => evenReg a && evenReg b
  | .mclr _ _ a _ => evenReg a
  | .mhist _ _ a _ => evenReg a
  | .engFork _ e _ _ | .engKill _ e | .engStat _ _ e => Nat.blt e.toNat 5
  | _ => true

/-- Rows of the table that have a word of their own (R39 to R46); the others are steps of the device. -/
def Instr.isWord (i : Instr) : Bool :=
  match i with
  | .cycle _ | .deferralRelease _ | .clauseLate _ | .arrayOpStart _ _ | .mgrpImplicitSwap _
  | .allowanceRefill _ | .tillerOverdue _ | .watchdogHang _ _ | .fllStepComplete _
  | .loadLand _ | .scratchpadLoadLand _ | .atomicResultLand _ | .cordLand _ | .fdivFsqrtLand _
  | .divRemLand _ | .vrstLand _ | .lrefillLand _ | .storePerform _ | .fenceComplete _
  | .waitBReturn _ | .homeSliceServe _ _ | .multicastEntryExpiry _ _ | .l1WritebackDeadline _ _
  | .codecDecode _ | .codecWriteBack _ _ | .hbmAdmit _ _ | .hbmBankService _ _ _ _
  | .activationCounterReset | .bankRetryLeave _ _ | .pageWalk _ _ _ _ _ | .translationReplay _
  | .tlbinvGo | .tlbinvComplete | .residencyMapWrite _ _ _ _ | .residencyChangeComplete _
  | .chainStart _ | .pieceWrite _ | .chainReplay _ | .copy _ _ | .copy2d _ _ | .gather _ _
  | .tgather _ _ | .mcast _ _ | .trans _ _ | .select _ _ | .flush _ _ | .inval _ _
  | .setattr _ _ | .unlock _ _ | .loop _ _ | .ifCmd _ _ | .cmdArrive _ _ | .waitbCmd _ _
  | .ppt _ _ | .endCmd _ _ | .cmdMlds _ _ | .cmdMswp _ _ | .cmdMstr _ _ | .cmdMgrp _ _
  | .cmdMdrn _ _ | .cmdMhist _ _ | .cmdMclr _ _ | .decide | .preemptSave _ | .resumeRelease _
  | .sheafRetire _ | .graphInstanceAdmit _ | .retentionEntry _ | .retentionExit _ _
  | .clholdWrite _ _ | .clkctlWrite _ _ | .boostctlWrite _ | .boostWindowClose
  | .controlRegisterWrite _ _ _ | .attestationRequest _ | .packageReset _ _ _ _
  | .hostCxlMemAccess _ _ _ | .peerAccess _ _ _ _ | .linkStateChange _ _ | .scrub _ _
  | .telemetryWrite _ _ _ _ _ _ | .vfTableReplan _ _ | .hostCacheSnoop _ _ | .linkResponse _ _
  | .boostWindowOpen | .temperatureChange _ _ | .msixMaskChange _ _ | .sysStatusLand _ => false
  | _ => true

end Sys2Proof
end

