-- ==== Sys2Proof/Decode.lean ====
section
/-! DEFINITION. Decoding: the words of R31 to R53 and the 16-byte engine commands of R302 read as terms of Syntax.lean, and the encoder written from the same tables. -/

namespace Sys2Proof

/-! ## Fields of an instruction word (R31, R32) -/

def fP (w : Word) : Bool := w.getLsbD 31
def fOp (w : Word) : BitVec 7 := w.extractLsb' 24 7
def fD (w : Word) : BitVec 7 := w.extractLsb' 17 7
def fA (w : Word) : BitVec 7 := w.extractLsb' 10 7
def fB (w : Word) : BitVec 7 := w.extractLsb' 3 7
def fS (w : Word) : BitVec 3 := w.extractLsb' 0 3
def fImm (w : Word) : BitVec 10 := w.extractLsb' 0 10
def fC (w : Word) : BitVec 4 := w.extractLsb' 6 4
def fW (w : Word) : BitVec 3 := w.extractLsb' 3 3
/-- Bits 23:0 of format B. -/
def fX (w : Word) : BitVec 24 := w.extractLsb' 0 24

/-- The scalar number in a 7-bit register field. -/
def sregOf (v : BitVec 7) : SReg := v.extractLsb' 0 6
/-- The mask number in a 7-bit register field. -/
def mregOf (v : BitVec 7) : MReg := v.extractLsb' 0 3

/-! ## Reasons of R52 found in the fields (R33) -/

/-- k0 to k3 named in a 6-bit scalar number. -/
def kReg (r : SReg) : Bool := Nat.ble 60 r.toNat

/-- Role s: 64 to 127 is reason 0x04; k0 to k3 outside handler mode is reason 0x05. -/
def rS (hnd : Bool) (v : BitVec 7) : List Nat :=
  (if v.getLsbD 6 then [0x04] else []) ++
  (if !hnd && !v.getLsbD 6 && kReg (sregOf v) then [0x05] else [])

/-- An odd pair is reason 0x07. -/
def rOdd (v : BitVec 7) : List Nat := if evenReg v then [] else [0x07]

/-- Role p. -/
def rP (hnd : Bool) (v : BitVec 7) : List Nat := rS hnd v ++ rOdd v

/-- Role w when `f` holds, else role v. -/
def rWide (f : Bool) (v : BitVec 7) : List Nat := if wide f v then [] else [0x07]

/-- The data register under a width (R36). -/
def rT (wd : Width) (v : BitVec 7) : List Nat := if wd.regOk v then [] else [0x07]

/-- A zero field. -/
def rZ {n : Nat} (v : BitVec n) : List Nat := if v = 0 then [] else [0x03]

/-- Role m: bits 6:3 zero. -/
def rM (v : BitVec 7) : List Nat := rZ (v.extractLsb' 3 4)

/-- Role m as a destination: m0 is reason 0x06. -/
def rMd (v : BitVec 7) : List Nat := rM v ++ (if destMask (mregOf v) then [] else [0x06])

/-- A code field whose value is not legal is reason 0x02. -/
def rCode (ok : Bool) : List Nat := if ok then [] else [0x02]

/-- A value out of range is reason 0x08. -/
def rRange (ok : Bool) : List Nat := if ok then [] else [0x08]

/-- The literal's base scalar: an even register (R34). -/
def rLit (hnd : Bool) (lit : Word) : List Nat :=
  (if evenReg (litBase lit) then [] else [0x07]) ++
  (if !hnd && kReg (litBase lit) then [0x05] else [])

/-- The lane number of MOVS.LANE and VINS: 0 to 31 (R41, R42). -/
def rLane (v : BitVec 7) : List Nat := rRange (Nat.ble v.toNat 31)

/-- The lowest of several reasons (R52). -/
def lowest : List Nat → Nat
  | [] => 0
  | [r] => r
  | r :: rs => min r (lowest rs)

/-- An instruction when no reason stands, else the lowest reason; an unassigned code is reason 0x02. -/
def mk (rs : List Nat) (i : Option Instr) : Except Nat Instr :=
  match i with
  | none => .error (lowest (0x02 :: rs))
  | some x => match rs with
    | [] => .ok x
    | r :: rest => .error (lowest (r :: rest))

/-! ## Codes -/

/-- CMP, CMP64 and VCMP codes (R41, R129). -/
def Cond.code : Cond → BitVec 3
  | .eq => 0 | .ne => 1 | .lt => 2 | .le => 3 | .ltu => 4 | .leu => 5 | .tst => 6
def Cond.ofCode (x : BitVec 3) : Option Cond :=
  match x.toNat with
  | 0 => some .eq | 1 => some .ne | 2 => some .lt | 3 => some .le
  | 4 => some .ltu | 5 => some .leu | 6 => some .tst | _ => none

/-- BITU and VBITU codes (R41). -/
def BitFn.code : BitFn → BitVec 3
  | .popc => 0 | .clz => 1 | .ctz => 2 | .brev => 3 | .sext8 => 4 | .sext16 => 5 | .zext8 => 6 | .zext16 => 7
def BitFn.ofCode (x : BitVec 3) : BitFn :=
  match x.toNat with
  | 0 => .popc | 1 => .clz | 2 => .ctz | 3 => .brev | 4 => .sext8 | 5 => .sext16 | 6 => .zext8 | _ => .zext16

/-- SH64 codes (R41). -/
def Sh64Fn.code : Sh64Fn → BitVec 3
  | .shl => 0 | .shr => 1 | .sar => 2
def Sh64Fn.ofCode (x : BitVec 3) : Option Sh64Fn :=
  match x.toNat with
  | 0 => some .shl | 1 => some .shr | 2 => some .sar | _ => none

/-- V64 codes (R42). -/
def V64Fn.code : V64Fn → BitVec 3
  | .add => 0 | .sub => 1 | .shl => 2 | .shr => 3 | .sar => 4
def V64Fn.ofCode (x : BitVec 3) : Option V64Fn :=
  match x.toNat with
  | 0 => some .add | 1 => some .sub | 2 => some .shl | 3 => some .shr | 4 => some .sar | _ => none

/-- MOP codes (R42). -/
def MopFn.code : MopFn → BitVec 3
  | .and => 0 | .or => 1 | .xor => 2 | .andn => 3 | .not => 4 | .mov => 5 | .set => 6 | .clear => 7
def MopFn.ofCode (x : BitVec 3) : MopFn :=
  match x.toNat with
  | 0 => .and | 1 => .or | 2 => .xor | 3 => .andn | 4 => .not | 5 => .mov | 6 => .set | _ => .clear

/-- MQ codes (R42). -/
def MqFn.code : MqFn → BitVec 3
  | .popc => 0 | .first => 1 | .last => 2 | .any => 3 | .all => 4
def MqFn.ofCode (x : BitVec 3) : Option MqFn :=
  match x.toNat with
  | 0 => some .popc | 1 => some .first | 2 => some .last | 3 => some .any | 4 => some .all | _ => none

/-- SHFL codes (R42). -/
def ShflFn.code : ShflFn → BitVec 3
  | .idx => 0 | .up => 1 | .down => 2 | .xor => 3
def ShflFn.ofCode (x : BitVec 3) : Option ShflFn :=
  match x.toNat with
  | 0 => some .idx | 1 => some .up | 2 => some .down | 3 => some .xor | _ => none

/-- VRED codes (R42). -/
def VredFn.code : VredFn → BitVec 3
  | .iadd => 0 | .imin => 1 | .imax => 2 | .iand => 3 | .ior => 4 | .fadd => 5 | .fmin => 6 | .fmax => 7
def VredFn.ofCode (x : BitVec 3) : VredFn :=
  match x.toNat with
  | 0 => .iadd | 1 => .imin | 2 => .imax | 3 => .iand | 4 => .ior | 5 => .fadd | 6 => .fmin | _ => .fmax

/-- VSCAN codes (R42). -/
def VscanFn.code : VscanFn → BitVec 3
  | .iadd => 0 | .xadd => 1 | .imax => 2 | .xmax => 3 | .fadd => 4
def VscanFn.ofCode (x : BitVec 3) : Option VscanFn :=
  match x.toNat with
  | 0 => some .iadd | 1 => some .xadd | 2 => some .imax | 3 => some .xmax | 4 => some .fadd | _ => none

/-- Floating-point types (R43). -/
def FTy.code : FTy → BitVec 3
  | .f32 => 0 | .f64 => 1 | .h2 => 2 | .b2 => 3
def FTy.ofCode (x : BitVec 3) : Option FTy :=
  match x.toNat with
  | 0 => some .f32 | 1 => some .f64 | 2 => some .h2 | 3 => some .b2 | _ => none

/-- A type field that admits only f32 and f64 (R43). -/
def f64Code (f : Bool) : BitVec 3 := if f then 1 else 0
def f64Of (x : BitVec 3) : Option Bool :=
  match x.toNat with
  | 0 => some false | 1 => some true | _ => none

/-- FCMP predicates (R47). -/
def FPred.code : FPred → BitVec 4
  | .eq => 0 | .ne => 1 | .lt => 2 | .le => 3 | .gt => 4 | .ge => 5 | .ord => 6
  | .uno => 7 | .ueq => 8 | .one => 9 | .ult => 10 | .ule => 11 | .ugt => 12 | .uge => 13
def FPred.ofCode (x : BitVec 4) : Option FPred :=
  match x.toNat with
  | 0 => some .eq | 1 => some .ne | 2 => some .lt | 3 => some .le | 4 => some .gt | 5 => some .ge
  | 6 => some .ord | 7 => some .uno | 8 => some .ueq | 9 => some .one | 10 => some .ult
  | 11 => some .ule | 12 => some .ugt | 13 => some .uge | _ => none

/-- FSGN operations, S 1:0 (R43). -/
def SgnFn.code : SgnFn → BitVec 2
  | .abs => 0 | .neg => 1 | .nabs => 2 | .copysign => 3
def SgnFn.ofCode (x : BitVec 2) : SgnFn :=
  match x.toNat with
  | 0 => .abs | 1 => .neg | 2 => .nabs | _ => .copysign

/-- Rounding modes of FRND, FRND64 and CVT (R43). -/
def Rm.code : Rm → BitVec 3
  | .rne => 0 | .rtz => 1 | .rdn => 2 | .rup => 3
def Rm.ofCode (x : BitVec 3) : Option Rm :=
  match x.toNat with
  | 0 => some .rne | 1 => some .rtz | 2 => some .rdn | 3 => some .rup | _ => none

/-- CVT conversion codes (R48). -/
def CvtCode.code : CvtCode → BitVec 7
  | .itof => 0 | .utof => 1 | .ftoi => 2 | .ftou => 3 | .ftod => 4 | .dtof => 5 | .itod => 6
  | .utod => 7 | .dtoi => 8 | .dtou => 9 | .ltod => 10 | .dtol => 11 | .ftoh => 12 | .hltof => 13
  | .hhtof => 14 | .ftob => 15 | .bltof => 16 | .bhtof => 17
def CvtCode.ofCode (x : BitVec 7) : Option CvtCode :=
  match x.toNat with
  | 0 => some .itof | 1 => some .utof | 2 => some .ftoi | 3 => some .ftou | 4 => some .ftod
  | 5 => some .dtof | 6 => some .itod | 7 => some .utod | 8 => some .dtoi | 9 => some .dtou
  | 10 => some .ltod | 11 => some .dtol | 12 => some .ftoh | 13 => some .hltof | 14 => some .hhtof
  | 15 => some .ftob | 16 => some .bltof | 17 => some .bhtof | _ => none

/-- CVTN formats (R49). -/
def CvtnFmt.code : CvtnFmt → BitVec 3
  | .e4m3 => 0 | .e5m2 => 1 | .e2m1 => 2 | .i8 => 3 | .e4m3n => 4 | .e5m2n => 5
def CvtnFmt.ofCode (x : BitVec 3) : Option CvtnFmt :=
  match x.toNat with
  | 0 => some .e4m3 | 1 => some .e5m2 | 2 => some .e2m1 | 3 => some .i8 | 4 => some .e4m3n
  | 5 => some .e5m2n | _ => none

/-- CVTW formats (R49). -/
def CvtwFmt.code : CvtwFmt → BitVec 3
  | .e4m3 => 0 | .e5m2 => 1 | .e2m1 => 2 | .i8 => 3 | .t2 => 4
def CvtwFmt.ofCode (x : BitVec 3) : Option CvtwFmt :=
  match x.toNat with
  | 0 => some .e4m3 | 1 => some .e5m2 | 2 => some .e2m1 | 3 => some .i8 | 4 => some .t2 | _ => none

/-- CORD functions (R43). -/
def CordFn.code : CordFn → BitVec 3
  | .sin => 0 | .cos => 1 | .atan => 2 | .exp => 3 | .log => 4 | .sqrt => 5 | .sinh => 6 | .cosh => 7
def CordFn.ofCode (x : BitVec 3) : CordFn :=
  match x.toNat with
  | 0 => .sin | 1 => .cos | 2 => .atan | 3 => .exp | 4 => .log | 5 => .sqrt | 6 => .sinh | _ => .cosh

/-- Widths (R36). -/
def Width.code : Width → BitVec 3
  | .bz => 0 | .bs => 1 | .hz => 2 | .hs => 3 | .w => 4 | .d => 5 | .q => 6 | .uw => 7
def Width.ofCode (x : BitVec 3) : Width :=
  match x.toNat with
  | 0 => .bz | 1 => .bs | 2 => .hz | 3 => .hs | 4 => .w | 5 => .d | 6 => .q | _ => .uw

/-- Cache hints, S 2:1 (R37). -/
def Hint.code : Hint → BitVec 2
  | .normal => 0 | .strm => 1 | .byp => 2 | .last => 3
def Hint.ofCode (x : BitVec 2) : Hint :=
  match x.toNat with
  | 0 => .normal | 1 => .strm | 2 => .byp | _ => .last

/-- Atomic operations, S (R44). -/
def AtomOp.code : AtomOp → BitVec 3
  | .add => 0 | .min => 1 | .max => 2 | .and => 3 | .or => 4 | .xor => 5 | .exch => 6 | .fadd => 7
def AtomOp.ofCode (x : BitVec 3) : AtomOp :=
  match x.toNat with
  | 0 => .add | 1 => .min | 2 => .max | 3 => .and | 4 => .or | 5 => .xor | 6 => .exch | _ => .fadd

/-- Atomic types, W (R38). -/
def AtomTy.code : AtomTy → BitVec 3
  | .ws => 0 | .ds => 1 | .f32 => 2 | .f64 => 3 | .w => 4 | .d => 5
def AtomTy.ofCode (x : BitVec 3) : Option AtomTy :=
  match x.toNat with
  | 0 => some .ws | 1 => some .ds | 2 => some .f32 | 3 => some .f64 | 4 => some .w | 5 => some .d | _ => none

/-- Scopes of FENCE (R45). -/
def Scope.code : Scope → BitVec 3
  | .tl => 0 | .wg => 1 | .sh => 2 | .dv => 3 | .sy => 4
def Scope.ofCode (x : BitVec 3) : Option Scope :=
  match x.toNat with
  | 0 => some .tl | 1 => some .wg | 2 => some .sh | 3 => some .dv | 4 => some .sy | _ => none

/-- Special-register indices (R200). -/
def Special.index : Special → BitVec 10
  | .time => 0x000 | .cycles => 0x001 | .tcyc0 => 0x002 | .tcyc1 => 0x003 | .tcyc2 => 0x004
  | .tcyc3 => 0x005 | .tstat => 0x010 | .tctl => 0x011 | .tcause => 0x012 | .tpc => 0x013
  | .tinfo0 => 0x014 | .tinfo1 => 0x015 | .pca => 0x016 | .pcb => 0x017 | .mska => 0x018
  | .mskb => 0x019 | .spillp => 0x01A | .repcnt => 0x01B | .joina => 0x01C | .joinb => 0x01D
  | .outra => 0x01E | .outrb => 0x01F | .tiller => 0x020 | .wgrank => 0x021 | .sheafx => 0x022
  | .sheafy => 0x023 | .sheafz => 0x024 | .core => 0x025 | .cluster => 0x026 | .die => 0x027
  | .region => 0x028 | .freq => 0x030 | .allow => 0x031 | .morg => 0x032 | .notify => 0x040
def Special.ofIndex (x : BitVec 10) : Option Special :=
  match x.toNat with
  | 0x000 => some .time | 0x001 => some .cycles | 0x002 => some .tcyc0 | 0x003 => some .tcyc1
  | 0x004 => some .tcyc2 | 0x005 => some .tcyc3 | 0x010 => some .tstat | 0x011 => some .tctl
  | 0x012 => some .tcause | 0x013 => some .tpc | 0x014 => some .tinfo0 | 0x015 => some .tinfo1
  | 0x016 => some .pca | 0x017 => some .pcb | 0x018 => some .mska | 0x019 => some .mskb
  | 0x01A => some .spillp | 0x01B => some .repcnt | 0x01C => some .joina | 0x01D => some .joinb
  | 0x01E => some .outra | 0x01F => some .outrb | 0x020 => some .tiller | 0x021 => some .wgrank
  | 0x022 => some .sheafx | 0x023 => some .sheafy | 0x024 => some .sheafz | 0x025 => some .core
  | 0x026 => some .cluster | 0x027 => some .die | 0x028 => some .region | 0x030 => some .freq
  | 0x031 => some .allow | 0x032 => some .morg | 0x040 => some .notify | _ => none

/-! ## The opcode alone (R27, R28, R34, R51) -/

/-- Opcodes that count as clause-ending (R27). -/
def opEnds (op : Nat) : Bool :=
  op == 0x01 || op == 0x02 || op == 0x03 || op == 0x05 || op == 0x06 || op == 0x08 || op == 0x09
    || op == 0x0A || op == 0x0B

/-- Opcodes that take a literal word (R34). -/
def opTakesLit (op : Nat) : Bool :=
  op == 0x2E || op == 0x69 || op == 0x6B || op == 0x71 || op == 0x72 || op == 0x73 || op == 0x74

/-- The route of an opcode, or none for the opcodes of every route (R28). -/
def opRoute (op : Nat) : Option Nat :=
  if op ≤ 0x0E then none
  else if op = 0x49 ∨ op = 0x4A ∨ op = 0x4B ∨ op = 0x62 then some 1
  else if op ≤ 0x67 then some 0
  else if op ≤ 0x7B then some 1
  else some 2

/-! ## The groups of the opcode map -/

/-- Opcodes 0x00 to 0x0E (R40). -/
def decodeCtl (hnd : Bool) (w : Word) : Except Nat Instr :=
  let p := fP w
  let x := fX w
  let s := w.extractLsb' 18 6
  let rs : List Nat := if !hnd && kReg s then [0x05] else []
  let rp : List Nat := if p then [0x03] else []
  match (fOp w).toNat with
  | 0x00 => mk (rZ x) (some (.nop p))
  | 0x01 => mk (rZ (w.extractLsb' 20 3))
      (some (if w.getLsbD 23 then .braSpin p (w.extractLsb' 0 20) else .bra p (w.extractLsb' 0 20)))
  | 0x02 => mk rs (some (if w.getLsbD 17 then .bnz p s (w.extractLsb' 0 17) else .bz p s (w.extractLsb' 0 17)))
  | 0x03 => mk [] (some (if w.getLsbD 20 then .bmn p (w.extractLsb' 21 3) (w.extractLsb' 0 20)
      else .bm p (w.extractLsb' 21 3) (w.extractLsb' 0 20)))
  | 0x04 => mk (rZ (w.extractLsb' 20 4)) (some (.jset p (w.extractLsb' 0 20)))
  | 0x05 => mk rs (some (.call p s (w.extractLsb' 0 18)))
  | 0x06 => mk (rs ++ rZ (w.extractLsb' 0 18)) (some (.jmpr p s))
  | 0x07 => mk (rZ (w.extractLsb' 0 15)) (some (.rep p s (w.getLsbD 17) (w.getLsbD 16) (w.getLsbD 15)))
  | 0x08 => mk (rZ (w.extractLsb' 1 23)) (some (if w.getLsbD 0 then .yieldSpin p else .yield p))
  | 0x09 => mk (rZ x ++ rp) (some .exit)
  | 0x0A => mk (rZ (w.extractLsb' 16 8) ++ rp) (some (.trap (w.extractLsb' 0 16)))
  | 0x0B => mk (rZ x ++ rp) (some .rte)
  | 0x0C =>
    match Special.ofIndex (fImm w) with
    | none => mk (rS hnd (fD w) ++ rZ (fA w) ++ [0x0C]) (some (.nop p))
    | some r => mk ((if r.is64 then rP hnd (fD w) else rS hnd (fD w)) ++ rZ (fA w)) (some (.srd p (sregOf (fD w)) r))
  | 0x0D =>
    match Special.ofIndex (fImm w) with
    | none => mk (rZ (fD w) ++ rS hnd (fA w) ++ [0x0C]) (some (.nop p))
    | some r => mk (rZ (fD w) ++ rS hnd (fA w)) (some (.swr p r (sregOf (fA w))))
  | 0x0E =>
    match (fS w).toNat with
    | 0 => mk (rS hnd (fD w) ++ rP hnd (fA w) ++ rZ (fB w)) (some (.sysLaunch p (sregOf (fD w)) (sregOf (fA w))))
    | 1 => mk (rS hnd (fD w) ++ rP hnd (fA w) ++ rZ (fB w)) (some (.sysGrun p (sregOf (fD w)) (sregOf (fA w))))
    | 2 => mk (rS hnd (fD w) ++ rP hnd (fA w) ++ rZ (fB w)) (some (.sysRcbsync p (sregOf (fD w)) (sregOf (fA w))))
    | 3 => mk (rZ (fD w) ++ rZ (fA w) ++ rZ (fB w)) (some (.sysCtxdone p))
    | 4 => mk (rZ (fD w) ++ rS hnd (fA w) ++ rZ (fB w)) (some (.sysNotify p (sregOf (fA w))))
    | _ => mk [] none
  | _ => .error 0x01

/-- Opcodes 0x10 to 0x2F (R41). -/
def decodeScalar (hnd : Bool) (w lit : Word) : Except Nat Instr :=
  let p := fP w
  let d := sregOf (fD w)
  let a := sregOf (fA w)
  let b := sregOf (fB w)
  let sg := w.getLsbD 0
  let r3 := rS hnd (fD w) ++ rS hnd (fA w) ++ rS hnd (fB w)
  let r2 := rS hnd (fD w) ++ rS hnd (fA w)
  let s0 := rCode (fS w == 0)
  let s1 := rCode (Nat.ble (fS w).toNat 1)
  match (fOp w).toNat with
  | 0x10 => mk (s0 ++ r3) (some (.add p d a b))
  | 0x11 => mk (s0 ++ r3) (some (.sub p d a b))
  | 0x12 => mk (s0 ++ r3) (some (.mul p d a b))
  | 0x13 => mk (s1 ++ r3) (some (.mulh p sg d a b))
  | 0x14 => mk (s1 ++ r3) (some (.div p sg d a b))
  | 0x15 => mk (s1 ++ r3) (some (.rem p sg d a b))
  | 0x16 => mk (s0 ++ r3) (some (.and p d a b))
  | 0x17 => mk (s0 ++ r3) (some (.or p d a b))
  | 0x18 => mk (s0 ++ r3) (some (.xor p d a b))
  | 0x19 => mk (s0 ++ r3) (some (.andn p d a b))
  | 0x1A => mk (s0 ++ r3) (some (.shl p d a b))
  | 0x1B => mk (s0 ++ r3) (some (.shr p d a b))
  | 0x1C => mk (s0 ++ r3) (some (.sar p d a b))
  | 0x1D => mk (s0 ++ r3) (some (.ror p d a b))
  | 0x1E => mk (s1 ++ r3) (some (.min p sg d a b))
  | 0x1F => mk (s1 ++ r3) (some (.max p sg d a b))
  | 0x20 => mk r3 ((Cond.ofCode (fS w)).map fun c => .cmp p c d a b)
  | 0x21 => mk (s0 ++ r3) (some (.sel p d a b))
  | 0x22 => mk (r2 ++ rZ (fB w)) (some (.bitu p (BitFn.ofCode (fS w)) d a))
  | 0x23 => mk (s0 ++ r3) (some (.bfx p d a b))
  | 0x24 => mk (s0 ++ r3) (some (.bfi p d a b))
  | 0x25 => mk (s0 ++ rP hnd (fD w) ++ rP hnd (fA w) ++ rP hnd (fB w)) (some (.add64 p d a b))
  | 0x26 => mk (s0 ++ rP hnd (fD w) ++ rP hnd (fA w) ++ rP hnd (fB w)) (some (.sub64 p d a b))
  | 0x27 => mk (s0 ++ rP hnd (fD w) ++ rP hnd (fA w) ++ rP hnd (fB w)) (some (.mul64 p d a b))
  | 0x28 => mk (rP hnd (fD w) ++ rP hnd (fA w) ++ rS hnd (fB w))
      ((Sh64Fn.ofCode (fS w)).map fun f => .sh64 p f d a b)
  | 0x29 => mk (rS hnd (fD w) ++ rP hnd (fA w) ++ rP hnd (fB w))
      ((Cond.ofCode (fS w)).map fun c => .cmp64 p c d a b)
  | 0x2A => mk r2 (some (.addi p d a (fImm w)))
  | 0x2B => mk r2 (some (.andi p d a (fImm w)))
  | 0x2C => mk r2 (some (.ori p d a (fImm w)))
  | 0x2D => mk (r2 ++ rZ (w.extractLsb' 5 5)) (some (.shli p d a (w.extractLsb' 0 5)))
  | 0x2E => mk (s0 ++ rS hnd (fD w) ++ rZ (fA w) ++ rZ (fB w)) (some (.movl p d lit))
  | 0x2F =>
    match (fS w).toNat with
    | 0 => mk (r2 ++ rZ (fB w)) (some (.movs p d a))
    | 1 => mk (rS hnd (fD w) ++ rLane (fB w)) (some (.movsLane p d (fA w) (w.extractLsb' 3 5)))
    | 2 => mk (rS hnd (fD w) ++ rM (fA w) ++ rZ (fB w)) (some (.movsFrm p d (mregOf (fA w))))
    | 3 => mk (rMd (fD w) ++ rS hnd (fA w) ++ rZ (fB w)) (some (.movsTom p (mregOf (fD w)) a))
    | 4 => mk (rS hnd (fD w) ++ rZ (fA w) ++ rZ (fB w)) (some (.movsCnt p d))
    | _ => mk [] none
  | _ => .error 0x01

/-- Opcodes 0x30 to 0x4C (R42). -/
def decodeVector (hnd : Bool) (w : Word) : Except Nat Instr :=
  let p := fP w
  let d := fD w
  let a := fA w
  let b := fB w
  let sg := w.getLsbD 0
  let s0 := rCode (fS w == 0)
  let s1 := rCode (Nat.ble (fS w).toNat 1)
  match (fOp w).toNat with
  | 0x30 => mk s0 (some (.vadd p d a b))
  | 0x31 => mk s0 (some (.vsub p d a b))
  | 0x32 => mk s0 (some (.vmul p d a b))
  | 0x33 => mk s1 (some (.vmulh p sg d a b))
  | 0x34 => mk s0 (some (.vand p d a b))
  | 0x35 => mk s0 (some (.vor p d a b))
  | 0x36 => mk s0 (some (.vxor p d a b))
  | 0x37 => mk s0 (some (.vshl p d a b))
  | 0x38 => mk s0 (some (.vshr p d a b))
  | 0x39 => mk s0 (some (.vsar p d a b))
  | 0x3A => mk s1 (some (.vmin p sg d a b))
  | 0x3B => mk s1 (some (.vmax p sg d a b))
  | 0x3C => mk (rMd d) ((Cond.ofCode (fS w)).map fun c => .vcmp p c (mregOf d) a b)
  | 0x3D => mk [] (some (.vsel p d a b (fS w)))
  | 0x3E =>
    match (fS w).toNat with
    | 0 => mk (rZ b) (some (.vmov p d a))
    | 1 => mk (rS hnd a ++ rZ b) (some (.vmovSc p d (sregOf a)))
    | 2 => mk (rZ a ++ rZ b) (some (.vidx p d))
    | 3 => mk (rS hnd a ++ rS hnd b) (some (.vaff p d (sregOf a) (sregOf b)))
    | 4 => mk (rZ b) (some (.vmovG p d a))
    | 5 => mk (rS hnd a ++ rLane b) (some (.vins p d (sregOf a) (w.extractLsb' 3 5)))
    | _ => mk [] none
  | 0x3F => mk [] (some (.vaddi p d a (fImm w)))
  | 0x40 => mk (rZ b) (some (.vbitu p (BitFn.ofCode (fS w)) d a))
  | 0x41 => mk s0 (some (.vbfx p d a b))
  | 0x42 => mk s1 (some (.vdot4 p sg d a b))
  | 0x43 =>
    match V64Fn.ofCode (fS w) with
    | none => mk [] none
    | some f => mk (rOdd d ++ rOdd a ++ (match f with | .add | .sub => rOdd b | .shl | .shr | .sar => []))
        (some (.v64 p f d a b))
  | 0x44 =>
    let f := MopFn.ofCode (fS w)
    mk (rMd d ++ (match f with
        | .and | .or | .xor | .andn => rM a ++ rM b
        | .not | .mov => rM a ++ rZ b
        | .set | .clear => rZ a ++ rZ b))
      (some (.mop p f (mregOf d) (mregOf a) (mregOf b)))
  | 0x45 => mk (rS hnd d ++ rM a ++ rZ b) ((MqFn.ofCode (fS w)).map fun f => .mq p f (sregOf d) (mregOf a))
  | 0x46 => mk [] ((ShflFn.ofCode (fS w)).map fun f => .shfl p f d a b)
  | 0x47 => mk (rZ b) (some (.vred p (VredFn.ofCode (fS w)) d a))
  | 0x48 => mk (rZ b) ((VscanFn.ofCode (fS w)).map fun f => .vscan p f d a)
  | 0x49 =>
    let wd := fW w == 5
    mk (rCode (fW w == 4 || fW w == 5) ++ rWide wd d ++ rS hnd a) (some (.lrefill p d (sregOf a) (fC w) wd (fS w)))
  | 0x4A => mk (rCode (!w.getLsbD 0) ++ rZ (fW w) ++ rP hnd a)
      (some (.vsav p d (sregOf a) (fC w) (Hint.ofCode (w.extractLsb' 1 2))))
  | 0x4B => mk (rCode (!w.getLsbD 0) ++ rZ (fW w) ++ rP hnd a)
      (some (.vrst p d (sregOf a) (fC w) (Hint.ofCode (w.extractLsb' 1 2))))
  | 0x4C => mk (s0 ++ rS hnd d ++ rZ b) (some (.vtag p (sregOf d) a))
  | _ => .error 0x01

/-- Opcodes 0x50 to 0x64 (R43). -/
def decodeFp (hnd : Bool) (w : Word) : Except Nat Instr :=
  let p := fP w
  let d := fD w
  let a := fA w
  let b := fB w
  let s0 := rCode (fS w == 0)
  let arith (k : FTy → Instr) : Except Nat Instr :=
    match FTy.ofCode (fS w) with
    | none => mk [] none
    | some ty => mk (rWide (ty == .f64) d ++ rWide (ty == .f64) a ++ rWide (ty == .f64) b) (some (k ty))
  match (fOp w).toNat with
  | 0x50 => arith fun ty => .fadd p ty d a b
  | 0x51 => arith fun ty => .fsub p ty d a b
  | 0x52 => arith fun ty => .fmul p ty d a b
  | 0x53 => arith fun ty => .ffma p ty d a b
  | 0x54 => arith fun ty => .fmin p ty d a b
  | 0x55 => arith fun ty => .fmax p ty d a b
  | 0x56 =>
    match f64Of (fS w), FPred.ofCode (w.extractLsb' 20 4) with
    | some f, some q =>
      mk ((if destMask (mregOf d) then [] else [0x06]) ++ rWide f a ++ rWide f b) (some (.fcmp p f q (mregOf d) a b))
    | _, _ => mk [] none
  | 0x57 =>
    let f := w.getLsbD 2
    let o := SgnFn.ofCode (w.extractLsb' 0 2)
    mk (rWide f d ++ rWide f a ++ (match o with | .copysign => rWide f b | .abs | .neg | .nabs => rZ b))
      (some (.fsgn p f o d a b))
  | 0x58 =>
    match f64Of (fS w) with
    | none => mk [] none
    | some f => mk (rWide f d ++ rWide f a ++ rWide f b) (some (.fdiv p f d a b))
  | 0x59 =>
    match f64Of (fS w) with
    | none => mk [] none
    | some f => mk (rWide f d ++ rWide f a ++ rZ b) (some (.fsqrt p f d a))
  | 0x5A => mk (s0 ++ rZ b) (some (.frcpe p d a))
  | 0x5B => mk (rZ b) ((Rm.ofCode (fS w)).map fun rm => .frnd p rm d a)
  | 0x5C => mk (rOdd d ++ rOdd a ++ rZ b) ((Rm.ofCode (fS w)).map fun rm => .frnd64 p rm d a)
  | 0x5D =>
    match f64Of (fS w) with
    | none => mk [] none
    | some f => mk (rWide f a ++ rZ b) (some (.fclass p f d a))
  | 0x5E =>
    match CvtCode.ofCode b, Rm.ofCode (fS w) with
    | some c, some rm => mk (rWide c.wideD d ++ rWide c.wideA a) (some (.cvt p c rm d a))
    | _, _ => mk [] none
  | 0x5F => mk [] ((CvtnFmt.ofCode (fS w)).map fun f => .cvtn p f d a b)
  | 0x60 => mk [] ((CvtwFmt.ofCode (fS w)).map fun f => .cvtw p f d a b)
  | 0x61 =>
    let f := w.getLsbD 9
    let n := w.extractLsb' 3 6
    mk (rWide f d ++ rWide f a ++ rRange (Nat.ble 4 n.toNat && Nat.ble n.toNat 60))
      (some (.cord p f (CordFn.ofCode (fS w)) n d a))
  | 0x62 => mk (s0 ++ rZ d ++ rS hnd a ++ rS hnd b) (some (.pwpl p (sregOf a) (sregOf b)))
  | 0x63 => mk (s0 ++ rZ b) (some (.pwpe p d a))
  | 0x64 => mk (rCode (fS w == 2 || fS w == 3)) (some (.fdot2 p (w.getLsbD 0) d a b))
  | _ => .error 0x01

/-- The base operand of a memory access and its reasons: role `sc` when S0 is 0, role `vec` when it is 1 (R37). -/
def addrOf (w : Word) : Addr := if w.getLsbD 0 then .vec (fA w) else .sc (sregOf (fA w))

/-- LDG and STG: A is a scalar pair or a vector pair (R37). -/
def rPairAddr (hnd : Bool) (w : Word) : List Nat :=
  if w.getLsbD 0 then rOdd (fA w) else rP hnd (fA w)

/-- LDGX, STGX and the scratchpad forms: A is a scalar or a vector (R37). -/
def rOneAddr (hnd : Bool) (w : Word) : List Nat :=
  if w.getLsbD 0 then [] else rS hnd (fA w)

/-- ATOM, RED and ATOMS (R38, R44). -/
def decodeAtom (w : Word) (rs : List Nat) (noExch : Bool) (k : AtomOp → AtomTy → Instr) : Except Nat Instr :=
  let op := AtomOp.ofCode (fS w)
  match AtomTy.ofCode (fW w) with
  | none => mk rs none
  | some ty =>
    mk (rCode (ty.okFor op && (!noExch || op != .exch)) ++ rWide ty.is64 (fD w) ++ rs) (some (k op ty))

/-- Opcodes 0x68 to 0x75 (R44). -/
def decodeMem (hnd : Bool) (w lit : Word) : Except Nat Instr :=
  let p := fP w
  let t := fD w
  let a := fA w
  let c := fC w
  let wd := Width.ofCode (fW w)
  let h := Hint.ofCode (w.extractLsb' 1 2)
  let ad := addrOf w
  let lo := rCode (wd.addrOk ad)
  let st := rCode wd.storeOk
  let noHint := rCode (w.extractLsb' 1 2 == 0)
  match (fOp w).toNat with
  | 0x68 => mk (lo ++ rT wd t ++ rPairAddr hnd w) (some (.ldg p t ad c wd h))
  | 0x69 => mk (lo ++ rT wd t ++ rOneAddr hnd w ++ rLit hnd lit) (some (.ldgx p t ad c wd h lit))
  | 0x6A => mk (st ++ rT wd t ++ rPairAddr hnd w) (some (.stg p t ad c wd h))
  | 0x6B => mk (st ++ rT wd t ++ rOneAddr hnd w ++ rLit hnd lit) (some (.stgx p t ad c wd h lit))
  | 0x6C => mk (lo ++ noHint ++ rT wd t ++ rOneAddr hnd w) (some (.lds p t ad c wd))
  | 0x6D => mk (st ++ noHint ++ rT wd t ++ rOneAddr hnd w) (some (.sts p t ad c wd))
  | 0x6E => mk (lo ++ rT wd t ++ rOneAddr hnd w) (some (.ldx p t ad c wd (w.extractLsb' 1 2)))
  | 0x6F => mk (st ++ rT wd t ++ rOneAddr hnd w) (some (.stx p t ad c wd (w.extractLsb' 1 2)))
  | 0x70 =>
    if wd = .uw then mk (rT wd t ++ rS hnd a) (some (.ldp p t (.sc (sregOf a)) c wd (fS w)))
    else mk (rT wd t) (some (.ldp p t (.vec a) c wd (fS w)))
  | 0x71 => decodeAtom w (rLit hnd lit) false fun op ty => .atom p op ty t a c lit
  | 0x72 => decodeAtom w (rLit hnd lit) true fun op ty => .red p op ty t a c lit
  | 0x73 =>
    let x := fW w == 5
    mk (rCode (fS w == 0) ++ rCode (fW w == 4 || fW w == 5) ++
        (if x then (if quadReg t then [] else [0x07]) else rOdd t) ++ rLit hnd lit)
      (some (.cas p x t a c lit))
  | 0x74 =>
    mk (rCode (Nat.ble (fS w).toNat 1) ++ rZ t ++ rZ c ++ rZ (fW w) ++ rLit hnd lit)
      (some (if w.getLsbD 0 then .prefGr p a lit else .prefL1 p a lit))
  | 0x75 => decodeAtom w [] false fun op ty => .atoms p op ty t a c
  | _ => .error 0x01

/-- The engine number in a 7-bit field: bits 6:3 zero, 0 to 4 (R46). -/
def rEng (v : BitVec 7) : List Nat :=
  rZ (v.extractLsb' 3 4) ++ rRange (Nat.blt (v.extractLsb' 0 3).toNat 5)

/-- The counter number in a 7-bit field, bits 6:4 zero (R45, R46). -/
def rCtr (v : BitVec 7) : List Nat := rZ (v.extractLsb' 4 3)

/-- Opcodes 0x78 to 0x7D (R45, R46). -/
def decodeSync (hnd : Bool) (w : Word) : Except Nat Instr :=
  let p := fP w
  let d := sregOf (fD w)
  let a := sregOf (fA w)
  let b := sregOf (fB w)
  let cD : Ctr := (fD w).extractLsb' 0 4
  match (fOp w).toNat with
  | 0x78 =>
    match (fS w).toNat with
    | 0 => mk (rS hnd (fD w) ++ rS hnd (fA w) ++ rZ (fB w)) (some (.arrive p d a))
    | 1 => mk (rS hnd (fD w) ++ rS hnd (fA w) ++ rS hnd (fB w)) (some (.arriveX p d a b))
    | 2 => mk (rS hnd (fD w) ++ rS hnd (fA w) ++ rS hnd (fB w)) (some (.arriveR p d a b))
    | _ => mk [] none
  | 0x79 =>
    match (fS w).toNat with
    | 0 => mk (rZ (fD w) ++ rS hnd (fA w) ++ rS hnd (fB w)) (some (.waitB p a b))
    | 1 => mk (rZ (fD w) ++ rCtr (fA w)) (some (.waitA p ((fA w).extractLsb' 0 4) (fB w)))
    | _ => mk [] none
  | 0x7A =>
    let rs := rZ ((fD w).extractLsb' 2 5) ++ rZ (fA w) ++ rZ (fW w)
    match ((fD w).extractLsb' 0 2).toNat, Scope.ofCode (fS w) with
    | 1, some sc => mk rs (some (.fenceAcq p sc (fC w)))
    | 2, some sc => mk rs (some (.fenceRel p sc (fC w)))
    | 3, some sc => mk rs (some (.fenceAr p sc (fC w)))
    | _, _ => mk [] none
  | 0x7B => mk (rCode (fS w == 0) ++ rZ (fD w) ++ rP hnd (fA w) ++ rS hnd (fB w)) (some (.watch p a b))
  | 0x7C =>
    match (fS w).toNat with
    | 0 => mk (rZ (fD w) ++ rS hnd (fA w) ++ rZ (fB w)) (some (.mcfg p a))
    | 1 => mk (rCtr (fD w) ++ rP hnd (fA w) ++ rZ (fB w)) (some (.mlds p cD a))
    | 2 => mk (rZ (fD w) ++ rZ (fA w) ++ rZ (fB w)) (some (.mswp p))
    | 3 => mk (rCtr (fD w) ++ rP hnd (fA w) ++ rP hnd (fB w)) (some (.mstr p cD a b))
    | 4 => mk (rCtr (fD w) ++ rS hnd (fA w) ++ rZ (fB w)) (some (.mgrp p cD a))
    | 5 => mk (rCtr (fD w) ++ rP hnd (fA w) ++ rS hnd (fB w)) (some (.mclr p cD a b))
    | 6 => mk (rS hnd (fD w) ++ rP hnd (fA w) ++ rS hnd (fB w)) (some (.mhist p d a b))
    | _ => mk (rCtr (fD w) ++ rS hnd (fA w) ++ rZ (fB w)) (some (.mdrn p cD a))
  | 0x7D =>
    match (fS w).toNat with
    | 0 => mk (rEng (fD w) ++ rS hnd (fA w) ++ rS hnd (fB w)) (some (.engFork p ((fD w).extractLsb' 0 3) a b))
    | 1 => mk (rEng (fD w) ++ rZ (fA w) ++ rZ (fB w)) (some (.engKill p ((fD w).extractLsb' 0 3)))
    | 2 => mk (rS hnd (fD w) ++ rEng (fA w) ++ rZ (fB w)) (some (.engStat p d ((fA w).extractLsb' 0 3)))
    | _ => mk [] none
  | _ => .error 0x01

/-- The instruction of a word and, where its opcode takes one, its literal; else the lowest reason of R52 that the word itself shows.
`hnd` says whether the tiller is in handler mode, where k0 to k3 may be named (R33). -/
def decodeWord (hnd : Bool) (w lit : Word) : Except Nat Instr :=
  let op := (fOp w).toNat
  if op < 0x10 then decodeCtl hnd w
  else if op < 0x30 then decodeScalar hnd w lit
  else if op < 0x50 then decodeVector hnd w
  else if op < 0x68 then decodeFp hnd w
  else if op < 0x78 then decodeMem hnd w lit
  else decodeSync hnd w

/-! ## Bytes -/

/-- A word from four bytes, the first the least significant (R2). -/
def wordOf (b0 b1 b2 b3 : Byte) : Word := b3 ++ b2 ++ b1 ++ b0

/-- The four bytes of a word, least significant first (R2). -/
def bytesOf (w : Word) : List Byte :=
  [w.extractLsb' 0 8, w.extractLsb' 8 8, w.extractLsb' 16 8, w.extractLsb' 24 8]

/-- The first instruction of a list of bytes and the bytes after it, decoded as in handler mode; reason 0x14 where the bytes end too soon. -/
def decode (bs : List Byte) : Except Nat (Instr × List Byte) :=
  match bs with
  | b0 :: b1 :: b2 :: b3 :: rest =>
    let w := wordOf b0 b1 b2 b3
    if opTakesLit (fOp w).toNat then
      match rest with
      | l0 :: l1 :: l2 :: l3 :: rest' =>
        (decodeWord true w (wordOf l0 l1 l2 l3)).map fun i => (i, rest')
      | _ => .error 0x14
    else (decodeWord true w 0).map fun i => (i, rest)
  | _ => .error 0x14

/-- The bytes of an instruction word whose bits are `w`, with the word above it, as memory holds them. -/
def tableBytes (w : Nat) : List Byte := bytesOf (BitVec.ofNat 32 w) ++ bytesOf (BitVec.ofNat 32 (w / 2 ^ 32))

/-- What the decoder reads from a row's bits (bits above `nbits` are 0). -/
def decodeTableWord (nbits w : Nat) : Option Instr :=
  match decode (tableBytes (w % 2 ^ nbits)) with
  | .ok (i, _) => some i
  | .error _ => none

/-! ## Encoding -/

def packR (p : Bool) (op d a b : BitVec 7) (s : BitVec 3) : Word := BitVec.ofBool p ++ op ++ d ++ a ++ b ++ s
def packI (p : Bool) (op d a : BitVec 7) (i : BitVec 10) : Word := BitVec.ofBool p ++ op ++ d ++ a ++ i
def packB (p : Bool) (op : BitVec 7) (x : BitVec 24) : Word := BitVec.ofBool p ++ op ++ x
def packM (p : Bool) (op t a : BitVec 7) (c : BitVec 4) (wd s : BitVec 3) : Word :=
  BitVec.ofBool p ++ op ++ t ++ a ++ c ++ wd ++ s

/-- A scalar number in a 7-bit field. -/
def zs (r : SReg) : BitVec 7 := 0#1 ++ r
/-- A mask number in a 7-bit field. -/
def zm (m : MReg) : BitVec 7 := 0#4 ++ m
/-- A lane number in a 7-bit field. -/
def zl (l : BitVec 5) : BitVec 7 := 0#2 ++ l
/-- A counter number in a 7-bit field. -/
def zc (c : Ctr) : BitVec 7 := 0#3 ++ c
/-- An engine number in a 7-bit field. -/
def ze (e : BitVec 3) : BitVec 7 := 0#4 ++ e
/-- One bit in a 3-bit sub-operation. -/
def z1 (b : Bool) : BitVec 3 := 0#2 ++ BitVec.ofBool b

/-- The A field of a base operand. -/
def Addr.field : Addr → BitVec 7
  | .sc r => zs r
  | .vec r => r

/-- S0 of a base operand (R37). -/
def Addr.s0 : Addr → BitVec 1
  | .sc _ => 0
  | .vec _ => 1

/-- The words of an instruction, its literal after it where it has one; a step of the device has none. -/
def encode : Instr → List Word
  | .nop p => [packB p 0x00 0]
  | .bra p o => [packB p 0x01 (0#4 ++ o)]
  | .braSpin p o => [packB p 0x01 (8#4 ++ o)]
  | .bz p s o => [packB p 0x02 (s ++ 0#1 ++ o)]
  | .bnz p s o => [packB p 0x02 (s ++ 1#1 ++ o)]
  | .bm p m o => [packB p 0x03 (m ++ 0#1 ++ o)]
  | .bmn p m o => [packB p 0x03 (m ++ 1#1 ++ o)]
  | .jset p o => [packB p 0x04 (0#4 ++ o)]
  | .call p s o => [packB p 0x05 (s ++ o)]
  | .jmpr p s => [packB p 0x06 (s ++ 0#18)]
  | .rep p n sd sa sb => [packB p 0x07 (n ++ BitVec.ofBool sd ++ BitVec.ofBool sa ++ BitVec.ofBool sb ++ 0#15)]
  | .yield p => [packB p 0x08 0]
  | .yieldSpin p => [packB p 0x08 1]
  | .exit => [packB false 0x09 0]
  | .trap c => [packB false 0x0A (0#8 ++ c)]
  | .rte => [packB false 0x0B 0]
  | .srd p d r => [packI p 0x0C (zs d) 0 r.index]
  | .swr p r a => [packI p 0x0D 0 (zs a) r.index]
  | .sysLaunch p d a => [packR p 0x0E (zs d) (zs a) 0 0]
  | .sysGrun p d a => [packR p 0x0E (zs d) (zs a) 0 1]
  | .sysRcbsync p d a => [packR p 0x0E (zs d) (zs a) 0 2]
  | .sysCtxdone p => [packR p 0x0E 0 0 0 3]
  | .sysNotify p a => [packR p 0x0E 0 (zs a) 0 4]
  | .add p d a b => [packR p 0x10 (zs d) (zs a) (zs b) 0]
  | .sub p d a b => [packR p 0x11 (zs d) (zs a) (zs b) 0]
  | .mul p d a b => [packR p 0x12 (zs d) (zs a) (zs b) 0]
  | .mulh p sg d a b => [packR p 0x13 (zs d) (zs a) (zs b) (z1 sg)]
  | .div p sg d a b => [packR p 0x14 (zs d) (zs a) (zs b) (z1 sg)]
  | .rem p sg d a b => [packR p 0x15 (zs d) (zs a) (zs b) (z1 sg)]
  | .and p d a b => [packR p 0x16 (zs d) (zs a) (zs b) 0]
  | .or p d a b => [packR p 0x17 (zs d) (zs a) (zs b) 0]
  | .xor p d a b => [packR p 0x18 (zs d) (zs a) (zs b) 0]
  | .andn p d a b => [packR p 0x19 (zs d) (zs a) (zs b) 0]
  | .shl p d a b => [packR p 0x1A (zs d) (zs a) (zs b) 0]
  | .shr p d a b => [packR p 0x1B (zs d) (zs a) (zs b) 0]
  | .sar p d a b => [packR p 0x1C (zs d) (zs a) (zs b) 0]
  | .ror p d a b => [packR p 0x1D (zs d) (zs a) (zs b) 0]
  | .min p sg d a b => [packR p 0x1E (zs d) (zs a) (zs b) (z1 sg)]
  | .max p sg d a b => [packR p 0x1F (zs d) (zs a) (zs b) (z1 sg)]
  | .cmp p c d a b => [packR p 0x20 (zs d) (zs a) (zs b) c.code]
  | .sel p d a b => [packR p 0x21 (zs d) (zs a) (zs b) 0]
  | .bitu p f d a => [packR p 0x22 (zs d) (zs a) 0 f.code]
  | .bfx p d a b => [packR p 0x23 (zs d) (zs a) (zs b) 0]
  | .bfi p d a b => [packR p 0x24 (zs d) (zs a) (zs b) 0]
  | .add64 p d a b => [packR p 0x25 (zs d) (zs a) (zs b) 0]
  | .sub64 p d a b => [packR p 0x26 (zs d) (zs a) (zs b) 0]
  | .mul64 p d a b => [packR p 0x27 (zs d) (zs a) (zs b) 0]
  | .sh64 p f d a b => [packR p 0x28 (zs d) (zs a) (zs b) f.code]
  | .cmp64 p c d a b => [packR p 0x29 (zs d) (zs a) (zs b) c.code]
  | .addi p d a i => [packI p 0x2A (zs d) (zs a) i]
  | .andi p d a i => [packI p 0x2B (zs d) (zs a) i]
  | .ori p d a i => [packI p 0x2C (zs d) (zs a) i]
  | .shli p d a i => [packI p 0x2D (zs d) (zs a) (0#5 ++ i)]
  | .movl p d lit => [packR p 0x2E (zs d) 0 0 0, lit]
  | .movs p d a => [packR p 0x2F (zs d) (zs a) 0 0]
  | .movsLane p d a l => [packR p 0x2F (zs d) a (zl l) 1]
  | .movsFrm p d m => [packR p 0x2F (zs d) (zm m) 0 2]
  | .movsTom p m a => [packR p 0x2F (zm m) (zs a) 0 3]
  | .movsCnt p d => [packR p 0x2F (zs d) 0 0 4]
  | .vadd p d a b => [packR p 0x30 d a b 0]
  | .vsub p d a b => [packR p 0x31 d a b 0]
  | .vmul p d a b => [packR p 0x32 d a b 0]
  | .vmulh p sg d a b => [packR p 0x33 d a b (z1 sg)]
  | .vand p d a b => [packR p 0x34 d a b 0]
  | .vor p d a b => [packR p 0x35 d a b 0]
  | .vxor p d a b => [packR p 0x36 d a b 0]
  | .vshl p d a b => [packR p 0x37 d a b 0]
  | .vshr p d a b => [packR p 0x38 d a b 0]
  | .vsar p d a b => [packR p 0x39 d a b 0]
  | .vmin p sg d a b => [packR p 0x3A d a b (z1 sg)]
  | .vmax p sg d a b => [packR p 0x3B d a b (z1 sg)]
  | .vcmp p c m a b => [packR p 0x3C (zm m) a b c.code]
  | .vsel p d a b m => [packR p 0x3D d a b m]
  | .vmov p d a => [packR p 0x3E d a 0 0]
  | .vmovSc p d a => [packR p 0x3E d (zs a) 0 1]
  | .vidx p d => [packR p 0x3E d 0 0 2]
  | .vaff p d a b => [packR p 0x3E d (zs a) (zs b) 3]
  | .vmovG p d a => [packR p 0x3E d a 0 4]
  | .vins p d a l => [packR p 0x3E d (zs a) (zl l) 5]
  | .vaddi p d a i => [packI p 0x3F d a i]
  | .vbitu p f d a => [packR p 0x40 d a 0 f.code]
  | .vbfx p d a b => [packR p 0x41 d a b 0]
  | .vdot4 p sg d a b => [packR p 0x42 d a b (z1 sg)]
  | .v64 p f d a b => [packR p 0x43 d a b f.code]
  | .mop p f d a b => [packR p 0x44 (zm d) (zm a) (zm b) f.code]
  | .mq p f d m => [packR p 0x45 (zs d) (zm m) 0 f.code]
  | .shfl p f d a b => [packR p 0x46 d a b f.code]
  | .vred p f d a => [packR p 0x47 d a 0 f.code]
  | .vscan p f d a => [packR p 0x48 d a 0 f.code]
  | .lrefill p t a c wd m => [packM p 0x49 t (zs a) c (if wd then 5 else 4) m]
  | .vsav p t a c h => [packM p 0x4A t (zs a) c 0 (h.code ++ 0#1)]
  | .vrst p t a c h => [packM p 0x4B t (zs a) c 0 (h.code ++ 0#1)]
  | .vtag p d a => [packR p 0x4C (zs d) a 0 0]
  | .fadd p ty d a b => [packR p 0x50 d a b ty.code]
  | .fsub p ty d a b => [packR p 0x51 d a b ty.code]
  | .fmul p ty d a b => [packR p 0x52 d a b ty.code]
  | .ffma p ty d a b => [packR p 0x53 d a b ty.code]
  | .fmin p ty d a b => [packR p 0x54 d a b ty.code]
  | .fmax p ty d a b => [packR p 0x55 d a b ty.code]
  | .fcmp p f q m a b => [packR p 0x56 (q.code ++ m) a b (f64Code f)]
  | .fsgn p f o d a b => [packR p 0x57 d a b (BitVec.ofBool f ++ o.code)]
  | .fdiv p f d a b => [packR p 0x58 d a b (f64Code f)]
  | .fsqrt p f d a => [packR p 0x59 d a 0 (f64Code f)]
  | .frcpe p d a => [packR p 0x5A d a 0 0]
  | .frnd p rm d a => [packR p 0x5B d a 0 rm.code]
  | .frnd64 p rm d a => [packR p 0x5C d a 0 rm.code]
  | .fclass p f d a => [packR p 0x5D d a 0 (f64Code f)]
  | .cvt p c rm d a => [packR p 0x5E d a c.code rm.code]
  | .cvtn p f d a b => [packR p 0x5F d a b f.code]
  | .cvtw p f d a b => [packR p 0x60 d a b f.code]
  | .cord p f fn n d a => [packR p 0x61 d a (BitVec.ofBool f ++ n) fn.code]
  | .pwpl p a b => [packR p 0x62 0 (zs a) (zs b) 0]
  | .pwpe p d a => [packR p 0x63 d a 0 0]
  | .fdot2 p bf d a b => [packR p 0x64 d a b (1#2 ++ BitVec.ofBool bf)]
  | .ldg p t a c wd h => [packM p 0x68 t a.field c wd.code (h.code ++ a.s0)]
  | .ldgx p t a c wd h lit => [packM p 0x69 t a.field c wd.code (h.code ++ a.s0), lit]
  | .stg p t a c wd h => [packM p 0x6A t a.field c wd.code (h.code ++ a.s0)]
  | .stgx p t a c wd h lit => [packM p 0x6B t a.field c wd.code (h.code ++ a.s0), lit]
  | .lds p t a c wd => [packM p 0x6C t a.field c wd.code (0#2 ++ a.s0)]
  | .sts p t a c wd => [packM p 0x6D t a.field c wd.code (0#2 ++ a.s0)]
  | .ldx p t a c wd r => [packM p 0x6E t a.field c wd.code (r ++ a.s0)]
  | .stx p t a c wd r => [packM p 0x6F t a.field c wd.code (r ++ a.s0)]
  | .ldp p t a c wd n => [packM p 0x70 t a.field c wd.code n]
  | .atom p op ty t a c lit => [packM p 0x71 t a c ty.code op.code, lit]
  | .red p op ty t a c lit => [packM p 0x72 t a c ty.code op.code, lit]
  | .cas p wd t a c lit => [packM p 0x73 t a c (if wd then 5 else 4) 0, lit]
  | .prefL1 p a lit => [packM p 0x74 0 a 0 0 0, lit]
  | .prefGr p a lit => [packM p 0x74 0 a 0 0 1, lit]
  | .atoms p op ty t a c => [packM p 0x75 t a c ty.code op.code]
  | .arrive p d a => [packR p 0x78 (zs d) (zs a) 0 0]
  | .arriveX p d a b => [packR p 0x78 (zs d) (zs a) (zs b) 1]
  | .arriveR p d a b => [packR p 0x78 (zs d) (zs a) (zs b) 2]
  | .waitB p a b => [packR p 0x79 0 (zs a) (zs b) 0]
  | .waitA p c b => [packR p 0x79 0 (zc c) b 1]
  | .fenceAcq p sc c => [packM p 0x7A 1 0 c 0 sc.code]
  | .fenceRel p sc c => [packM p 0x7A 2 0 c 0 sc.code]
  | .fenceAr p sc c => [packM p 0x7A 3 0 c 0 sc.code]
  | .watch p a b => [packR p 0x7B 0 (zs a) (zs b) 0]
  | .mcfg p a => [packR p 0x7C 0 (zs a) 0 0]
  | .mlds p c a => [packR p 0x7C (zc c) (zs a) 0 1]
  | .mswp p => [packR p 0x7C 0 0 0 2]
  | .mstr p c a b => [packR p 0x7C (zc c) (zs a) (zs b) 3]
  | .mgrp p c a => [packR p 0x7C (zc c) (zs a) 0 4]
  | .mclr p c a b => [packR p 0x7C (zc c) (zs a) (zs b) 5]
  | .mhist p d a b => [packR p 0x7C (zs d) (zs a) (zs b) 6]
  | .mdrn p c a => [packR p 0x7C (zc c) (zs a) 0 7]
  | .engFork p e a b => [packR p 0x7D (ze e) (zs a) (zs b) 0]
  | .engKill p e => [packR p 0x7D (ze e) 0 0 1]
  | .engStat p d e => [packR p 0x7D (zs d) (ze e) 0 2]
  | _ => []

/-- The bytes of an instruction as memory holds them. -/
def encodeBytes (i : Instr) : List Byte := (encode i).flatMap bytesOf

/-! ## Timing classes (R29, R40 to R46) -/

/-- Class 2 for f64, else class 1 (R43). -/
def clsF (f64 : Bool) : Nat := if f64 then 2 else 1

/-- The timing class of an instruction. -/
def Instr.cls : Instr → Nat
  | .div .. | .rem .. => 3
  | .vdot4 .. | .shfl .. | .vred .. | .vscan .. | .lrefill .. | .vsav .. | .vrst .. => 1
  | .fadd _ ty .. | .fsub _ ty .. | .fmul _ ty .. | .ffma _ ty .. | .fmin _ ty .. | .fmax _ ty .. => clsF (ty == .f64)
  | .fcmp _ f .. | .fsgn _ f .. | .fclass _ f .. => clsF f
  | .fdiv .. | .fsqrt .. | .cord .. => 3
  | .frcpe .. | .frnd .. | .pwpl .. | .fdot2 .. => 1
  | .frnd64 .. | .cvtn .. | .cvtw .. | .pwpe .. => 2
  | .cvt _ c _ _ _ => clsF (match c with
      | .ftod | .dtof | .itod | .utod | .dtoi | .dtou | .ltod | .dtol => true
      | .itof | .utof | .ftoi | .ftou | .ftoh | .hltof | .hhtof | .ftob | .bltof | .bhtof => false)
  | .ldg .. | .ldgx .. | .stg .. | .stgx .. | .lds .. | .sts .. | .ldx .. | .stx .. | .ldp ..
  | .atom .. | .red .. | .cas .. | .prefL1 .. | .prefGr .. | .atoms .. => 1
  | .mlds .. | .mstr .. | .mgrp .. | .mclr .. | .mhist .. | .mdrn .. => 2
  | _ => 0

/-! ## Engine commands (R302) -/

/-- The 16 bytes of a command as four words, the first at the lowest offset. -/
structure CmdWords where
  w0 : Word
  x : Word
  y : Word
  z : Word
  deriving DecidableEq, Repr

/-- The OP byte of a command. -/
def CmdWords.op (c : CmdWords) : Nat := (c.w0.extractLsb' 0 8).toNat

/-- The operand bytes of a command. -/
def CmdWords.cmd (c : CmdWords) : Cmd :=
  { flags := c.w0.extractLsb' 8 8, bar := c.w0.extractLsb' 16 16, x := c.x, y := c.y, z := c.z }

/-- The row of engine unit `u` that a command code names, or none for a code that is not assigned (R302). -/
def decodeCmd (u : Nat) (w : CmdWords) : Option Instr :=
  let c := w.cmd
  match w.op with
  | 0x01 => some (.copy u c)
  | 0x02 => some (.copy2d u c)
  | 0x03 => some (.gather u c)
  | 0x04 => some (.tgather u c)
  | 0x05 => some (.mcast u c)
  | 0x06 => some (.trans u c)
  | 0x07 => some (.select u c)
  | 0x09 => some (.flush u c)
  | 0x0A => some (.inval u c)
  | 0x0B => some (.setattr u c)
  | 0x0C => some (.unlock u c)
  | 0x10 => some (.loop u c)
  | 0x11 => some (.ifCmd u c)
  | 0x12 => some (.cmdArrive u c)
  | 0x13 => some (.waitbCmd u c)
  | 0x14 => some (.ppt u c)
  | 0x1F => some (.endCmd u c)
  | 0x20 => some (.cmdMlds u c)
  | 0x21 => some (.cmdMswp u c)
  | 0x22 => some (.cmdMstr u c)
  | 0x23 => some (.cmdMgrp u c)
  | 0x24 => some (.cmdMdrn u c)
  | 0x25 => some (.cmdMhist u c)
  | 0x26 => some (.cmdMclr u c)
  | _ => none

end Sys2Proof
end

