-- ==== Sys2Proof/Machine/Phys.lean ====
section
/-! DEFINITION. The physical map (R251, R252), residency contracts by address, home slices (R253) and the place of an address in HBM (R263). -/

namespace Sys2Proof.Machine

/-- Ticks of `State.now` in one nanosecond: the least common multiple of 24 to 84, so that every cycle of R9 is a whole number of ticks (log 12). -/
def ticksPerNs : Nat := 8076030954443701744994070304101969600

/-- The parts of the physical map (R251). -/
inductive PhysKind where
  | hbm (die : Nat)
  | granary
  | control
  | peer (j : Nat)
  | host
  | hole
  deriving DecidableEq, Repr

/-- The part of the map that holds an address (R251). -/
def physKind (pa : Nat) : PhysKind :=
  if pa < 0x20000000000 then
    (if pa % 2 ^ 36 ≤ 0xB2D05DFFF then .hbm (pa / 2 ^ 36) else .hole)
  else if pa < 0x21000000000 then .granary
  else if pa < 0x40000000000 then .hole
  else if pa < 0x40100000000 then .control
  else if pa < 0x800000000000 then .hole
  else if pa < 0xB00000000000 then .peer ((pa - 2 ^ 47) / 2 ^ 42)
  else if pa < 0x1000000000000 then .hole
  else if pa < 0x10000000000000 then .host
  else .hole

/-- A residency-map entry. -/
def State.res (s : State) (n : Nat) : ResEntry := tget ResEntry.reset s.resid n

/-- Whether an entry's range holds an address. -/
def ResEntry.covers (e : ResEntry) (pa : Nat) : Bool := Nat.ble e.base pa && Nat.blt pa (e.base + e.size)

/-- Whether an entry is in force at an address, for the kinds that stand in HBM or in the granary window (R253). -/
def ResEntry.forces (e : ResEntry) (pinned : Bool) (pa : Nat) : Bool :=
  e.valid && (e.kind == 1) == pinned && e.covers pa

/-- The entry in force at an address: PINNED in the granary window, CACHE or KV in HBM (R253). -/
def State.contract (s : State) (pa : Nat) : Option (Nat × ResEntry) :=
  match physKind pa with
  | .hbm _ => s.resid.find? fun e => e.2.forces false pa
  | .granary => s.resid.find? fun e => e.2.forces true pa
  | .control | .peer _ | .host | .hole => none

/-- Whether a change under way leaves an entry's old standing: a commit is not yet in force, and a removal still is (R259). -/
def ResEntry.old (e : ResEntry) : Bool := (e.valid && e.change != 1) || e.change == 2

/-- The contract an access meets at a home: while an entry changes, its standing before the change, since the accesses that perform until then are those already at the old home (R253, R259). -/
def State.homeContract (s : State) (pa : Nat) : Option (Nat × ResEntry) :=
  match physKind pa with
  | .hbm _ => s.resid.find? fun e => e.2.old && e.2.kind != 1 && e.2.covers pa
  | .granary => s.resid.find? fun e => e.2.old && e.2.kind == 1 && e.2.covers pa
  | .control | .peer _ | .host | .hole => none

/-- Whether an access may go to an address (R252); the control space is reached only by aligned accesses that its chapter allows. -/
def State.populated (s : State) (pa : Nat) : Bool :=
  match physKind pa with
  | .hbm _ | .peer _ | .host | .control => true
  | .granary => (s.contract pa).isSome
  | .hole => false

/-- The exclusive-or of the b-bit groups of g (R253); `fuel` bounds the number of groups. -/
def foldBits (g b : Nat) : Nat → Nat
  | 0 => 0
  | fuel + 1 => (g % 2 ^ b) ^^^ foldBits (g / 2 ^ b) b fuel

/-- Fold of R253 over a 52-bit address. -/
def fold (g b : Nat) : Nat := foldBits g b 12

/-- The slice a placement picks, numbered 512 · die + 64 · vault + slice (R253). -/
def pick (place die vault g : Nat) : Nat :=
  match place with
  | 0 => fold g 14
  | 1 => 512 * die + fold g 9
  | _ => 512 * die + 64 * vault + fold g 6

/-- The home slice of an address (R253): an HBM hole is homed in its window. The accesses to a peer's window, whose home is the peer's, leave through one place, in the order they are sent (R367). -/
def State.home (s : State) (pa : Nat) : Nat :=
  match physKind pa with
  | .hbm d =>
    match s.homeContract pa with
    | none => pick 1 d 0 (pa / 64)
    | some (_, e) => pick e.place e.die e.vault (if e.kind = 2 then pa / 2 ^ 14 else pa / 64)
  | .granary =>
    match s.homeContract pa with
    | none => pick 1 0 0 (pa / 64)
    | some (_, e) => pick e.place e.die e.vault (pa / 64)
  | .host | .control => pick 1 0 0 (pa / 64)
  | .hole => pick 1 (if pa < 0x20000000000 then pa / 2 ^ 36 else 0) 0 (pa / 64)
  | .peer _ => 0

/-- Whether storage stands behind an address at its home: as at issue, and in a range under removal until the removal ends (R252, R259). -/
def State.backed (s : State) (pa : Nat) : Bool := s.populated pa || (s.homeContract pa).isSome

/-- The bank of an HBM address, numbered 2,048 · die + 16 · channel + bank (R263). -/
def bankOf (pa : Nat) : Nat :=
  let d := pa / 2 ^ 36
  let u := pa % 2 ^ 36 / 256
  2048 * d + 16 * fold u 7 + ((u / 2 ^ 7) ^^^ (u / 2 ^ 11)) % 16

/-- Whether a commit or removal holds accesses to an address at their source (R259). -/
def State.heldRange (s : State) (pa : Nat) : Bool :=
  s.resid.any fun e => e.2.covers pa && (e.2.change == 1 || e.2.change == 2)

/-- Whether any byte of a line stands under an uncorrectable error (R375). -/
def State.bad (s : State) (pa : Nat) : Bool := s.badLines.contains (pa / 64)

/-- The bytes of a line at its home. -/
def State.lineBytes (s : State) (pa : Nat) : List Byte := readBytes s.mem (pa / 64 * 64) 64

end Sys2Proof.Machine
end

