-- ==== Sys2Proof/Machine/Granary.lean ====
section
/-! DEFINITION. Home slices and their granary (R254, R258): the room of CACHE and KV contracts (R260 to R262), the multicast buffer (R286), requests at HBM banks (R264, R265), and what an access to a line does there. -/

namespace Sys2Proof.Machine

def State.slice (s : State) (n : Nat) : Slice := tget Slice.reset s.slices n
def State.setSlice (s : State) (n : Nat) (x : Slice) : State := { s with slices := tput s.slices n x }

def State.bank (s : State) (n : Nat) : Bank := tget Bank.reset s.banks n
def State.setBank (s : State) (n : Nat) (b : Bank) : State := { s with banks := tput s.banks n b }


/-! ## Room -/

/-- The number of slices of a placement (R258). -/
def ResEntry.slices (e : ResEntry) : Nat := match e.place with
  | 0 => 16384
  | 1 => 512
  | _ => 64

/-- The CACHE lines or KV blocks an entry's contract is guaranteed in a slice (R258). -/
def ResEntry.limit (e : ResEntry) : Nat := if e.kind = 0 then 256 * e.quota / e.slices else e.quota / e.slices

/-- The bytes an entry claims in each slice of its placement (R258). -/
def ResEntry.claim (e : ResEntry) : Nat := match e.kind with
  | 0 => 64 * e.limit
  | 1 => e.size / e.slices
  | _ => 16384 * e.limit

/-- Whether a slice of a vault belongs to an entry's placement. -/
def ResEntry.inVault (e : ResEntry) (die vault : Nat) : Bool := match e.place with
  | 0 => true
  | 1 => e.die == die
  | _ => e.die == die && e.vault == vault

/-- Whether an entry stands in the map, be it under removal. -/
def ResEntry.stands (e : ResEntry) : Bool := e.valid || e.change == 2

/-! ## Eviction -/

/-- A request that waits at a bank (R264). -/
def State.bankWait (s : State) (n : Nat) (r : BankReq) : State :=
  let b := tget Bank.reset s.banks n
  { s with banks := tput s.banks n { b with waiting := b.waiting ++ [r] } }

/-- A request that an access makes of HBM: a fill or another read, or an eviction, a write or a partial merge; `own` is the operation that it alone serves (R264, R286). -/
def State.bankAsk (s : State) (pa src : Nat) (read : Bool) (own : Option Nat) : State :=
  match physKind pa with
  | .hbm _ => s.bankWait (bankOf pa) ⟨pa / 64 * 64, read, src, own⟩
  | .granary | .control | .peer _ | .host | .hole => s

/-- A request of HBM that is no operation's own (R264). -/
def State.bankWork (s : State) (pa src : Nat) (read : Bool) : State := s.bankAsk pa src read none

/-- Whether a fill of a line that reads join still waits at its bank (R265, R286). -/
def State.bankBusy (s : State) (line : Nat) : Bool :=
  let b := s.bank (bankOf line)
  (b.waiting ++ b.queue).any fun r => r.read && r.own.isNone && r.line == line

/-- Whether a read of a line that serves one operation alone still waits at its bank (R286). -/
def State.ownBusy (s : State) (line id : Nat) : Bool :=
  let b := s.bank (bankOf line)
  (b.waiting ++ b.queue).any fun r => r.read && r.own == some id && r.line == line

/-- The metadata word of a KV block (R261). -/
def State.kvMeta (s : State) (b : KvBlock) : Nat :=
  let e := s.res b.entry
  readNat s.mem (e.metabase + 8 * ((b.base - e.base) / 16384)) 8

/-- Whether one block comes before another in the victim order (R262). -/
def State.kvBefore (s : State) (a b : KvBlock) : Bool :=
  let ma := s.kvMeta a
  let mb := s.kvMeta b
  let age (x : KvBlock) : Nat := (s.kvepoch + 2 ^ 32 - x.epoch) % 2 ^ 32
  if bits ma 48 3 ≠ bits mb 48 3 then Nat.blt (bits ma 48 3) (bits mb 48 3)
  else if age a ≠ age b then Nat.blt (age b) (age a)
  else if bits ma 0 32 ≠ bits mb 0 32 then Nat.blt (bits ma 0 32) (bits mb 0 32)
  else Nat.blt a.base b.base

/-- The victim among the resident blocks of a contract in a slice, for a requester's tenant (R262); a lower quota has no requester, and takes all candidates in victim order (R259). -/
def State.kvVictim (s : State) (sl : Slice) (n : Nat) (tenant : Option Nat) : Option KvBlock :=
  let c0 := sl.kv.filter fun b => b.entry == n && Nat.blt (bits (s.kvMeta b) 48 3) 7
  let own := c0.filter fun b => some (bits (s.kvMeta b) 32 16) == tenant
  match (if own.isEmpty then c0 else own) with
  | [] => none
  | b :: rest => some (rest.foldl (fun x y => if s.kvBefore y x then y else x) b)

/-- A KV block evicted from a slice, with the write-back of its dirty lines (R262). -/
def State.kvEvict (s : State) (sl : Nat) (b : KvBlock) (src : Nat) : State :=
  let x := s.slice sl
  let s1 := s.setSlice sl { x with kv := x.kv.filter fun y => y != b }
  b.dirty.foldl (fun st a => st.bankWork a src false) s1

/-- A CACHE line evicted from a slice, with the write-back of a dirty line (R260). -/
def State.cacheEvict (s : State) (sl : Nat) (l : CacheLine) (src : Nat) : State :=
  let x := s.slice sl
  let s1 := s.setSlice sl { x with cache := x.cache.filter fun y => y != l }
  if l.dirty then s1.bankWork l.line src false else s1

/-! ## Allocation at a slice (R260, R261) -/

/-- The bytes of granary room in use in a slice. -/
def State.roomUsed (s : State) (n : Nat) : Nat :=
  let x := s.slice n
  let pinned := s.resid.foldl (fun k e =>
    if e.2.stands && e.2.kind == 1 && e.2.inVault (n / 512) (n / 64 % 8) then k + e.2.claim else k) 0
  pinned + 64 * x.cache.length + 16384 * x.kv.length

/-- The lines a contract holds in a slice. -/
def Slice.usedBy (x : Slice) (n : Nat) : Nat := (x.cache.filter fun l => l.entry == n).length

/-- How far a contract holds more lines in a slice than its limit. -/
def State.surplus (s : State) (x : Slice) (n : Nat) : Nat := x.usedBy n - (s.res n).limit

/-- Whether a contract gives up a borrowed line before another: normal before retain-priority, the one furthest over, then the lowest index (R260). -/
def State.givesFirst (s : State) (x : Slice) (a b : Nat) : Bool :=
  let ra := (s.res a).policy == 2
  let rb := (s.res b).policy == 2
  if ra ≠ rb then rb else if s.surplus x a ≠ s.surplus x b then Nat.blt (s.surplus x b) (s.surplus x a) else Nat.blt a b

/-- EvictBorrowed (R260). -/
def State.evictBorrowed (s : State) (sl src : Nat) : State :=
  let x := s.slice sl
  let cs := (x.cache.foldl (fun l y => addNew l y.entry) []).filter fun n => Nat.blt 0 (s.surplus x n)
  match cs with
  | [] => s
  | c :: rest =>
    let n := rest.foldl (fun a b => if s.givesFirst x b a then b else a) c
    match x.cache.find? fun l => l.entry == n with
    | some l => s.cacheEvict sl l src
    | none => s

/-- Borrowed lines evicted until `need` bytes are free; `fuel` bounds them. -/
def State.makeRoom (s : State) (sl src need : Nat) : Nat → State
  | 0 => s
  | fuel + 1 => if Nat.ble (s.roomUsed sl + need) 4194304 then s else (s.evictBorrowed sl src).makeRoom sl src need fuel

/-- A CACHE line put at its slice as the most recently used. -/
def State.cachePut (s : State) (sl : Nat) (l : CacheLine) : State :=
  let x := s.slice sl
  s.setSlice sl { x with cache := (x.cache.filter fun y => y.line != l.line) ++ [l] }

/-- Allocate (R260): a line of CACHE contract n at its slice; `gr` where PREF.gr asks. -/
def State.cacheAlloc (s : State) (sl n line src : Nat) (dirty gr : Bool) : State :=
  let x := s.slice sl
  let e := s.res n
  let put (st : State) : State := st.cachePut sl ⟨line, n, dirty⟩
  if e.policy = 1 ∧ !gr then s
  else if x.usedBy n < e.limit then put (s.makeRoom sl src 64 65536)
  else if e.policy ≠ 1 ∧ s.roomUsed sl + 64 ≤ 4194304 then put s
  else
    match x.cache.find? fun l => l.entry == n with
    | some l => put (s.cacheEvict sl l src)
    | none => s

/-- A KV block put at its slice as the most recently used, with the epoch of this access. -/
def State.kvPut (s : State) (sl : Nat) (b : KvBlock) : State :=
  let x := s.slice sl
  s.setSlice sl { x with kv := (x.kv.filter fun y => y.base != b.base) ++ [b] }

/-- A miss on a KV block: the whole block is allocated, a victim leaving where the contract is at its limit (R261, R262). -/
def State.kvAlloc (s : State) (sl n line tenant src : Nat) (wr : Bool) : State :=
  let x := s.slice sl
  let e := s.res n
  let b : KvBlock := ⟨e.base + (line - e.base) / 16384 * 16384, n, s.kvepoch, if wr then [line] else []⟩
  if (x.kv.filter fun y => y.entry == n).length < e.limit then (s.makeRoom sl src 16384 65536).kvPut sl b
  else
    match s.kvVictim x n (some tenant) with
    | none => s
    | some v => (s.kvEvict sl v src).kvPut sl b

/-- The other lines of a KV block that a miss has allocated are filled from HBM behind the line that missed (R261). -/
def State.kvFill (s : State) (sl line src : Nat) : State :=
  match (s.slice sl).kv.find? fun b => Nat.ble b.base line && Nat.blt line (b.base + 16384) with
  | some b => (List.range 256).foldl (fun st k => if b.base + 64 * k = line then st else st.bankWork (b.base + 64 * k) src true) s
  | none => s

/-! ## Multicast, and an access at its home -/

/-- The multicast entry's life: 128 cycles of the 1.4 GHz slice clock, in ticks (R286). -/
def mcastTicks : Nat := 640 * ticksPerNs / 7

/-- Whether a line's multicast entry serves a read now (R286). -/
def State.mcastHit (s : State) (sl line : Nat) : Bool :=
  (s.slice sl).mcast.any fun e => e.1 == line && Nat.ble s.now (e.2 + mcastTicks)

/-- Whether an address lies in a peer's window: its home is the peer's, and no slice here buffers it (R253). -/
def isPeer (pa : Nat) : Bool :=
  match physKind pa with
  | .peer _ => true
  | .hbm _ | .granary | .control | .host | .hole => false

/-- A read's line left in the multicast buffer: 8 entries, the least recently used leaving (R286). -/
def State.mcastPut (s : State) (sl line : Nat) : State :=
  if isPeer line then s else
  let x := s.slice sl
  let t := match x.mcast.find? fun e => e.1 == line with
    | some e => if s.mcastHit sl line then e.2 else s.now
    | none => s.now
  let l := (x.mcast.filter fun e => e.1 != line) ++ [(line, t)]
  s.setSlice sl { x with mcast := l.drop (l.length - 8) }

/-- A write closes the multicast entry of its line (R286). -/
def State.mcastClose (s : State) (sl line : Nat) : State :=
  let x := s.slice sl
  s.setSlice sl { x with mcast := x.mcast.filter fun e => e.1 != line }

/-- A contract's hold on a line at its slice for one access: whether the granary holds the line already, and the state with it allocated or made recent (R260, R261).
`dirty` marks a write, `full` a write of the whole line, `gr` PREF.gr, and `quiet` an access that allocates no CACHE line (R304). -/
def State.granary (s : State) (sl pa tenant src : Nat) (wr full gr quiet : Bool) : Bool × State :=
  let line := pa / 64 * 64
  match physKind pa with
  | .hbm _ =>
    (match s.homeContract pa with
    | none => (false, s)
    | some (n, e) =>
      let x := s.slice sl
      if e.kind = 2 then
        match x.kv.find? fun b => Nat.ble b.base line && Nat.blt line (b.base + 16384) with
        | some b => (true, s.kvPut sl { b with epoch := s.kvepoch, dirty := if wr then addNew b.dirty line else b.dirty })
        | none => (false, s.kvAlloc sl n line tenant src wr)
      else
        match x.cache.find? fun l => l.line == line with
        | some l => (true, s.cachePut sl { l with dirty := l.dirty || wr })
        | none => (false, if quiet || (wr && !full) then s else s.cacheAlloc sl n line src wr gr))
  | .granary | .control | .peer _ | .host | .hole => (true, s)

/-- Whether a slice holds a line under a contract. -/
def Slice.holdsLine (x : Slice) (line : Nat) : Bool :=
  (x.cache.any fun l => l.line == line) || x.kv.any fun b => Nat.ble b.base line && Nat.blt line (b.base + 16384)

/-- A CACHE line made the least recently used of its contract (R272). -/
def State.cacheLast (s : State) (sl pa : Nat) : State :=
  let x := s.slice sl
  match x.cache.find? fun l => l.line == pa / 64 * 64 with
  | some l => s.setSlice sl { x with cache := l :: x.cache.filter fun y => y != l }
  | none => s

/-- What an access does with a line at its home slice. -/
inductive HomeUse where
  /-- A read of R286's list: the multicast buffer serves it and keeps its line. -/
  | read
  /-- Any other read, such as a code fetch, a walk, a fill of the parameter cache, or a read of a partial write: it uses no multicast entry, leaves none, and joins no fill; `own` is the operation that waits for it. -/
  | fetch (own : Option Nat)
  /-- A write, of the whole line or of part of it. -/
  | write (full : Bool)
  /-- An atomic, which never merges (R286), and the operation that waits for it. -/
  | atomic (own : Option Nat)
  /-- PREF.gr (R285). -/
  | place
  deriving DecidableEq, Repr

def HomeUse.writes : HomeUse → Bool
  | .write _ | .atomic _ => true
  | .read | .fetch _ | .place => false

/-- Whether the reads of a use merge (R286). -/
def HomeUse.merges : HomeUse → Bool
  | .read | .place => true
  | .fetch _ | .write _ | .atomic _ => false

/-- What an access of HBM asks of its bank, `hit` being whether the slice held the line and `kept` whether it does now; and whether its data wait for a read of the bank, its own or one that it joins (R260, R261, R264, R286).
A line that the slice has taken for a write of part of it is read; a partial write that allocates nothing is merged at the bank. -/
def State.bankUse (s : State) (pa src : Nat) (use : HomeUse) (hit kept near : Bool) : Bool × State :=
  let busy := s.bankBusy (pa / 64 * 64)
  match use with
  | .read => if busy then (true, s) else if hit || near then (false, s) else (true, s.bankAsk pa src true none)
  | .place => if busy then (true, s) else if hit || near || !kept then (false, s) else (true, s.bankAsk pa src true none)
  | .fetch own => if hit then (busy, s) else (true, s.bankAsk pa src true own)
  | .write full => (false, if hit || (full && kept) then s else s.bankAsk pa src kept none)
  | .atomic own =>
    if hit then (busy, s)
    else
      let s1 := s.bankAsk pa src true own
      (true, if kept then s1 else s1.bankAsk pa src false none)

/-- An access of a line at its home slice (R254, R260, R261, R264, R286): what the granary holds of it, its multicast entry, and its requests of HBM; and whether its data wait for one of them.
`quiet` allocates no CACHE line (R304) and `last` makes one the least recently used (R272, R304). -/
def State.homeAccess (s : State) (sl pa tenant src : Nat) (use : HomeUse) (quiet last : Bool) : Bool × State :=
  let line := pa / 64 * 64
  let s0 := if isPeer pa then s else s.setSlice sl { s.slice sl with rr := src }
  let (hit, s1) := s0.granary sl pa tenant src use.writes (use == .write true) (use == .place) quiet
  let s2 := if last then s1.cacheLast sl pa else s1
  let near := use.merges && s2.mcastHit sl line
  let s3 := if use.writes then s2.mcastClose sl line else if use.merges then s2.mcastPut sl line else s2
  match physKind pa with
  | .hbm _ =>
    let (waits, s4) := s3.bankUse pa src use hit ((s3.slice sl).holdsLine line) near
    (waits, if hit then s4 else s4.kvFill sl line src)
  | .granary | .control | .peer _ | .host | .hole => (false, s3)

/-- The lines that bytes of a physical range stand in. -/
def linesFrom (pa n : Nat) : List Nat := (List.range ((pa + n + 63) / 64 - pa / 64)).map fun k => pa / 64 * 64 + 64 * k

/-- An access that the device or a codec makes of a range of bytes, line by line, at one slice (R91, R254). -/
def State.homeRange (s : State) (sl pa n tenant src : Nat) (use : HomeUse) (quiet last : Bool) : State :=
  (linesFrom pa n).foldl (fun st l => (st.homeAccess sl l tenant src use quiet last).2) s

/-! ## What an access waits for before its home -/

/-- Whether a line is being called back from the host, or a request to it waits for the host's answer: later accesses of the line wait behind it (R366). -/
def State.called (s : State) (line : Nat) : Bool :=
  s.links.any fun l => l.snoop && (l.req.key.base / 64 * 64 == line || l.req.pa / 64 * 64 == line)

/-- An access that the device makes of a line: it waits where the line is called back (R366) or its contract changes (R259). -/
def State.reach (s : State) (line : Nat) : State :=
  if s.called line || s.heldRange line then { s with waits := true } else s

/-- Whether a line lies in host memory. -/
def isHost (pa : Nat) : Bool :=
  match physKind pa with
  | .host => true
  | .hbm _ | .granary | .control | .peer _ | .hole => false

/-- Whether an address lies behind a link that is down (R365, R367). -/
def State.linkDown (s : State) (pa : Nat) : Bool :=
  match physKind pa with
  | .host => !s.pkg.hostUp
  | .peer j => !tget false s.pkg.peerUp j
  | .hbm _ | .granary | .control | .hole => false

/-- Whether a request that its core has sent before is on its way to the same peer, or to the same line of the host's: another access of the core's waits behind it (R366, R367). -/
def State.outBehind (s : State) (core pa : Nat) : Bool :=
  ((s.links.map (·.req)) ++ s.transit).any fun r => r.src == core && (isHost pa || isPeer pa) && physKind r.pa == physKind pa && (isPeer pa || r.pa / 64 == pa / 64)

end Sys2Proof.Machine
end

