-- ==== Sys2Proof/Machine/Walk.lean ====
section
/-! DEFINITION. Page-table entries (R320), the walk (R321), the TLBs (R322) and the coded pages of R89 to R92. -/

namespace Sys2Proof.Machine

def pteV (e : DWord) : Bool := e.getLsbD 0
def pteLeaf (e : DWord) : Bool := e.getLsbD 1
def pteWr (e : DWord) : Bool := e.getLsbD 2
def pteExec (e : DWord) : Bool := e.getLsbD 3
/-- 0 SELFINV, 1 PRIVATE, 2 UNCACHED, 3 HOST (R271). -/
def pteAttr (e : DWord) : Nat := (e.extractLsb' 4 2).toNat
def pteMig (e : DWord) : Bool := e.getLsbD 6
def pteCoded (e : DWord) : Bool := e.getLsbD 8
def pteCrate (e : DWord) : Nat := (e.extractLsb' 9 2).toNat
def pteCrid (e : DWord) : Nat := (e.extractLsb' 11 12).toNat
/-- The address field as a physical address. -/
def pteAddr (e : DWord) : Nat := (e.extractLsb' 24 40).toNat * 4096

/-- Whether a must-be-0 bit of an entry is set (R320). -/
def pteBadZero (e : DWord) : Bool :=
  e.getLsbD 7 || e.getLsbD 23 || (!pteLeaf e && e.extractLsb' 2 22 != 0)

/-- Accesses that write (R320). -/
def accWrites : Access → Bool
  | .store | .atomic | .spillWr | .engWr => true
  | .load | .fetch | .spillRd | .engRd | .table => false

/-- The ACCESS code of a fault record (R326). -/
def accCode : Access → Nat
  | .load => 0
  | .store => 1
  | .atomic => 2
  | .fetch => 3
  | .spillRd | .spillWr => 4
  | .engRd => 5
  | .engWr => 6
  | .table => 7

/-- How a walk ends (R321). -/
inductive WalkEnd where
  | leaf (e : DWord) (size : Nat)
  | notPresent
  | migrating
  | malformed
  | protection
  | phys (pa : Nat)
  deriving DecidableEq, Repr

/-- The shift and the number of index bits of a level (R319). -/
def levelBits : Nat → Nat × Nat
  | 0 => (47, 9)
  | 1 => (38, 9)
  | 2 => (29, 9)
  | 3 => (21, 8)
  | _ => (16, 5)

/-- Whether a leaf admits an access (R321). -/
def leafAllows (e : DWord) (acc : Access) : Bool :=
  !(accWrites acc && !pteWr e) && !(acc == .fetch && !pteExec e)

/-- Whether a table entry can be read at an address (R321). -/
def State.tableOk (s : State) (pa : Nat) : Bool := s.populated pa && physKind pa != .control

/-- The walk from a table at a level, `fuel` levels being left (R321). -/
def State.walkFrom (s : State) (t va : Nat) (acc : Access) : Nat → WalkEnd
  | 0 => .malformed
  | fuel + 1 =>
    let level := 4 - fuel
    let (sh, n) := levelBits level
    let ea := t + 8 * bits va sh n
    if !s.tableOk ea then .phys ea
    else
      let e : DWord := bv 64 (readNat s.mem ea 8)
      if !pteV e then .notPresent
      else if pteBadZero e || (pteLeaf e && level < 2) || (!pteLeaf e && level == 4) then .malformed
      else if pteLeaf e then
        if !pteCoded e && pteAddr e % 2 ^ sh != 0 then .malformed
        else if pteMig e then .migrating
        else if leafAllows e acc then .leaf e (2 ^ sh)
        else .protection
      else s.walkFrom (pteAddr e) va acc fuel

/-- The walk from a root (R321). -/
def State.walk (s : State) (root va : Nat) (acc : Access) : WalkEnd := s.walkFrom root va acc 5

/-- The table entries that the walk from a table at a level reads, each a read at its home (R254, R321). -/
def State.walkReads (s : State) (t va : Nat) : Nat → List Nat
  | 0 => []
  | fuel + 1 =>
    let level := 4 - fuel
    let (sh, n) := levelBits level
    let ea := t + 8 * bits va sh n
    if !s.tableOk ea then []
    else
      let e : DWord := bv 64 (readNat s.mem ea 8)
      ea :: (if !pteV e || pteBadZero e || pteLeaf e || level == 4 then [] else s.walkReads (pteAddr e) va fuel)

/-- The reads of a walk at their homes, for a core and a tenant (R254, R262); they wait where a contract changes or the host is called back (R259, R366). -/
def State.walkTouch (s : State) (core tenant root va : Nat) : State :=
  (s.walkReads root va 5).foldl (fun st ea => ((st.reach (ea / 64 * 64)).homeAccess (st.home ea) ea tenant core (.fetch none) false false).2) s

/-- Whether a range walker is changing the attribute of the page of an address: accesses to it wait for their replay, as at a migrating leaf (R295). -/
def State.inMove (s : State) (root va : Nat) : Bool := s.moving.any fun m => m.1 == root && Nat.ble m.2.1 va && Nat.blt va (m.2.1 + m.2.2)

/-- Whether a TLB entry maps an address for a root (R322). -/
def TlbEntry.maps (e : TlbEntry) (root va : Nat) : Bool :=
  e.root == root && Nat.ble e.va va && Nat.blt va (e.va + e.size)

/-- A TLB with an entry put in, the oldest leaving when it is full (log 16). -/
def tlbInsert (cap : Nat) (l : List TlbEntry) (e : TlbEntry) : List TlbEntry :=
  let l' := (l.filter fun x => !(x.root == e.root && x.va == e.va && x.size == e.size)) ++ [e]
  l'.drop (l'.length - cap)

/-- What the TLBs of a slot and its core hold for an address (R322). -/
def Core.tlbFind (c : Core) (slot root va : Nat) : Option TlbEntry :=
  match (tget [] c.tlb1 slot).find? (fun e => e.maps root va) with
  | some e => some e
  | none => c.tlb2.find? (fun e => e.maps root va)

/-- An entry put into the TLBs of a slot and its core. -/
def Core.tlbFill (c : Core) (slot : Nat) (e : TlbEntry) : Core :=
  { c with
    tlb1 := tput c.tlb1 slot (tlbInsert 64 (tget [] c.tlb1 slot) e)
    tlb2 := tlbInsert 4096 c.tlb2 e }

/-- The result of a translation: the TLBs of a slot first, then a walk that fills them (R321, R322). -/
def State.lookup (s : State) (core slot tenant root va : Nat) (acc : Access) : WalkEnd × State :=
  let c := s.core core
  if s.inMove root va then (.migrating, s)
  else
    match c.tlbFind slot root va with
    | some e => (if leafAllows e.leaf acc then .leaf e.leaf e.size else .protection, s.setCore core (c.tlbFill slot e))
    | none =>
      let s1 := s.walkTouch core tenant root va
      match s.walk root va acc with
      | .leaf e size =>
        (.leaf e size, s1.setCore core ((s1.core core).tlbFill slot ⟨root, va / size * size, size, e⟩))
      | .notPresent => (.notPresent, s1)
      | .migrating => (.migrating, s1)
      | .malformed => (.malformed, s1)
      | .protection => (.protection, s1)
      | .phys pa => (.phys pa, s1)

/-! ## Where a translated line stands -/

/-- A translated line: its key, the physical address at its home (the block's for a coded line), its attribute, whether it is coded, the coded region, its logical address, and the size of its page. -/
structure LineRef where
  key : LKey
  pa : Nat
  attr : Nat
  coded : Bool
  crid : Nat
  va : Nat
  page : Nat
  deriving DecidableEq, Repr

/-- Why a global access does not proceed (R275, R321, R252, R92). -/
inductive AccFault where
  | misaligned
  | range
  | replay (mig : Bool)
  | trans (prot : Bool)
  | coded
  | phys (pa : Nat) (table : Bool)
  deriving DecidableEq, Repr

/-- Whether the backing of a coded page lies where R90 and R92 let it. -/
def State.codedOk (s : State) (e : DWord) (size : Nat) : Bool :=
  let base := pteAddr e
  let len := size * rateBits (pteCrate e) / 64
  let place := match physKind base, physKind (base + len - 1) with
    | .hbm d, .hbm d' => d == d'
    | .granary, .granary =>
      (match s.contract base with
      | some (_, r) => r.covers (base + len - 1)
      | none => false)
    | _, _ => false
  (size == 2 ^ 16 && base % 2 ^ 14 == 0 || size == 2 ^ 21 && base % 2 ^ 19 == 0) && place && pteAttr e != 3

/-- The line of an address under a leaf (R91, R101). -/
def State.lineOf (s : State) (e : DWord) (size va : Nat) : Except AccFault LineRef :=
  if pteCoded e then
    if !s.codedOk e size then .error .coded
    else
      let off := va % size
      let b := rateBits (pteCrate e)
      let base := pteAddr e + off / 128 * (2 * b)
      .ok ⟨⟨base, off % 128 / 64, b⟩, base, pteAttr e, true, pteCrid e, va / 64 * 64, size⟩
  else
    let pa := pteAddr e + va % size
    if s.populated pa then .ok ⟨⟨pa / 64 * 64, 0, 0⟩, pa / 64 * 64, pteAttr e, false, 0, va / 64 * 64, size⟩
    else .error (.phys pa false)

/-- The line of an access, with the TLBs filled. -/
def State.translate (s : State) (core slot tenant root va : Nat) (acc : Access) : Except AccFault LineRef × State :=
  match s.lookup core slot tenant root va acc with
  | (.leaf e size, s1) => (s1.lineOf e size va, s1)
  | (.notPresent, s1) => (.error (.replay false), s1)
  | (.migrating, s1) => (.error (.replay true), s1)
  | (.malformed, s1) => (.error (.trans false), s1)
  | (.protection, s1) => (.error (.trans true), s1)
  | (.phys pa, s1) => (.error (.phys pa true), s1)

end Sys2Proof.Machine
end

