-- ==== Sys2Proof/Machine/Region.lean ====
section
/-! DEFINITION. Time in nanoseconds (R187), the effective values of regions (R13, R346, R347), and the records sent to fault domains (R326, R349, R372). -/

namespace Sys2Proof.Machine

/-- TIME: nanoseconds since package reset, rounded down (R187). -/
def State.time (s : State) : Nat := s.now / ticksPerNs

/-- The scheduler's copy of an RCB. -/
def State.rcb (s : State) (a : Nat) : Rcb := tget Rcb.zero s.rcbs a

/-- The RCBs from one up to the root; `fuel` bounds the depth (R347). -/
def State.rcbPath (s : State) (a : Nat) : Nat → List Rcb
  | 0 => []
  | fuel + 1 =>
    let r := s.rcb a
    if r.parent = 0 then [r] else r :: s.rcbPath r.parent fuel

/-- Whether an RCB's overridden fields lie in their ranges and its must-be-0 bits, those of PTROOT among them, are clear (R346, R347). -/
def Rcb.fieldsOk (r : Rcb) : Bool :=
  r.zeroOk &&
  (!r.ovr.testBit 4 || (Nat.ble 1 r.grant && Nat.ble r.grant 1000 && Nat.ble r.bgrant 1000 &&
    Nat.ble 600 r.fmincap && Nat.ble r.fmincap 2100)) &&
  r.ptroot % 4096 == 0 && Nat.blt r.ptroot (2 ^ 52)

/-- Whether a region is malformed: some RCB of its path is, or the path is longer than 16 (R347). -/
def State.malformed (s : State) (a : Nat) : Bool :=
  let path := s.rcbPath a 17
  Nat.blt 16 path.length || path.any (fun r => !r.fieldsOk || r.parent % 64 != 0) ||
    (match path.getLast? with
    | some r => r.parent != 0 || r.ovr % 128 != 127
    | none => true) || !(s.rcbs.any fun e => e.1 == a)

/-- The nearest RCB on a region's path whose override bit for a group is set (R347). -/
def State.eff (s : State) (a bit : Nat) : Rcb :=
  match (s.rcbPath a 16).find? (fun r => r.ovr.testBit bit) with
  | some r => r
  | none => Rcb.zero

def State.effPrio (s : State) (a : Nat) : Nat := (s.eff a 0).prio
def State.effPreempt (s : State) (a : Nat) : Bool := (s.eff a 0).preempt
def State.effBudget (s : State) (a : Nat) : Nat := (s.eff a 1).budget
def State.effFdq (s : State) (a : Nat) : Nat := (s.eff a 2).fdq
def State.effTenant (s : State) (a : Nat) : Nat := (s.eff a 3).tenant
def State.effGrant (s : State) (a : Nat) : Nat := (s.eff a 4).grant
def State.effBgrant (s : State) (a : Nat) : Nat := (s.eff a 4).bgrant
def State.effFmincap (s : State) (a : Nat) : Nat := (s.eff a 4).fmincap
def State.effRoot (s : State) (a : Nat) : Nat := (s.eff a 5).ptroot
def State.effRunlim (s : State) (a : Nat) : Nat := (s.eff a 6).runlim
def State.effStalllim (s : State) (a : Nat) : Nat := (s.eff a 6).stalllim

/-- The launch of a tiller. -/
def State.launchOf (s : State) (tid : Nat) : Launch := s.launch (s.sheaf (s.tiller tid).sheaf).launch

/-- The RCB address of a tiller's region. -/
def State.regionOf (s : State) (tid : Nat) : Nat := (s.launchOf tid).pkt.region

/-- The page-table root of a tiller (R319, R346). -/
def State.rootOf (s : State) (tid : Nat) : Nat := s.effRoot (s.regionOf tid)

/-- The tenant of a tiller (R262, R346). -/
def State.tenantOf (s : State) (tid : Nat) : Nat := s.effTenant (s.regionOf tid)

/-- The RCB address of the root region, if the scheduler holds one. -/
def State.rootRegion (s : State) : Option Nat := (s.rcbs.find? fun e => e.2.parent == 0).map (·.1)

/-- The fields of a record (R326). -/
structure Rec where
  kind : Nat
  b2 : Nat
  engine : Nat
  core : Nat
  tiller : Nat
  rank : Nat
  region : Nat
  sheaf : Nat
  va : Nat
  time : Nat
  deriving DecidableEq, Repr

/-- The 32 bytes of a record (R326). -/
def Rec.bytes (r : Rec) : List Byte :=
  bytesOfNat r.kind 2 ++ bytesOfNat r.b2 1 ++ bytesOfNat r.engine 1 ++ bytesOfNat r.core 2 ++
  bytesOfNat (r.tiller % 16 + 16 * (r.rank % 4)) 1 ++ bytesOfNat 0 1 ++ bytesOfNat r.region 4 ++
  bytesOfNat r.sheaf 4 ++ bytesOfNat r.va 8 ++ bytesOfNat r.time 8

/-- A record listed among the turns after the records that already stand first: records go out in the order in which they are sent. -/
def addRecord (t : Turn) : List Turn → List Turn
  | [] => [t]
  | .record q bs :: rest => .record q bs :: addRecord t rest
  | .ev i :: rest => t :: .ev i :: rest
  | .tiller n :: rest => t :: .tiller n :: rest
  | .engine u :: rest => t :: .engine u :: rest

/-- A record posted to the fault queue of a region; nothing where the region is malformed or its queue is 0 (R346, R347, R349). -/
def State.post (s : State) (region : Nat) (r : Rec) : State :=
  if s.malformed region || s.effFdq region == 0 then s
  else { s with turns := addRecord (.record (s.effFdq region) r.bytes) s.turns }

/-- A record about a tiller: who it is, from its registers and its sheaf (R326). -/
def State.recOf (s : State) (tid kind b2 va time : Nat) : Rec :=
  let t := s.tiller tid
  { kind := kind, b2 := b2, engine := 0xFF, core := coreOf tid, tiller := t.num, rank := t.rank,
    region := (s.rcb (s.regionOf tid)).id, sheaf := (s.sheaf t.sheaf).index, va := va, time := time }

/-- A record about a tiller, sent to its region's fault domain. -/
def State.postTiller (s : State) (tid kind b2 va : Nat) : State :=
  s.post (s.regionOf tid) (s.recOf tid kind b2 va s.time)

/-- A record that concerns no sheaf, sent to the root's queue (R372). -/
def State.postRoot (s : State) (kind b2 va : Nat) : State :=
  match s.rootRegion with
  | none => s
  | some a => s.post a ⟨kind, b2, 0xFF, 0, 0, 0, (s.rcb a).id, 0, va, s.time⟩

end Sys2Proof.Machine
end

