-- ==== Sys2Proof/Machine/Power.lean ====
section
/-! DEFINITION. Cluster frequency (R191 to R193), power grants and the allowance (R194, R196, R198, R354), for the sheaves that a cluster holds. -/

namespace Sys2Proof.Machine

/-- Whether a sheaf holds its cluster's resources (R12). -/
def Sheaf.resident (h : Sheaf) : Bool :=
  match h.st with
  | .resident | .pending | .saving | .resuming => true
  | .waiting | .saved | .retired | .discarded => false

/-- The sheaves of a cluster, by number. -/
def State.residents (s : State) (cl : Nat) : List (Nat × Sheaf) :=
  s.sheaves.filter fun e => e.2.resident && e.2.cluster == cl

/-! ## Grants -/

/-- The power grant of a sheaf (R354). -/
def State.sheafGrant (s : State) (h : Sheaf) : Nat :=
  let p := (s.launch h.launch).pkt
  Nat.min p.maxPower (s.effGrant p.region)

/-- The boost grant of a sheaf (R354). -/
def State.sheafBoost (s : State) (h : Sheaf) : Nat :=
  let p := (s.launch h.launch).pkt
  Nat.min p.maxPower (s.effBgrant p.region)

/-- G of a set of sheaves, and their boost-window grant (R354). -/
def State.grantOf (s : State) (hs : List Sheaf) : Nat := hs.foldl (fun n h => Nat.max n (s.sheafGrant h)) 0
def State.windowGrantOf (s : State) (hs : List Sheaf) : Nat :=
  if hs.all fun h => (s.launch h.launch).pkt.boost then hs.foldl (fun n h => Nat.max n (s.sheafBoost h)) 0 else s.grantOf hs

/-- The grant in force for a cluster (R194, R198). -/
def State.clusterGrant (s : State) (cl : Nat) : Nat :=
  let hs := (s.residents cl).map (·.2)
  if s.pkg.boostOpen then s.windowGrantOf hs else s.grantOf hs

/-- The refill of one nanosecond, then the withhold level (R194, R196). -/
def State.refill (s : State) (cl : Nat) : State :=
  let g := s.clusterGrant cl
  let c := s.cluster cl
  let a := min (c.allow + 1000 * (g : Int)) (64000 * (g : Int))
  let w :=
    if (s.residents cl).isEmpty then 0
    else if a < 0 ∧ c.wlvl < 16 then c.wlvl + 1
    else if 32000 * (g : Int) ≤ a ∧ 0 < c.wlvl then c.wlvl - 1
    else c.wlvl
  s.setCluster cl { c with allow := a, wlvl := w, refills := c.refills + 1 }

/-! ## Frequency -/

/-- The minimum frequency a launch asks (R350). -/
def Packet.minMhz (p : Packet) : Nat := if p.minFreq = 0 then 600 else p.minFreq

/-- m of R192. -/
def State.minFreqOf (s : State) (cl : Nat) : Nat :=
  (s.residents cl).foldl (fun n e => Nat.max n (s.launch e.2.launch).pkt.minMhz) 600

/-- The target frequency (R191, R192). -/
def State.targetOf (s : State) (cl : Nat) : Nat :=
  let c := s.cluster cl
  Nat.min c.cap (Nat.max (600 + 25 * Nat.min c.base 60) (s.minFreqOf cl))

/-- A step toward the target begins where none is under way: a downward step takes the lower frequency at once (R193).
A target between two points of the FLL is reached at the higher one (log 30). -/
def Cluster.startStep (c : Cluster) (now : Nat) : Cluster :=
  if c.step ∨ (c.tgt ≤ c.cur ∧ c.cur < c.tgt + 25) then c
  else if c.cur < c.tgt then { c with step := true, up := true, stepEnd := now + 500 }
  else { c with step := true, up := false, cur := c.cur - 25, stepEnd := now + 250 }

/-- The end of a step, at which a new table's cap is taken (R193, R376). -/
def Cluster.endStep (c : Cluster) : Cluster :=
  { c with step := false, cur := if c.up then c.cur + 25 else c.cur, cap := c.capNext.getD c.cap, capNext := none }

/-- A frequency-shortfall record of a sheaf, once per placement (R192, R372). -/
def State.shortfall (s : State) (cap : Nat) (e : Nat × Sheaf) : State :=
  let p := (s.launch e.2.launch).pkt
  if cap < p.minMhz ∧ !e.2.shortfall then
    (s.setSheaf e.1 { e.2 with shortfall := true }).post p.region
      ⟨0x0009, 0, 0xFF, 4 * e.2.cluster, 0, 0, (s.rcb p.region).id, e.2.index, p.minMhz + 2 ^ 16 * cap, s.time⟩
  else s

/-- The target formed again at a time in nanoseconds, from which a step toward it counts, with the shortfall records it brings (R192, R193). -/
def State.retargetAt (s : State) (cl t : Nat) : State :=
  let c := s.cluster cl
  let s1 := s.setCluster cl ({ c with tgt := s.targetOf cl }.startStep t)
  (s1.residents cl).foldl (fun st e => st.shortfall c.cap e) s1

/-- The target formed again after a change. -/
def State.retarget (s : State) (cl : Nat) : State := s.retargetAt cl s.time

/-- CLKCTL written (R191). -/
def State.writeClkctl (s : State) (cl : Nat) (v : Nat) : State :=
  let c := s.cluster cl
  (s.setCluster cl { c with base := bits v 0 6, batchw := bits v 8 5 }).retarget cl

/-- CLKCTL (R191).
DESIGN CHOICE (log 103): a BASE of 61 to 63, which is taken as 60, reads back as it was written. -/
def Cluster.clkctl (c : Cluster) : Nat := c.base + 2 ^ 8 * c.batchw

end Sys2Proof.Machine
end

