-- ==== Sys2Proof/Machine/Scratch.lean ====
section
/-! DEFINITION. Scratchpad allocations (R203 to R208), barrier objects (R214 to R221), and what a write at a home slice does: watches (R222, R223), multicast entries (R286) and fault queues (R349). -/

namespace Sys2Proof.Machine

/-! ## Barrier objects -/

def barPhase (m : List Host.Cell) (o : Nat) : Word := readWord m o
def barExpArr (m : List Host.Cell) (o : Nat) : Nat := readNat m (o + 4) 2
def barArrived (m : List Host.Cell) (o : Nat) : Nat := readNat m (o + 6) 2
def barExpBytes (m : List Host.Cell) (o : Nat) : Nat := readNat m (o + 8) 4
def barLanded (m : List Host.Cell) (o : Nat) : Nat := readNat m (o + 12) 4

/-- Scopes as the numbers of R45: 0 .tl, 1 .wg, 2 .sh, 3 .dv, 4 .sy. An unmarked unit's hidden fields are .wg (R203). -/
def scopeWg : Nat := 1

def Wg.pScope (w : Wg) (o : Nat) : Nat := tget scopeWg w.pscope o
def Wg.lScope (w : Wg) (o : Nat) : Nat := tget scopeWg w.lscope o

/-- The check for completion after an arrival or a landing (R215, R216). -/
def Wg.checkComplete (w : Wg) (o : Nat) : Wg :=
  if barArrived w.bytes o = barExpArr w.bytes o ∧ barLanded w.bytes o = barExpBytes w.bytes o then
    let m1 := writeNat w.bytes o 4 (barPhase w.bytes o + 1).toNat
    let m2 := writeNat m1 (o + 6) 2 0
    let m3 := writeNat m2 (o + 8) 8 0
    { w with bytes := m3, lscope := tput w.lscope o (w.pScope o), pscope := tput w.pscope o scopeWg }
  else w

/-- An arrival at a scope, with bytes added to EXPBYTES: none where it overruns (R217, R218). -/
def Wg.arrive (w : Wg) (o scope add : Nat) : Option Wg :=
  if barExpArr w.bytes o ≤ barArrived w.bytes o then none
  else
    let m1 := writeNat w.bytes (o + 8) 4 ((barExpBytes w.bytes o + add) % 2 ^ 32)
    let m2 := writeNat m1 (o + 6) 2 (barArrived w.bytes o + 1)
    some ({ w with bytes := m2, pscope := tput w.pscope o (max (w.pScope o) scope) }.checkComplete o)

/-- A landing of `n` bytes at a scope (R221). -/
def Wg.land (w : Wg) (o scope n : Nat) : Wg :=
  let m1 := writeNat w.bytes (o + 12) 4 ((barLanded w.bytes o + n) % 2 ^ 32)
  { w with bytes := m1, pscope := tput w.pscope o (max (w.pScope o) scope) }.checkComplete o

/-- Whether an object's phase has passed a value (R219). -/
def phasePassed (phase v : Word) : Bool := Nat.ble 1 (phase - v).toNat && Nat.ble (phase - v).toNat 0x7FFFFFFF

/-- A tiller blocked in WAIT.b on an object of this workgroup whose phase has passed is marked to return (R219). -/
def Tiller.wake (w : Wg) (t : Tiller) : Tiller :=
  match t.block with
  | .waitB off v p none =>
    if phasePassed (barPhase w.bytes off) v then { t with block := .waitB off v p (some (w.lScope off)) } else t
  | .waitB .. | .none | .waitA .. | .fault .. => t

/-- A change in a scratchpad wakes a cluster that is in retention (R373). -/
def State.wakeCluster (s : State) (cl : Nat) : State :=
  if (s.cluster cl).ret then s.pushTurn (.ev (.retentionExit cl (Config.retentionLoss s.now cl))) else s

/-- A workgroup replaced, and its waiting tillers looked at again (R219). -/
def State.putWg (s : State) (i : Nat) (w : Wg) : State :=
  let s1 := (s.setWg i w).wakeCluster (clusterOf w.core)
  { s1 with tillers := s1.tillers.map fun e =>
      if e.2.live && wgOf e.2.sheaf e.2.rank == i then (e.1, e.2.wake w) else e }

/-- The workgroup of a tiller. -/
def State.wgIdOf (s : State) (tid : Nat) : Nat := wgOf (s.tiller tid).sheaf (s.tiller tid).rank

/-! ## Scratchpad accesses -/

/-- How a scratchpad access fails: the KIND of R206. -/
inductive SpadFault where
  | beyond
  | misaligned
  | rank
  | overrun
  deriving DecidableEq, Repr

def SpadFault.code : SpadFault → Nat
  | .beyond => 0
  | .misaligned => 1
  | .rank => 2
  | .overrun => 3

/-- The checks of R205 for one access: alignment, bounds, then rank (R206). -/
def spadCheck (spad off w : Nat) (rankOk : Bool) : Option SpadFault :=
  if off % w ≠ 0 then some .misaligned
  else if spad < off + w then some .beyond
  else if rankOk then none
  else some .rank

/-- Bytes written to an allocation (R207). -/
def State.spadWrite (s : State) (i : Nat) (cells : List Host.Cell) : State :=
  let w := s.wg i
  s.putWg i { w with bytes := writeCells w.bytes cells }

/-- An arrival by a watch or an engine (R218, R221): none where it overruns. -/
def State.arriveAt (s : State) (i off scope : Nat) : Option State :=
  ((s.wg i).arrive off scope 0).map fun w => s.putWg i w

/-- A watch's arrival at its barrier object, at .sy; an overrun is discarded and a record sent (R216, R218). -/
def State.watchArrive (s : State) (w : Watch) : State :=
  let t := s.tiller w.tid
  let s1 := s.setTiller w.tid { t with watches := t.watches.filter fun q => q != w.seq }
  match s1.arriveAt w.wg w.bar 4 with
  | some s2 => s2
  | none => s1.postTiller w.tid 0x000A 0 w.line

/-- Several watches' arrivals, in order. -/
def State.watchArrivals (s : State) : List Watch → State
  | [] => s
  | w :: rest => (s.watchArrive w).watchArrivals rest

/-! ## The snoop filter (R366) -/

/-- The partition of SFMAP entry k: its tenant, 0xFFFF where unassigned (R366, R368). -/
def Pkg.sfEntry (k : Pkg) (i : Nat) : Nat := tget 0xFFFF k.sfmap i

/-- The tenant of a line's contract, if it has one. -/
def State.lineTenant (s : State) (pa : Nat) : Option Nat := (s.contract pa).map fun e => e.2.tenant

/-- The partition of a line (R366). -/
def State.partOf (s : State) (pa : Nat) : Nat :=
  match s.lineTenant pa with
  | none => 0
  | some t =>
    match (List.range 64).find? fun k => s.pkg.sfEntry k == t && t != 0xFFFF with
    | some k => k
    | none => 0

/-- The tenant that an entry for a line records. -/
def State.entryTenant (s : State) (pa : Nat) : Nat := (s.lineTenant pa).getD 0

/-- What a device write finds in its line's partition: 0 nothing, 1 a match of its tenant, 2 a match of another tenant (R366). -/
def State.snoopMatch (s : State) (pa : Nat) : Nat :=
  let p := s.partOf pa
  match s.pkg.snoops.find? fun e => e.part == p && e.line == pa / 64 * 64 with
  | none => 0
  | some e => if e.tenant = s.entryTenant pa then 1 else 2

/-- The entry of a line leaves the filter. -/
def Pkg.unsnoop (k : Pkg) (part line : Nat) : Pkg :=
  { k with snoops := k.snoops.filter fun e => !(e.part == part && e.line == line) }

/-- A device write's look at the snoop filter: a line that the host holds is to be called back first, and a match of another tenant counts a probe (R366). -/
def State.recall (s : State) (line : Nat) : State :=
  if s.called line then { s with calls := addNew s.calls line }
  else
    match s.snoopMatch line with
    | 0 => s
    | 1 => { s with calls := addNew s.calls line }
    | _ => { s with pkg := { s.pkg with sfx := s.pkg.sfx + 1 } }

/-! ## Writes at a home -/

/-- Every watch armed on a line fires, and the line's multicast entry closes (R223, R286).
DESIGN CHOICE (log 95): the watches deliver their arrivals in the order in which they were armed. -/
def State.fireLine (s : State) (line : Nat) : State :=
  let n := s.home line
  let sl := s.slice n
  let hit := sl.watches.filter fun w => w.line == line
  let s1 := if hit.isEmpty && !(sl.mcast.any fun e => e.1 == line) then s
    else s.setSlice n { sl with
      watches := sl.watches.filter fun w => w.line != line
      mcast := sl.mcast.filter fun e => e.1 != line }
  s1.watchArrivals hit

/-- The lines of a list of cells, each once. -/
def linesOf (cells : List Host.Cell) : List Nat :=
  cells.foldl (fun ls c => addNew ls (c.1 / 64 * 64)) []

/-- Watches of several lines fire. -/
def State.fireLines (s : State) : List Nat → State
  | [] => s
  | l :: rest => (s.fireLine l).fireLines rest

/-- Bytes written at their homes, with what a write does there (R223, R286, R293). -/
def State.homePut (s : State) (cells : List Host.Cell) : State :=
  ({ s with mem := writeCells s.mem cells } : State).fireLines (linesOf cells)

/-- Whether a list of cells covers a line. -/
def coversLine (cells : List Host.Cell) (line : Nat) : Bool :=
  (List.range 64).all fun k => cells.any fun c => c.1 == line + k

/-- One line of a write of the device's own that has come to its home, before its bytes: its call-back, and its access at a slice (R254, R366). A write of every byte of a line repairs it. -/
def State.storeLine (s : State) (sl tenant src : Nat) (cells : List Host.Cell) (quiet last : Bool) (line : Nat) : State :=
  let full := coversLine cells line
  let s1 := ((s.recall line).homeAccess sl line tenant src (.write full) quiet last).2
  if full then { s1 with badLines := s1.badLines.filter fun l => l != line / 64 } else s1

/-- A write at the homes of its bytes, for a tenant and a source, by what has come to them (R223, R254, R293, R366). -/
def State.homeStoreHere (s : State) (tenant src : Nat) (cells : List Host.Cell) : State :=
  ((linesOf cells).foldl (fun st l => st.storeLine (st.home l) tenant src cells false false l) s).homePut cells

/-- A write that the device makes at the homes of its bytes: it waits where a contract changes (R259). -/
def State.homeStore (s : State) (tenant src : Nat) (cells : List Host.Cell) : State :=
  ((linesOf cells).foldl State.reach s).homeStoreHere tenant src cells

/-- A write of the device for no tiller: it counts as source 256. -/
def State.homeWrite (s : State) (cells : List Host.Cell) : State := s.homeStore 0 256 cells

/-- Bytes from an address on as cells. -/
def cellsAt (a : Nat) : List Byte → List Host.Cell
  | [] => []
  | b :: rest => (a, b) :: cellsAt (a + 1) rest

/-- A number of `n` bytes written at the home of its address. -/
def State.homeNat (s : State) (a n v : Nat) : State := s.homeWrite (cellsAt a (bytesOfNat v n))
/-- The same, as part of a request that its home serves. -/
def State.putNat (s : State) (a n v : Nat) : State := s.homePut (cellsAt a (bytesOfNat v n))

/-- SendRecord of R349, at the header's home slice, where its header is read. -/
def State.sendRecord (s0 : State) (q : Nat) (rec : List Byte) : State :=
  let s := ((s0.reach (q / 64 * 64)).homeAccess (s0.home q) q 0 256 (.fetch none) false false).2
  let lg := readNat s.mem q 4 % 32
  let cap := 2 ^ (if 4 ≤ lg ∧ lg ≤ 16 then lg else 4)
  let head := readNat s.mem (q + 4) 4
  let tail := readNat s.mem (q + 8) 4
  if cap ≤ (tail + 2 ^ 32 - head) % 2 ^ 32 then
    s.homeNat (q + 12) 4 ((readNat s.mem (q + 12) 4 + 1) % 2 ^ 32)
  else
    (s.homeWrite (cellsAt (q + 64 + 32 * (tail % cap)) rec)).homeNat (q + 8) 4 ((tail + 1) % 2 ^ 32)

end Sys2Proof.Machine
end

