-- ==== Sys2Proof/Machine/Cache.lean ====
section
/-! DEFINITION. The first-level cache of a core (R269 to R272), its codec queue (R101, R102, R111), line-request slots (R273) and the requests that go to the homes. -/

namespace Sys2Proof.Machine

/-! ## Energy (R195) -/

/-- A debit in picojoules from the allowance of a core's cluster (R195). -/
def State.debit (s : State) (core n : Nat) : State :=
  let cl := clusterOf core
  let c := s.cluster cl
  s.setCluster cl { c with allow := c.allow - n }

/-- The debit of lines moved into or out of a core (R195). -/
def State.debitLines (s : State) (core n : Nat) : State := s.debit core (600 * n)

/-! ## Lines -/

/-- The dirty bytes of a line, by offset. -/
def L1Line.dirtyBytes (l : L1Line) : List (Nat × Byte) :=
  l.cells.zipIdx.filterMap fun e =>
    match e.1 with
    | .dirty b => some (e.2, b)
    | .clean _ | .invalid => none

/-- The valid byte at an offset. -/
def L1Line.at (l : L1Line) (o : Nat) : Option Byte :=
  match lget .invalid l.cells o with
  | .dirty b | .clean b => some b
  | .invalid => none

/-- The line's bytes after a write-back (R269). -/
def L1Byte.cleaned : L1Byte → L1Byte
  | .dirty b => .clean b
  | .clean b => .clean b
  | .invalid => .invalid

/-- A byte whose clean copy is invalidated (R269). -/
def L1Byte.dropClean : L1Byte → L1Byte
  | .dirty b => .dirty b
  | .clean _ | .invalid => .invalid

def L1Byte.isInvalid : L1Byte → Bool
  | .invalid => true
  | .clean _ | .dirty _ => false

/-- Lines with the clean bytes of those that satisfy a test invalidated; lines left empty are dropped (R269). -/
def dropCleanLines (p : L1Line → Bool) (ls : List L1Line) : List L1Line :=
  (ls.map fun l => if p l then { l with cells := l.cells.map L1Byte.dropClean } else l).filter fun l =>
    !(l.cells.all L1Byte.isInvalid)

/-- The line of a key in a core's cache. -/
def Core.l1find (c : Core) (k : LKey) : Option L1Line := c.l1.find? fun l => l.key == k

/-- A cache without the line of a key. -/
def Core.l1del (c : Core) (k : LKey) : Core := { c with l1 := c.l1.filter fun l => l.key != k }

/-- The set of a line (R101, R269). -/
def LineRef.setOf (r : LineRef) : Nat := if r.coded then r.va / 64 % 256 else r.key.base / 64 % 256

/-- A line with no valid byte. -/
def LineRef.blank (r : LineRef) (tid now : Nat) : L1Line :=
  ⟨r.key, r.setOf, List.replicate 64 .invalid, r.attr, r.crid, tid, now, r.va⟩

/-! ## Blocks of coded pages -/

/-- The 128 logical bytes of a block as its backing stands (R97). -/
def State.blockLogical (s : State) (base rate : Nat) : List Byte :=
  bytesOf64s (decodeBlock rate (readBytes s.mem base (2 * rate)))

/-- Whether a block's backing bytes stand under an uncorrectable error. -/
def State.blockBad (s : State) (base rate : Nat) : Bool := s.bad base || s.bad (base + 2 * rate - 1)

/-- Whether a block is held (R106). -/
def State.blockHeld (s : State) (base : Nat) : Bool := s.slices.any fun x => x.2.held.contains base

/-- A block held from now on (R106). -/
def State.hold (s : State) (base : Nat) : State :=
  let x := s.slice (s.home base)
  s.setSlice (s.home base) { x with held := addNew x.held base }

/-- A block struck by an uncorrectable error under its lock: it is held, and the `n` bytes that were to be written are lost, with a record to the region of the tiller, and from the engine, that caused the write (R106, R372). -/
def State.strikeBlock (s : State) (base va n cause engine : Nat) : State :=
  let s1 := s.hold base
  s1.post (s1.regionOf cause) { s1.recOf cause 0x0004 n (va / 128 * 128) base with engine := engine }

/-- The same, where the device writes for no tiller: the record goes to the root (R372, log 45). -/
def State.strikeRoot (s : State) (base va n : Nat) : State :=
  let s1 := s.hold base
  match s1.rootRegion with
  | none => s1
  | some a => s1.post a ⟨0x0004, n, 0xFF, 0, 0, 0, (s1.rcb a).id, 0, va / 128 * 128, base⟩

/-- Bytes written over a list at their offsets. -/
def overlay (bs : List Byte) (w : List (Nat × Byte)) : List Byte := w.foldl (fun l e => lset l e.1 e.2) bs

/-- A number of `n` bytes that a codec writes at the home of its address, for a tenant and a core. -/
def State.codecNat (s : State) (tenant core a n v : Nat) : State := s.homeStoreHere tenant core (cellsAt a (bytesOfNat v n))

/-- UpdateRecord of R108: one update at the record's home slice (R109). -/
def State.updateRecord (s : State) (tenant core crid rate : Nat) (vals : List Nat) : State :=
  if s.crtbase % 2 = 0 then s
  else
    let r := s.crtbase / 4096 * 4096 + 32 * crid
    let loss := blockLoss rate vals
    let s1 := s.codecNat tenant core r 8 ((readNat s.mem r 8 + 1) % 2 ^ 64)
    if loss.lossy then
      let old : BitVec 16 := bv 16 (readNat s.mem (r + 24) 2)
      let new : BitVec 16 := BitVec.ofInt 16 loss.drop
      let s2 := s1.codecNat tenant core (r + 8) 8 ((readNat s.mem (r + 8) 8 + 1) % 2 ^ 64)
      let s3 := s2.codecNat tenant core (r + 24) 2 (if old.slt new then new.toNat else old.toNat)
      let sum := (fp64.num (readNat s.mem (r + 16) 8)).add .rup (fp64.num loss.bound)
      s3.codecNat tenant core (r + 16) 8 (fp64.ofNum .rup sum.1).1
    else s1

/-- The class-3 cycles that the locked sequence of R102 takes as the block stands: two for an encode, two for a decode (R111). -/
def State.codedCost (s : State) (base rate : Nat) (dirty : List (Nat × Byte)) : Nat :=
  let old := s.blockLogical base rate
  if Nat.ble 128 dirty.length || overlay old dirty == old then 2 else 4

/-- Bytes of a coded block's backing written at the block's home (R91, R102). -/
def State.backingWrite (s : State) (tenant core base : Nat) (cells : List Host.Cell) (quiet last : Bool) : State :=
  ((linesOf cells).foldl (fun st l => st.storeLine (st.home base) tenant core cells quiet last l) s).homePut cells

/-- What the locked sequence of R102 writes for dirty bytes of a block, with the class-3 cycles it takes (R111); `quiet` and `last` are as for an access at the home. -/
def State.codedWrite (s : State) (tenant core base rate crid : Nat) (dirty : List (Nat × Byte)) (quiet last : Bool) : State × Nat :=
  let full := Nat.ble 128 dirty.length
  let old := s.blockLogical base rate
  let new := overlay old dirty
  if !full && new == old then (s, 2)
  else
    let vals := s64OfBytes 16 new
    let s1 := s.backingWrite tenant core base (cellsAt base (encodeBlock rate vals)) quiet last
    (s1.updateRecord tenant core crid rate vals, if full then 2 else 4)

/-! ## Sending -/

/-- A request put on its way to the home of its line; its number is `fresh`. -/
def State.sendReq (s : State) (core tid : Nat) (fl : Option Nat) (key : LKey) (pa : Nat) (op : ReqOp) : State :=
  { s with
    transit := s.transit ++ [⟨s.fresh, core, tid, fl, key, pa, op, s.tenantOf tid, 0⟩]
    fresh := s.fresh + 1 }

/-- A job at the end of a core's codec queue (R111). -/
def State.pushJob (s : State) (core : Nat) (j : CodecJob) : State :=
  let c := s.core core
  s.setCore core { c with jobs := c.jobs ++ [j] }

/-- The dirty bytes of a coded line, by their offsets in its block (R101). -/
def L1Line.blockDirty (l : L1Line) : List (Nat × Byte) := l.dirtyBytes.map fun e => (e.1 + 64 * l.key.h, e.2)

/-- The other line of a coded line's block (R101). -/
def LKey.other (k : LKey) : LKey := { k with h := 1 - k.h }

/-- The dirty bytes of the other line of a coded line's block, in a core's cache. -/
def Core.otherDirty (c : Core) (k : LKey) : List (Nat × Byte) :=
  match c.l1find k.other with
  | some o => o.blockDirty
  | none => []

/-- A cache with the bytes of the lines that satisfy a test clean (R269). -/
def Core.cleanLines (c : Core) (p : L1Line → Bool) : Core :=
  { c with l1 := c.l1.map fun l => if p l then { l with cells := l.cells.map L1Byte.cleaned } else l }

/-- The dirty bytes of a line sent to the home, under the number `fresh` (R269); a coded block goes as one write-back, with the dirty bytes of both its lines (R102), for the tiller, and the engine where a range walker makes it, whose access, release or command causes it (R106, R326).
DESIGN CHOICE (log 48): each of the block's lines that has dirty bytes is a line moved out of the core, whatever the lines of its backing.
The write-backs that the 64-entry queue of R270 does not hold wait behind it in the order in which they are sent (log 13). -/
def State.writeBack (s : State) (core cause engine : Nat) (l : L1Line) : State :=
  if l.key.rate = 0 then (s.debitLines core 1).sendReq core l.writer none l.key l.key.base (.write l.dirtyBytes false)
  else
    let o := (s.core core).otherDirty l.key
    let s1 := s.debitLines core (if o.isEmpty then 1 else 2)
    let s2 := s1.setCore core ((s1.core core).cleanLines fun x => x.key == l.key.other)
    { s2 with fresh := s2.fresh + 1 }.pushJob core { CodecJob.of (.write s2.fresh none (l.blockDirty ++ o) cause) l.key.base l.key.rate l.crid l.va l.attr with engine := engine }

/-- The same, where a line has dirty bytes. -/
def State.writeBackIf (s : State) (core cause : Nat) (l : L1Line) : State :=
  if l.dirtyBytes.isEmpty then s else s.writeBack core cause 0xFF l

/-- The write-back of the line of a key as the cache now holds it. -/
def State.writeBackKey (s : State) (core cause : Nat) (k : LKey) : State :=
  match (s.core core).l1find k with
  | some l => s.writeBackIf core cause l
  | none => s

/-- The write-backs of lines that satisfy a test, in the order the cache lists them; their lines stay, clean (R270). They are caused by a tiller, or, where none makes them, by the tiller that last wrote each line (R106, log 45). -/
def State.writeBackAll (s : State) (core : Nat) (cause : Option Nat) (p : L1Line → Bool) : State :=
  (s.core core).l1.foldl (fun st l =>
    if p l then
      let s1 := st.writeBackKey core (cause.getD l.writer) l.key
      s1.setCore core ((s1.core core).cleanLines fun x => x.key == l.key)
    else st) s

/-- A line put into the cache, the least recently used of a full set leaving with a write-back of its dirty bytes (R269). `lru` makes it the least recent itself (R272). -/
def State.l1Put (s : State) (core cause : Nat) (l : L1Line) (lru : Bool) : State :=
  let c := (s.core core).l1del l.key
  let inSet := c.l1.filter fun x => x.set == l.set
  let place (c : Core) : Core := { c with l1 := if lru then l :: c.l1 else c.l1 ++ [l] }
  match inSet with
  | v :: _ =>
    if Nat.ble 16 inSet.length then
      let s1 := (s.setCore core (c.l1del v.key)).writeBackIf core cause v
      s1.setCore core (place (s1.core core))
    else s.setCore core (place c)
  | [] => s.setCore core (place c)

/-- Bytes stored into the cache: they become valid and dirty, and an absent line is allocated without a fetch (R269). -/
def State.l1Store (s : State) (tid : Nat) (r : LineRef) (w : List (Nat × Byte)) (last : Bool) : State :=
  let core := coreOf tid
  let l := match (s.core core).l1find r.key with
    | some l => l
    | none => r.blank tid s.now
  let fresh := w.any fun e =>
    match lget .invalid l.cells e.1 with
    | .dirty _ => false
    | .clean _ | .invalid => true
  s.l1Put core tid { l with
    attr := r.attr
    cells := w.foldl (fun cs e => lset cs e.1 (.dirty e.2)) l.cells
    writer := tid
    since := if fresh then s.now else l.since } last

/-- A line's bytes as fetched, filled in where the line is not dirty (R269). -/
def State.l1Fill (s : State) (core tid : Nat) (r : LineRef) (data : List Byte) (last : Bool) : State :=
  let l := match (s.core core).l1find r.key with
    | some l => l
    | none => r.blank tid s.now
  s.l1Put core tid { l with
    attr := r.attr
    cells := l.cells.zipIdx.map fun e =>
      match e.1 with
      | .dirty b => .dirty b
      | .clean _ | .invalid => .clean (lget 0 data e.2) } last

/-- The write-back and invalidation that .byp, atomics and uncached accesses make of their line (R272, R279). -/
def State.purgeLine (s : State) (core cause : Nat) (k : LKey) : State :=
  match (s.core core).l1find k with
  | none => s
  | some l => ((s.setCore core ((s.core core).l1del k))).writeBackIf core cause l

/-- The acquire of R213: clean bytes of every line of a page that is not PRIVATE. -/
def State.acquireL1 (s : State) (core : Nat) : State :=
  let c := s.core core
  s.setCore core { c with l1 := dropCleanLines (fun l => l.attr != 1) c.l1 }

/-- The bytes of a line with the dirty bytes a core's cache holds laid over it (R294). -/
def Core.overDirty (c : Core) (k : LKey) (data : List Byte) : List Byte :=
  match c.l1find k with
  | some l => overlay data l.dirtyBytes
  | none => data

/-- The requests of a core to a line that have not performed at its home, in the order in which they were sent: on a link or waiting for the host, in the queue of the slice, and on their way to it. -/
def State.onTheWay (s : State) (core : Nat) (k : LKey) : List Req :=
  ((s.links.map (·.req)) ++ (s.slice (s.home k.base)).queue ++ s.transit).filter fun r => r.src == core && r.key == k

/-- The write-backs of a core to a line that are still on their way, laid over the line's bytes in order: what its L1 has written stays visible to the core (R289, R293). -/
def State.overPending (s : State) (core : Nat) (k : LKey) (data : List Byte) : List Byte :=
  (s.onTheWay core k).foldl (fun d r =>
    match r.flight, r.op with
    | none, .write w _ => overlay d w
    | some _, .write .. | _, .read .. | _, .param _ | _, .atomic .. | _, .watch _ | _, .prefGr => d) data

/-- Whether an operation of a core has yet to send a store or an atomic to a line, for want of a slot (R273). -/
def State.storeUnsent (s : State) (core : Nat) (k : LKey) : Bool :=
  s.flights.any fun e => e.2.core == core && e.2.parts.any fun p => p.key == k && p.st == .unsent &&
    (match p.op with
    | .write .. | .atomic .. => true
    | .read .. | .param _ | .watch _ | .prefGr => false)

/-- Whether a store or an atomic of a core to a line is to be sent, or is on its way to the home: no fill that was sent before it installs the line (R279, R289). -/
def State.storePending (s : State) (core : Nat) (k : LKey) : Bool :=
  s.storeUnsent core k || (s.onTheWay core k).any fun r =>
    match r.flight, r.op with
    | some _, .write .. | _, .atomic .. => true
    | none, .write .. | _, .read .. | _, .param _ | _, .watch _ | _, .prefGr => false

/-! ## Outstanding operations -/

def State.flight (s : State) (id : Nat) : Flight := tget Flight.blank s.flights id
def State.setFlight (s : State) (id : Nat) (f : Flight) : State := { s with flights := tput s.flights id f }
def State.delFlight (s : State) (id : Nat) : State := { s with flights := tdel s.flights id }

/-- A new outstanding operation, numbered `fresh`. -/
def State.addFlight (s : State) (f : Flight) : State :=
  { s with flights := tput s.flights s.fresh f, fresh := s.fresh + 1 }

/-- An operation or write-back that has performed: no fence or release that stands below a scope waits for it any more (R213). -/
def State.performed (s : State) (id below : Nat) : State :=
  { s with flights := s.flights.map fun e =>
      match e.2.kind with
      | .fence _ sc | .hold sc => if Nat.blt sc below then (e.1, { e.2 with waits := e.2.waits.filter fun w => w != id }) else e
      | .result _ | .load .. | .remote .. | .ldp .. | .atomic .. | .vrst .. | .vtag _ | .store | .spadStore .. | .pref | .watch | .sys .. => e }

/-- Whether an operation is that of a SYS instruction (R352). -/
def FlightKind.isSys : FlightKind → Bool
  | .sys .. => true
  | .result _ | .load .. | .remote .. | .ldp .. | .atomic .. | .vrst .. | .vtag _ | .store | .spadStore .. | .fence .. | .pref | .watch | .hold _ => false

/-- Whether a kind's lines take line-request slots (R273); a parameter-cache fill takes none. -/
def FlightKind.usesSlots : FlightKind → Bool
  | .load .. | .atomic .. | .vrst .. | .vtag _ | .store | .pref | .watch => true
  | .result _ | .remote .. | .ldp .. | .spadStore .. | .fence .. | .sys .. | .hold _ => false

/-- Whether a line holds its slot (R273). -/
def LineSt.holds : LineSt → Bool
  | .sent | .bank | .codec => true
  | .unsent | .done => false

/-- The slots an operation holds. -/
def Flight.slots (f : Flight) : Nat :=
  if f.kind.usesSlots then (f.parts.filter fun p => p.st.holds).length else 0

/-- The slots held by the tillers that satisfy a test. -/
def State.slotsHeld (s : State) (p : Nat → Bool) : Nat :=
  s.flights.foldl (fun n e => if p e.2.tid then n + e.2.slots else n) 0

/-- REQCAP as it is taken (R274). -/
def capOf (n : Nat) : Nat := if n = 0 then 1 else if 64 < n then 64 else n

/-- Whether a tiller can take a slot (R273). -/
def State.slotFree (s : State) (tid : Nat) : Bool :=
  Nat.blt (s.slotsHeld fun t => t == tid) (capOf (s.tiller tid).reqCap) &&
  Nat.blt (s.slotsHeld fun t => t / 16 == tid / 16) 64 &&
  Nat.blt (s.slotsHeld fun t => coreOf t == coreOf tid) 256

def Flight.setPart (f : Flight) (n : Nat) (p : Part) : Flight := { f with parts := lset f.parts n p }

/-- The blocks that a job decodes and does not write, by base and rate. -/
def CodecJob.reads (j : CodecJob) : List (Nat × Nat) :=
  match j.kind with
  | .decode .. => [(j.base, j.rate)]
  | .engine _ reads _ _ | .device _ reads _ => reads
  | .busy | .write .. => []

/-- The blocks that a job writes, by base and rate: it holds their locks while it runs (R102, R105). -/
def CodecJob.writes (j : CodecJob) : List (Nat × Nat) :=
  match j.kind with
  | .write .. => [(j.base, j.rate)]
  | .engine _ _ writes _ | .device _ _ writes => writes
  | .decode .. | .busy => []

/-- The blocks that a job reads or writes. -/
def CodecJob.blocks (j : CodecJob) : List (Nat × Nat) := j.reads ++ j.writes

/-- Lets a decode that the codec has queued for a block serve one more operation; none where a later job of the block stands in between (R101). -/
def joinDecode (base rate id : Nat) (install : Bool) (jobs : List CodecJob) : Option (List CodecJob) :=
  match (jobs.zipIdx.filter fun e => e.1.blocks.contains (base, rate)).getLast? with
  | some (j, n) =>
    (match j.kind with
    | .decode fs inst => some (lset jobs n { j with kind := .decode (addNew fs id) (inst || install) })
    | .write .. | .engine .. | .device .. | .busy => none)
  | none => none

/-- Whether the codec has the sequence of an operation for a block, which carries all the operation's bytes of the block (R102). -/
def hasWrite (base rate id : Nat) (jobs : List CodecJob) : Bool :=
  jobs.any fun j => j.base == base && j.rate == rate &&
    (match j.kind with
    | .write _ (some f) _ _ => f == id
    | .write _ none _ _ | .decode .. | .engine .. | .device .. | .busy => false)

/-- The bytes that an operation stores into a block, by their offset in it. -/
def Flight.blockBytes (f : Flight) (base rate : Nat) : List (Nat × Byte) :=
  f.parts.flatMap fun p =>
    if p.key.base == base && p.key.rate == rate then
      (match p.op with
      | .write w _ => w.map fun e => (e.1 + 64 * p.key.h, e.2)
      | .read .. | .param _ | .atomic .. | .watch _ | .prefGr => [])
    else []

/-- Whether a line that is sent moves into or out of its core (R195): a watch and a PREF.gr move none. -/
def ReqOp.moves : ReqOp → Bool
  | .watch _ | .prefGr => false
  | .read .. | .param _ | .write .. | .atomic .. => true

/-- Whether a line is written back and invalidated in the issuing L1 as it is sent: for a read that goes past the L1, a store, and an atomic (R272, R279). -/
def ReqOp.purges : ReqOp → Bool
  | .read false false _ | .write .. | .atomic .. => true
  | .read true _ _ | .read false true _ | .param _ | .watch _ | .prefGr => false

/-- Sends one line of an operation to where it is served: the home, or the codec for a coded line (R100, R273). The first line of a block that an instruction stores to makes the block's one sequence (R102). -/
def State.sendPart (s00 : State) (id : Nat) (f : Flight) (n : Nat) (p : Part) : State :=
  let s0 := if p.op.purges then s00.purgeLine f.core f.tid p.key else s00
  let s := if p.op.moves then s0.debitLines f.core 1 else s0
  if p.key.rate = 0 then
    (s.setFlight id (f.setPart n { p with st := .sent })).sendReq f.core f.tid (some id) p.key p.pa p.op
  else
    let s1 := s.setFlight id (f.setPart n { p with st := .codec })
    let job (k : CodecKind) : CodecJob := .of k p.key.base p.key.rate p.crid p.va p.attr
    let jobs := (s1.core f.core).jobs
    match p.op with
    | .write _ _ =>
      if hasWrite p.key.base p.key.rate id jobs then s1
      else { s1 with fresh := s1.fresh + 1 }.pushJob f.core (job (.write s1.fresh (some id) (f.blockBytes p.key.base p.key.rate) f.tid))
    | .read install _ _ =>
      (match joinDecode p.key.base p.key.rate id install jobs with
      | some js => s1.setCore f.core { s1.core f.core with jobs := js }
      | none => s1.pushJob f.core (job (.decode [id] install)))
    | .param _ => s1.pushJob f.core (job (.decode [id] false))
    | .prefGr => (s.setFlight id (f.setPart n { p with st := .sent })).sendReq f.core f.tid (some id) p.key p.pa p.op
    | .atomic .. | .watch _ => s1

/-- Sends the unsent lines of an operation in ascending order while slots are free; `n` is the place reached (R273). -/
def State.sendParts (s : State) (id n : Nat) : List Part → State
  | [] => s
  | p :: rest =>
    match p.st with
    | .unsent =>
      let f := s.flight id
      if !f.kind.usesSlots || s.slotFree f.tid then (s.sendPart id f n p).sendParts id (n + 1) rest
      else s
    | .sent | .bank | .codec | .done => s.sendParts id (n + 1) rest

/-- Sends what the slots now allow for every operation of a core, the oldest first (R273). -/
def State.sendAll (s : State) (core : Nat) : State :=
  s.flights.foldl (fun st e =>
    if e.2.core == core && (e.2.parts.any fun p => p.st == .unsent) then st.sendParts e.1 0 (st.flight e.1).parts else st) s

/-- A new operation whose lines are sent as slots allow. -/
def State.startFlight (s : State) (f : Flight) : State :=
  let id := s.fresh
  (s.addFlight f).sendParts id 0 f.parts

/-- Whether a tiller is parked because an instruction's lines are not all sent (R273). -/
def State.unsent (s : State) (tid : Nat) : Bool :=
  s.flights.any fun e => e.2.tid == tid && (e.2.parts.any fun p => p.st == .unsent)

/-- The lines of an operation that satisfy a test are done, with their bytes; freed slots let others be sent. -/
def State.endParts (s : State) (id : Nat) (p : Part → Bool) (data : Part → List Byte) (err held : Bool) : State :=
  match tfind s.flights id with
  | none => s
  | some f =>
    let f1 := { f with parts := f.parts.map fun x => if p x then { x with st := .done, data := data x, err := err, held := held } else x }
    let s1 := s.setFlight id f1
    let s2 := if f1.parts.all (fun x => x.st == .done) then
        (match f1.kind with
        | .pref | .watch => s1.delFlight id
        | .result _ | .load .. | .remote .. | .ldp .. | .atomic .. | .vrst .. | .vtag _ | .store | .spadStore .. | .fence .. | .sys .. | .hold _ => s1)
      else s1
    s2.sendAll f.core

/-- A line of an operation that has been served. -/
def State.partDone (s : State) (id : Nat) (k : LKey) (data : List Byte) (err held : Bool) : State :=
  s.endParts id (fun x => x.key == k && x.st.holds) (fun _ => data) err held

/-- The sequence of a store to a block has performed: all its lines of the block are done (R102). -/
def State.blockDone (s : State) (id base rate : Nat) (err held : Bool) : State :=
  s.endParts id (fun x => x.key.base == base && x.key.rate == rate) (fun _ => []) err held

/-! ## The codec's queue and its locks (R103, R111) -/

/-- The distance of a source after the round-robin pointer, among the 256 cores and the host's 256 (R254). -/
def afterPtr (ptr src : Nat) : Nat := (src + 257 - (ptr + 1) % 257) % 257

/-- Whether a block's lock is free for a core: no codec holds it (R103). -/
def State.unlocked (s : State) (base : Nat) : Bool := !((s.slice (s.home base)).locks.any fun e => e.1 == base)

/-- Whether another core's codec comes before this one for a lock: the oldest request first, and of equal ones in round-robin order (R103). -/
def State.lockAfter (s : State) (core : Nat) (bases : List (Nat × Nat)) (at0 : Nat) : Bool :=
  s.cores.any fun e => e.1 != core &&
    (match e.2.jobs with
    | j :: _ =>
      !j.started && j.writes.any fun b => bases.contains b &&
        (match j.touched with
        | some t => Nat.blt t at0 || (t == at0 && Nat.blt (afterPtr (s.slice (s.home b.1)).rr e.1) (afterPtr (s.slice (s.home b.1)).rr core))
        | none => false)
    | [] => false)

/-- Whether the job at the head of a core's codec may start: it has asked for its lines, they have come from HBM, no call-back holds them (R366), and the locks that concern it are free (R103). -/
def State.jobReady (s : State) (core : Nat) (j : CodecJob) : Bool :=
  match j.touched with
  | none => false
  | some at0 => (j.blocks.all fun b => s.unlocked b.1 && (linesFrom b.1 (2 * b.2)).all fun l => !s.bankBusy l && !s.called l) && !s.lockAfter core j.writes at0

/-- The class-3 cycles that a job needs as it starts (R111). -/
def State.jobCost (s : State) (j : CodecJob) : Nat :=
  match j.kind with
  | .decode .. => 2
  | .busy | .engine .. | .device .. => j.left
  | .write _ _ d _ => s.codedCost j.base j.rate d

/-- The tiller of a chain that an engine runs. -/
def State.chainTid (s : State) (u : Nat) : Nat :=
  match (tget Engine.reset s.engines u).chain with
  | some c => c.tid
  | none => 0

/-- The tiller that a job works for. -/
def State.jobTid (s : State) (j : CodecJob) : Nat :=
  match j.kind with
  | .decode fs _ => (s.flight (fs.headD 0)).tid
  | .write _ _ _ cause => cause
  | .engine u _ _ _ | .device (.engine u) _ _ => s.chainTid u
  | .device (.tiller tid) _ _ => tid
  | .device (.ev _) _ _ | .device (.record ..) _ _ | .busy => 0

/-- The tenant of a job's accesses (R262). -/
def State.jobTenant (s : State) (j : CodecJob) : Nat :=
  match j.kind with
  | .decode .. | .write .. | .engine .. | .device (.engine _) _ _ | .device (.tiller _) _ _ => s.tenantOf (s.jobTid j)
  | .device (.ev _) _ _ | .device (.record ..) _ _ | .busy => 0

/-- Whether a read that a decode serves carries the .last hint for a line of its block that a test names (R272). -/
def State.lastHint (s : State) (fs : List Nat) (p : LKey → Bool) : Bool :=
  fs.any fun id => (s.flight id).parts.any fun q => p q.key && q.st == .codec &&
    (match q.op with
    | .read _ _ last => last
    | .param _ | .write .. | .atomic .. | .watch _ | .prefGr => false)

/-- Whether some operation that a decode serves is an L1 fill or a load, and not a fill of the parameter cache (R286). -/
def State.servesLoad (s : State) (fs : List Nat) : Bool :=
  fs.any fun id => (s.flight id).parts.any fun q => q.st == .codec &&
    (match q.op with
    | .read .. => true
    | .param _ | .write .. | .atomic .. | .watch _ | .prefGr => false)

/-- The blocks whose lines a job reads at their homes, with what each read is there: a write-back reads its block unless it writes all of it (R102). -/
def State.jobAsks (s : State) (j : CodecJob) : List ((Nat × Nat) × HomeUse) :=
  match j.kind with
  | .decode fs _ => [((j.base, j.rate), if s.servesLoad fs then .read else .fetch none)]
  | .write _ _ d _ => if Nat.ble 128 d.length then [] else [((j.base, j.rate), .fetch none)]
  | .engine _ reads _ parts => (reads.map fun b => (b, .read)) ++ parts.map fun b => (b, .fetch none)
  | .device _ reads writes => (reads ++ writes).map fun b => (b, .fetch none)
  | .busy => []

/-- Whether a job's lines are made the least recently used of their contract: for the .last hint, or HINT 3 (R272, R304). -/
def State.jobLast (s : State) (j : CodecJob) : Bool :=
  match j.kind with
  | .decode fs _ => s.lastHint fs fun k => k.base == j.base && k.rate == j.rate
  | .write .. | .engine .. | .device .. | .busy => j.hint == 3

/-- A job of a core's codec, at a place of its queue, asks for its lines. -/
def State.askJob (s : State) (core n : Nat) (j : CodecJob) : State :=
  let s1 := (s.jobAsks j).foldl (fun st b =>
    st.homeRange (st.home b.1.1) b.1.1 (2 * b.1.2) (s.jobTenant j) core b.2 (j.hint == 1) (s.jobLast j)) s
  s1.setCore core { s1.core core with jobs := lset (s1.core core).jobs n { j with touched := some s.now } }

/-- Whether a change of contract or a call-back holds a line of a job (R259, R366). -/
def State.jobDetained (s : State) (j : CodecJob) : Bool :=
  j.blocks.any fun b => (linesFrom b.1 (2 * b.2)).any fun l => s.called l || s.heldRange l

/-- The jobs of a core's codec ask for their lines, each as soon as nothing holds them and those before it have asked (R259, R265, R366). -/
def State.askJobs (s : State) (core n : Nat) : List CodecJob → State
  | [] => s
  | j :: rest =>
    if j.touched.isSome then s.askJobs core (n + 1) rest
    else if s.jobDetained j then s
    else (s.askJob core n j).askJobs core (n + 1) rest

/-- The locks of a job taken for a core, all at once (R103). -/
def State.takeLocks (s : State) (core : Nat) (bs : List (Nat × Nat)) : State :=
  bs.foldl (fun st b =>
    let x := st.slice (st.home b.1)
    st.setSlice (st.home b.1) { x with locks := x.locks ++ [(b.1, core)] }) s

/-- The jobs of a core's codec ask for their lines, and the one at the head starts once it may, taking its locks (R103, R111). -/
def State.startHead (s0 : State) (core : Nat) : State :=
  let s := s0.askJobs core 0 (s0.core core).jobs
  match (s.core core).jobs with
  | [] => s
  | j :: rest =>
    if j.started || !s.jobReady core j then s
    else (s.setCore core { s.core core with jobs := { j with left := s.jobCost j, started := true } :: rest }).takeLocks core j.writes

/-- The job at the head of a core's codec leaves it, its locks free, and the next may start (R103, R111). -/
def State.popJob (s : State) (core : Nat) : State :=
  let c := s.core core
  let s1 : State := { s with slices := s.slices.map fun (e : Nat × Slice) => (e.1, { e.2 with locks := e.2.locks.filter fun x => x.2 != core }) }
  (s1.setCore core { c with jobs := c.jobs.drop 1 }).startHead core

/-- A class-3 cycle of the job at the head of a core's codec. -/
def Core.tickHead (c : Core) : Core :=
  match c.jobs with
  | j :: rest => { c with jobs := { j with left := j.left - 1 } :: rest }
  | [] => c

/-- The codec's queue after a cycle of a class: one of its head's class-3 cycles has passed, or its head may start (R111). -/
def State.tickJobs (s : State) (core cls : Nat) : State :=
  let c := s.core core
  match c.jobs with
  | [] => s
  | j :: _ => (if j.started && cls == 3 then s.setCore core c.tickHead else s).startHead core

end Sys2Proof.Machine
end

