-- ==== Sys2Proof/Machine/Device.lean ====
section
/-! DEFINITION. The device's own 16-byte accesses: spill entries (R175) and frames (R340, R341), read and written through translation by the device and not by an instruction. -/

namespace Sys2Proof.Machine

/-- How a device access ends when it does not go through: a fault of its translation, or a data error, with the logical address of the line, or of the block where it is held (R330). -/
inductive DevFault where
  | acc (f : AccFault) (va : Nat)
  | data (va : Nat) (held : Bool)
  deriving DecidableEq, Repr

/-- A line as an access of `w` bytes at an address may use it: the control space only by the steward and in 4 or 8 bytes (R368), a coded page only where the access allows it (R110). -/
def State.mayUse (s : State) (tid w va : Nat) (codedOk : Bool) (r : LineRef) : Except AccFault LineRef :=
  if r.coded && !codedOk then .error .coded
  else
    match physKind r.pa with
    | .control =>
      if !(s.tiller tid).steward then .error (.phys (r.pa + va % 64) false)
      else if w = 4 ∨ w = 8 then .ok r else .error .misaligned
    | .hbm _ | .granary | .peer _ | .host | .hole => .ok r

/-- The line of a device access of a tiller, of `w` bytes: a link that is down is a data error (R365), and what the core has sent to the same peer goes before it (R367). -/
def State.devLine (s : State) (tid w va : Nat) (acc : Access) : Except DevFault LineRef × State :=
  match s.translate (coreOf tid) (slotOf tid) (s.tenantOf tid) (s.rootOf tid) va acc with
  | (.error f, s1) => (.error (.acc f va), s1)
  | (.ok r, s1) =>
    match s1.mayUse tid w va true r with
    | .error f => (.error (.acc f va), s1)
    | .ok _ =>
      if s1.linkDown r.pa then (.error (.data (va / 64 * 64) false), s1)
      else (.ok r, if s1.outBehind (coreOf tid) r.pa then { s1 with waits := true } else s1)

/-- The lines of several device accesses of 16 bytes, all or none. -/
def State.devLines (s : State) (tid : Nat) (acc : Access) : List Nat → Except DevFault (List LineRef) × State
  | [] => (.ok [], s)
  | va :: rest =>
    match s.devLine tid 16 va acc with
    | (.error f, s1) => (.error f, s1)
    | (.ok r, s1) =>
      match s1.devLines tid acc rest with
      | (.error f, s2) => (.error f, s2)
      | (.ok rs, s2) => (.ok (r :: rs), s2)

/-- The 64 bytes of a line as the device reads them: at the home, under what the core's L1 has written (R294). -/
def State.devBytes (s : State) (core : Nat) (r : LineRef) : List Byte :=
  if r.coded then (s.core core).overDirty r.key (((s.blockLogical r.key.base r.key.rate).drop (64 * r.key.h)).take 64)
  else (s.core core).overDirty r.key (s.overPending core r.key (s.lineBytes r.pa))

/-- A coded block that the device reads or writes through a core's codec, in so many class-3 cycles. The step that needs it waits until the codec has come to it, and is debited then (R111, R112, R195). -/
def State.codecNeed (s : State) (core base rate : Nat) (wr : Bool) (cost hint : Nat) : State :=
  if s.grant.isSome then (if core < 256 then s.debit core (200 * cost) else s)
  else { s with needs := s.needs ++ [⟨core, base, rate, wr, cost, hint⟩], waits := true }

/-- What an access of the device does with a line before its bytes: its line moves, and a plain one waits for a change of contract or a call-back and is read at its home (R195, R254, R259, R366). The codec asks for the lines of a coded one. -/
def State.devTouch (s : State) (tid : Nat) (wr : Bool) (r : LineRef) : State :=
  let core := coreOf tid
  let s1 := s.debitLines core 1
  if r.coded then s1
  else
    let s2 := s1.reach r.key.base
    if wr then s2 else (s2.homeAccess (s2.home r.pa) r.pa (s2.tenantOf tid) core (.fetch none) false false).2

/-- The coded blocks of a list of lines, each once. -/
def blocksOf (rs : List LineRef) : List (Nat × Nat) :=
  (rs.filter fun r => r.coded).foldl (fun l r => addNew l (r.key.base, r.key.rate)) []

/-- The same for several lines, each once; a block that is read is decoded once (R111, R195). -/
def State.devTouches (s : State) (tid : Nat) (wr : Bool) (rs : List LineRef) : State :=
  (if wr then [] else blocksOf rs).foldl (fun st b => st.codecNeed (coreOf tid) b.1 b.2 false 2 0)
    ((rs.foldl addNew []).foldl (fun st r => st.devTouch tid wr r) s)

/-- The data error that an access of a line at an address meets: of its block where that is held (R106), else of the line (R278). -/
def State.dataFault (s : State) (r : LineRef) (va : Nat) : DevFault :=
  if r.coded && s.blockHeld r.key.base then .data (va / 128 * 128) true else .data (va / 64 * 64) false

/-- Whether a line read by the device meets an uncorrectable error. -/
def State.devBad (s : State) (r : LineRef) : Bool :=
  if r.coded then s.blockBad r.key.base r.key.rate || s.blockHeld r.key.base else s.bad r.pa

/-- A line with bytes replaced where it holds a valid byte. -/
def L1Line.refresh (l : L1Line) (w : List (Nat × Byte)) : L1Line :=
  { l with cells := w.foldl (fun cs e =>
      match lget .invalid cs e.1 with
      | .dirty _ => lset cs e.1 (.dirty e.2)
      | .clean _ => lset cs e.1 (.clean e.2)
      | .invalid => cs) l.cells }

/-- Bytes written by the device at a line: at the home, with the valid bytes of the core's cache kept equal. A part of a coded block that stands under an uncorrectable error, or is held, is lost, and its block held (R106, log 45). -/
def State.devWrite (s : State) (tid : Nat) (r : LineRef) (w : List (Nat × Byte)) : State :=
  let core := coreOf tid
  let c := s.core core
  let s1 := s.setCore core { c with l1 := c.l1.map fun l => if l.key == r.key then l.refresh w else l }
  if r.coded then
    let d := w.map fun e => (e.1 + 64 * r.key.h, e.2)
    let s2 := s1.codecNeed core r.key.base r.key.rate true (s1.codedCost r.key.base r.key.rate d) 0
    if s2.devBad r then s2.strikeBlock r.key.base r.va d.length tid 0xFF
    else (s2.codedWrite (s2.tenantOf tid) core r.key.base r.key.rate r.crid d false false).1
  else s1.homeStore (s1.tenantOf tid) core (w.map fun e => (r.key.base + e.1, e.2))

/-- Bytes from an offset on, as offsets and bytes. -/
def atOff (o : Nat) (bs : List Byte) : List (Nat × Byte) := bs.zipIdx.map fun e => (o + e.2, e.1)

/-- The addresses of `n` 16-byte pieces from one on. -/
def pieces (va : Nat) : Nat → List Nat
  | 0 => []
  | n + 1 => va :: pieces (va + 16) n

/-- 16-byte pieces at addresses, read by the device; the first that does not go through stops the read. -/
def State.devReads (s : State) (tid : Nat) (acc : Access) (vas : List Nat) : Except DevFault (List (List Byte)) × State :=
  match s.devLines tid acc vas with
  | (.error f, s1) => (.error f, s1)
  | (.ok rs, s1) =>
    match (rs.zip vas).find? fun e => s1.devBad e.1 with
    | some e => (.error (s1.dataFault e.1 e.2), s1)
    | none => (.ok ((rs.zip vas).map fun e => ((s1.devBytes (coreOf tid) e.1).drop (e.2 % 64)).take 16), s1.devTouches tid false rs)

/-- `n` 16-byte pieces read by the device from an address on. -/
def State.devRead (s : State) (tid : Nat) (acc : Access) (va n : Nat) : Except DevFault (List Byte) × State :=
  match s.devReads tid acc (pieces va n) with
  | (.error f, s1) => (.error f, s1)
  | (.ok bs, s1) => (.ok (bs.flatMap fun b => b), s1)

/-- Aligned 16-byte pieces written at the lines found for them. -/
def State.devWrites (s : State) (tid : Nat) : List (LineRef × Nat × List Byte) → State
  | [] => s
  | (r, va, bs) :: rest => (s.devWrite tid r (atOff (va % 64) bs)).devWrites tid rest

/-- 16-byte pieces written by the device at addresses, all or none: a held block stops the write (R106). -/
def State.devPuts (s : State) (tid : Nat) (acc : Access) (ws : List (Nat × List Byte)) : Except DevFault State × State :=
  match s.devLines tid acc (ws.map (·.1)) with
  | (.error f, s1) => (.error f, s1)
  | (.ok rs, s1) =>
    match (rs.zip ws).find? fun e => e.1.coded && s1.blockHeld e.1.key.base with
    | some e => (.error (s1.dataFault e.1 e.2.1), s1)
    | none => (.ok ((s1.devTouches tid true rs).devWrites tid (rs.zip ws)), s1)

/-- The 16-byte pieces of a list of bytes, `n` of them. -/
def chunks16 (bs : List Byte) : Nat → List (List Byte)
  | 0 => []
  | n + 1 => bs.take 16 :: chunks16 (bs.drop 16) n

/-- `n` 16-byte pieces written by the device from an address on, all or none. -/
def State.devStore (s : State) (tid : Nat) (acc : Access) (va n : Nat) (bs : List Byte) : Except DevFault State × State :=
  s.devPuts tid acc ((pieces va n).zip (chunks16 bs n))

end Sys2Proof.Machine
end

