-- ==== Sys2Proof/Machine/Resid.lean ====
section
/-! DEFINITION. The residency map: its registers (R256), its checks (R257, R258), changes of contracts (R259), and the room of CACHE and KV contracts at a slice (R260 to R262). -/

namespace Sys2Proof.Machine

/-- Whether the claims of a set of entries fit in every slice (R258). -/
def claimsFit (es : List ResEntry) : Bool :=
  (List.range 256).all fun k => Nat.ble ((es.filter fun e => e.inVault (k / 8) (k % 8)).foldl (fun n e => n + e.claim) 0) 4194304

/-- The other entries that stand in the map. -/
def State.otherEntries (s : State) (n : Nat) : List ResEntry := (s.resid.filter fun e => e.1 != n && e.2.stands).map (·.2)

/-! ## Registers -/

def State.setRes (s : State) (n : Nat) (e : ResEntry) : State := { s with resid := tput s.resid n e }

/-- Whether two ranges of addresses meet. -/
def rangesMeet (a n b m : Nat) : Bool := Nat.blt a (b + m) && Nat.blt b (a + n)

/-- Whether a range lies within populated HBM, or within the granary window (R251, R257). -/
def rangeIn (pinned : Bool) (base size : Nat) : Bool :=
  match physKind base, physKind (base + size - 1) with
  | .hbm d, .hbm d' => !pinned && d == d'
  | .granary, .granary => pinned
  | _, _ => false

/-- The lowest failing code of a commit, or 0 (R257). -/
def State.commitErr (s : State) (n : Nat) (e : ResEntry) : Nat :=
  if e.kind = 3 ∨ e.place = 3 ∨ e.policy = 3 ∨ (e.policy ≠ 0 ∧ e.kind ≠ 0) then 1
  else if e.base % 65536 ≠ 0 ∨ e.size % 65536 ≠ 0 ∨ e.size = 0 ∨
      (e.kind = 1 ∧ e.place = 0 ∧ (e.base % 2 ^ 20 ≠ 0 ∨ e.size % 2 ^ 20 ≠ 0)) then 2
  else if !rangeIn (e.kind == 1) e.base e.size then 3
  else if (s.otherEntries n).any (fun o => rangesMeet e.base e.size o.base o.size) then 4
  else if !claimsFit (e :: s.otherEntries n) then 5
  else if e.kind = 2 ∧ (e.metabase % 64 ≠ 0 ∨
      !(s.otherEntries n).any (fun o => o.valid && o.kind == 1 && o.covers e.metabase && o.covers (e.metabase + e.size / 2048 - 1))) then 6
  else 0

/-- The lines a contract holds in the granary (R256). -/
def State.usedRoom (s : State) (n : Nat) (e : ResEntry) : Nat :=
  match e.kind with
  | 1 => if e.valid then e.size / 16384 else 0
  | 0 => (s.slices.foldl (fun k x => k + (x.2.cache.filter fun l => l.entry == n).length) 0 * 64 + 16383) / 16384
  | _ => s.slices.foldl (fun k x => k + (x.2.kv.filter fun l => l.entry == n).length) 0

/-- Bytes 0 to 7 of an entry (R256). -/
def ResEntry.word0 (e : ResEntry) : Nat :=
  b2n e.valid + 2 * e.kind + 2 ^ 3 * e.place + 2 ^ 5 * e.policy + 2 ^ 7 * b2n (e.change != 0) + 2 ^ 8 * e.die +
  2 ^ 13 * e.vault + 2 ^ 16 * e.tenant + 2 ^ 56 * e.err

/-- An 8-byte word of an entry as it reads (R256). -/
def State.resWord (s : State) (n k : Nat) : Nat :=
  let e := s.res n
  match k with
  | 0 => e.word0
  | 1 => e.base
  | 2 => e.size
  | 3 => (if e.kind = 1 then e.size / 16384 % 2 ^ 32 else e.quota) + 2 ^ 32 * (s.usedRoom n e % 2 ^ 32)
  | 4 => e.metabase
  | _ => 0

/-- A number with `size` bytes at an offset replaced. -/
def patchNat (old off size v : Nat) : Nat :=
  old % 2 ^ (8 * off) + 2 ^ (8 * off) * (v % 2 ^ (8 * size)) + 2 ^ (8 * (off + size)) * (old / 2 ^ (8 * (off + size)))

/-! ## Changes of contracts (R259) -/

/-- TLB entries that map into a range of physical addresses are dropped (R322). -/
def State.dropTlbPhys (s : State) (base size : Nat) : State :=
  let keep (x : TlbEntry) : Bool :=
    !rangesMeet base size (pteAddr x.leaf) (if pteCoded x.leaf then x.size * rateBits (pteCrate x.leaf) / 64 else x.size)
  let strip (c : Core) : Core := { c with tlb1 := c.tlb1.map (fun (t : Nat × List TlbEntry) => (t.1, t.2.filter keep)), tlb2 := c.tlb2.filter keep }
  { s with cores := s.cores.map fun (e : Nat × Core) => (e.1, strip e.2) }

/-- Every watch armed on a line of a range delivers its arrival and is disarmed (R259). -/
def State.fireRange (s : State) (base size : Nat) : State :=
  let hit := s.slices.flatMap fun e => e.2.watches.filter fun w => Nat.ble base w.line && Nat.blt w.line (base + size)
  let s1 := { s with slices := s.slices.map fun (e : Nat × Slice) =>
      (e.1, { e.2 with watches := e.2.watches.filter fun w => !(Nat.ble base w.line && Nat.blt w.line (base + size)) }) }
  s1.watchArrivals hit

/-- The start of a commit (1) or a removal (2) (R259). -/
def State.startChange (s : State) (n : Nat) (e : ResEntry) (change : Nat) : State :=
  ((s.setRes n { e with change := change, err := 0, valid := change == 1 }).fireRange e.base e.size).dropTlbPhys e.base e.size

/-- A write to bytes 0 to 7, `v` being the word that results (R256, R257). -/
def State.resWrite0 (s : State) (n v : Nat) : State :=
  let e := s.res n
  let w : ResEntry := { e with
    kind := bits v 1 2, place := bits v 3 2, policy := bits v 5 2, die := bits v 8 5, vault := bits v 13 3, tenant := bits v 16 16 }
  if e.valid then
    if w ≠ { e with policy := w.policy } then s.setRes n { e with err := 7 }
    else if w.policy = 3 ∨ (w.policy ≠ 0 ∧ e.kind ≠ 0) then s.setRes n { e with err := 1 }
    else if v.testBit 0 then s.setRes n { w with err := 0 }
    else s.startChange n w 2
  else if v.testBit 0 then
    let k := s.commitErr n w
    if k = 0 then s.startChange n w 1 else s.setRes n { w with err := k }
  else s.setRes n { w with err := 0 }

/-- A write to QUOTA (R256, R259). -/
def State.resWriteQuota (s : State) (n q : Nat) : State :=
  let e := s.res n
  if e.kind = 1 then s.setRes n { e with err := 0 }
  else if !e.valid then s.setRes n { e with quota := q, err := 0 }
  else if !claimsFit ({ e with quota := q } :: s.otherEntries n) then s.setRes n { e with err := 5 }
  else s.setRes n { e with quota := q, err := 0, change := if q < e.quota then 3 else 0 }

/-- A write of `size` bytes at an offset of an entry (R256, R257). -/
def State.resWrite (s : State) (n off size v : Nat) : State :=
  let e := s.res n
  let k := off / 8
  let new := patchNat (s.resWord n k) (off % 8) size v
  if e.change ≠ 0 then s.setRes n { e with err := 8 }
  else
    match k with
    | 0 => s.resWrite0 n new
    | 1 => s.setRes n (if e.valid then { e with err := 7 } else { e with base := new, err := 0 })
    | 2 => s.setRes n (if e.valid then { e with err := 7 } else { e with size := new, err := 0 })
    | 3 => if off % 8 = 0 then s.resWriteQuota n (v % 2 ^ 32) else s
    | 4 => s.setRes n (if e.valid then { e with err := 7 } else { e with metabase := new, err := 0 })
    | _ => s

/-- The surplus KV blocks of a contract in a slice, evicted in victim order; `fuel` bounds them (R259). -/
def State.kvTrim (s : State) (sl n limit : Nat) : Nat → State
  | 0 => s
  | fuel + 1 =>
    let x := s.slice sl
    if Nat.ble (x.kv.filter fun b => b.entry == n).length limit then s
    else
      match s.kvVictim x n none with
      | none => s
      | some b => (s.kvEvict sl b 256).kvTrim sl n limit fuel

/-! ## The end of a change -/

/-- Whether a decode or a write-back of the codec has asked for the lines of a block of a range (R259). -/
def CodecJob.arrivedIn (j : CodecJob) (e : ResEntry) : Bool :=
  j.touched.isSome && (j.blocks.any fun b => (linesFrom b.1 (2 * b.2)).any e.covers) &&
    (match j.kind with
    | .decode .. | .write .. => true
    | .engine .. | .device .. | .busy => false)

/-- Whether an access that stood at a slice when a change began is still there, waits for the host's answer, or is in a codec (R259). -/
def State.queuedIn (s : State) (e : ResEntry) : Bool :=
  (s.slices.any fun x => x.2.queue.any fun r => e.covers r.pa) || (s.links.any fun l => l.snoop && e.covers l.req.pa) ||
    s.cores.any fun c => c.2.jobs.any fun j => j.arrivedIn e

/-- The locks of the blocks of a range stand at their new homes (R103, R259). -/
def State.moveLocks (s : State) (e : ResEntry) : State :=
  let ls := s.slices.flatMap fun x => x.2.locks.filter fun l => e.covers l.1
  let s1 : State := { s with slices := s.slices.map fun (x : Nat × Slice) => (x.1, { x.2 with locks := x.2.locks.filter fun l => !e.covers l.1 }) }
  ls.foldl (fun st l =>
    let x := st.slice (st.home l.1)
    st.setSlice (st.home l.1) { x with locks := x.locks ++ [l] }) s1

/-- What a contract held in the granary leaves it, its dirty lines written back (R259). -/
def State.dropContract (s : State) (n : Nat) : State :=
  let dirty := s.slices.flatMap fun x =>
    ((x.2.cache.filter fun l => l.entry == n && l.dirty).map fun l => l.line) ++ ((x.2.kv.filter fun b => b.entry == n).flatMap fun b => b.dirty)
  let s1 := dirty.foldl (fun st a => st.bankWork a 256 false) s
  { s1 with slices := s1.slices.map fun (x : Nat × Slice) =>
      (x.1, { x.2 with cache := x.2.cache.filter (fun l => l.entry != n), kv := x.2.kv.filter fun b => b.entry != n }) }

/-- Memory with a range cleared to what an unlisted address reads as. -/
def clearRange (m : List Host.Cell) (base size : Nat) : List Host.Cell :=
  m.filter fun c => !(Nat.ble base c.1 && Nat.blt c.1 (base + size))

/-- The end of the change under way on an entry, once no access stands at the old home; a watch that was armed from there since delivers its arrival, and a PINNED range that is cleared, or discarded, is without error (R259). -/
def State.finishChange (s : State) (n : Nat) : State :=
  let e := s.res n
  if s.queuedIn e && e.change != 3 then s
  else
    let s1 := s.setRes n { e with change := 0 }
    let clear (st0 : State) : State :=
      let st := st0.fireRange e.base e.size
      (if e.kind = 1 then { st with
        mem := clearRange st.mem e.base e.size
        badLines := st.badLines.filter fun l => !e.covers (64 * l) } else st).moveLocks e
    match e.change with
    | 1 => clear s1
    | 2 => clear (s1.dropContract n)
    | 3 => if e.kind = 2 then s1.slices.foldl (fun st x => st.kvTrim x.1 n e.limit x.2.kv.length) s1 else s1
    | _ => s

end Sys2Proof.Machine
end

