-- ==== Sys2Proof/Machine/CtlRead.lean ====
section
/-! DEFINITION. The registers of the control space as they read (R368, R369). -/

namespace Sys2Proof.Machine

/-- The die's registers HBMRM and HBMTEL (R268). -/
def Die.hbmrm (d : Die) : Nat := b2n d.en + 2 * d.blast + 2 ^ 4 * d.thresh + 2 ^ 16 * d.swapn

/-- The banks of a die in retry mode. -/
def State.retryBanks (s : State) (die : Nat) : Nat := (s.banks.filter fun e => e.1 / 2048 == die && e.2.retry).length

def State.die (s : State) (d : Nat) : Die := tget Die.reset s.dies d

def State.hbmtel (s : State) (d : Nat) : Nat :=
  (s.die d).rmcount % 2 ^ 32 + 2 ^ 32 * ((s.die d).swapcount % 2 ^ 16) + 2 ^ 48 * (s.retryBanks d % 2 ^ 12)

/-- CLHOLD (R369). -/
def Cluster.clhold (c : Cluster) : Nat := b2n c.held + 2 * b2n c.ret + 2 ^ 8 * (c.retLoss % 2 ^ 8) + 2 ^ 16 * c.retIdle

/-- The milliseconds left in a boost window (R369, R377). -/
def State.boostRemain (s : State) : Nat :=
  if s.pkg.boostOpen then (s.pkg.boostAt + 2000000000 - s.time) / 1000000 else 0

/-- Eight bytes of a list of bytes from an offset on. -/
def word8 (bs : List Byte) (o : Nat) : Nat := natOfBytes ((bs.drop o).take 8)

/-- The 8-byte word at an offset of the control space (R368). -/
def State.ctlWord (s : State) (o : Nat) : Nat :=
  let k := s.pkg
  if o = 0 then k.stage % 2 ^ 4 + 2 ^ 4 * (k.err % 2 ^ 8) + 2 ^ 32 * (k.svn % 2 ^ 16)
  else if o = 0x1000 then s.crtbase
  else if o = 0x1008 then s.aftbase
  else if o = 0x1010 then s.kvepoch
  else if o = 0x1018 then b2n k.boostReq + 2 * b2n k.boostOpen + 2 ^ 16 * (s.boostRemain % 2 ^ 16)
  else if o = 0x1020 then k.hostErr % 2 ^ 32
  else if o = 0x1028 then k.subbase
  else if 0x10000 ≤ o ∧ o < 0x14000 then s.resWord ((o - 0x10000) / 64) (o % 64 / 8)
  else if o = 0x20000 then k.tlbVpn
  else if o = 0x20008 then k.tlbRoot
  else if o = 0x20010 then k.tlbCount + 2 ^ 32 * b2n k.tlbGo
  else if 0x30000 ≤ o ∧ o < 0x31000 then
    let c := s.cluster ((o - 0x30000) / 64)
    (if o % 64 = 0 then c.clkctl else if o % 64 = 8 then c.clhold else 0)
  else if 0x40000 ≤ o ∧ o < 0x40800 then
    let d := (o - 0x40000) / 64
    (if o % 64 = 0 then (s.die d).hbmrm else if o % 64 = 8 then s.hbmtel d else 0)
  else if 0x50000 ≤ o ∧ o < 0x50080 then
    let n := (o - 0x50000) / 2
    k.sfEntry n + 2 ^ 16 * k.sfEntry (n + 1) + 2 ^ 32 * k.sfEntry (n + 2) + 2 ^ 48 * k.sfEntry (n + 3)
  else if o = 0x50080 then k.sfx % 2 ^ 64
  else if 0x60000 ≤ o ∧ o < 0x60300 ∧ o % 64 = 0 then
    let j := (o - 0x60000) / 64
    b2n (tget false k.peerUp j) + 2 ^ 16 * (tget 0 k.peerReplay j % 2 ^ 32)
  else if 0x70000 ≤ o ∧ o < 0x70020 then word8 k.nonce (o - 0x70000)
  else if o = 0x70020 then b2n k.attBusy
  else if 0x70100 ≤ o ∧ o < 0x71000 then word8 k.report (o - 0x70100)
  else if 0x80000 ≤ o ∧ o < 0x90000 then readNat k.telem (o - 0x80000) 8
  else 0

/-- Whether the control space serves an access of the host: after a boot failure, CXL.io serves only BOOTSTAT and the attestation area (R371). -/
def State.ctlOpen (s : State) (o : Nat) : Bool := s.pkg.err == 0 || Nat.blt o 8 || (Nat.ble 0x70000 o && Nat.blt o 0x80000)

/-- A read of 4 or 8 bytes of the control space; zeros where it is not served (log 31). -/
def State.ctlRead (s : State) (o size : Nat) : Nat := if s.ctlOpen o then bits (s.ctlWord (o / 8 * 8)) (8 * (o % 8)) (8 * size) else 0

end Sys2Proof.Machine
end

