-- ==== Sys2Proof/Machine/Regs.lean ====
section
/-! DEFINITION. Reading and writing the registers of a tiller (R113 to R119), its active mask (R117, R118) and its general-slot count (R122). -/

namespace Sys2Proof.Machine

/-- A scalar; s0 reads as zero (R113). -/
def Tiller.rs (t : Tiller) (r : SReg) : Word := if r = 0 then 0 else tget 0 t.s r.toNat

/-- A scalar written; a write of s0 is discarded (R33). -/
def Tiller.ws (t : Tiller) (r : SReg) (x : Word) : Tiller := if r = 0 then t else { t with s := tput t.s r.toNat x }

/-- The odd register of a scalar pair (R115). -/
def pairHi (r : SReg) : SReg := r + 1

/-- A scalar pair, the even register in bits 31:0 (R115). -/
def Tiller.rp (t : Tiller) (r : SReg) : DWord := t.rs (pairHi r) ++ t.rs r

/-- A scalar pair written; in s0:s1 the low half is discarded (R33). -/
def Tiller.wp (t : Tiller) (r : SReg) (x : DWord) : Tiller :=
  (t.ws r (x.extractLsb' 0 32)).ws (pairHi r) (x.extractLsb' 32 32)

/-- A mask; m0 reads as all ones (R113). -/
def Tiller.rm (t : Tiller) (m : MReg) : Word := if m = 0 then 0xFFFFFFFF else tget 0 t.m m.toNat

/-- A mask written; m0 is never a destination (R33). -/
def Tiller.wm (t : Tiller) (m : MReg) (x : Word) : Tiller := if m = 0 then t else { t with m := tput t.m m.toNat x }

/-- The numbers of the 32 lanes. -/
def lanes32 : List Nat := List.range 32

/-- The expanded value of a lane (R119). -/
def VReg.lane (v : VReg) (i : Nat) : Word :=
  match v with
  | .u x => x
  | .a b st => b + bv 32 i * st
  | .g l => lget 0 l i

/-- The 32 expanded values. -/
def VReg.lanes (v : VReg) : List Word := lanes32.map v.lane

/-- A register tagged G. -/
def VReg.isG : VReg → Bool
  | .g _ => true
  | .u _ | .a _ _ => false

/-- A register tagged U. -/
def VReg.isU : VReg → Bool
  | .u _ => true
  | .g _ | .a _ _ => false

/-- The code of a tag (R119). -/
def VReg.tag : VReg → Nat
  | .u _ => 0
  | .a _ _ => 1
  | .g _ => 2

/-- A vector register. -/
def Tiller.rv (t : Tiller) (r : VNum) : VReg := tget (.u 0) t.v r.toNat

/-- A vector register written, tag and value. -/
def Tiller.wv (t : Tiller) (r : VNum) (x : VReg) : Tiller := { t with v := tput t.v r.toNat x }

/-- The odd register of a vector pair (R115). -/
def vHi (r : VNum) : VNum := r + 1

/-- The 64-bit values of a vector pair (R115). -/
def Tiller.rvPair (t : Tiller) (r : VNum) : List Nat :=
  lanes32.map fun i => ((t.rv r).lane i).toNat + 2 ^ 32 * ((t.rv (vHi r)).lane i).toNat

/-- The tiller's G count (R122). -/
def Tiller.gCount (t : Tiller) : Nat := (t.v.filter fun e => e.2.isG).length

/-- The slot the clause under way issues from. -/
def Tiller.inB (t : Tiller) : Bool :=
  match t.run with
  | some r => r.slotB
  | none => false

/-- A PC slot, A or B. -/
def Tiller.slot (t : Tiller) (b : Bool) : Slot := if b then t.slotB else t.slotA

/-- A PC slot replaced. -/
def Tiller.setSlot (t : Tiller) (b : Bool) (x : Slot) : Tiller := if b then { t with slotB := x } else { t with slotA := x }

/-- The active mask: full in handler mode, else the issuing slot's (R117, R118). -/
def Tiller.act (t : Tiller) : Word := if t.hnd then 0xFFFFFFFF else (t.slot t.inB).mask

/-- Whether a lane is active. -/
def isActive (m : Word) (i : Nat) : Bool := m.getLsbD i

/-- Whether a mask is full (R117). -/
def isFull (m : Word) : Bool := m == 0xFFFFFFFF

/-- The register a vector write leaves: `full` when the mask is full, else G with the inactive lanes' previous values (R117, R120). -/
def merged (m : Word) (old full : VReg) (vals : List Word) : VReg :=
  if isFull m then full
  else .g (lanes32.map fun i => if isActive m i then lget 0 vals i else old.lane i)

/-- The number of set bits of a word. -/
def popc (x : Word) : Nat := (lanes32.filter fun i => x.getLsbD i).length

/-- A mask from a test of each lane. -/
def maskOf (f : Nat → Bool) : Word :=
  lanes32.foldl (fun m i => if f i then m ||| (1#32 <<< i) else m) 0

/-- A pending mark added. -/
def Tiller.addPend (t : Tiller) (rs : List PReg) : Tiller := { t with pend := t.pend ++ rs.filter fun r => !t.pend.contains r }

/-- Pending marks removed (R126). -/
def Tiller.delPend (t : Tiller) (rs : List PReg) : Tiller := { t with pend := t.pend.filter fun r => !rs.contains r }

/-- The count of an arrival counter (R211). -/
def Tiller.ctr (t : Tiller) (c : Nat) : Nat := tget 0 t.a c

/-- Flags ORed into TSTAT (R74, R75). -/
def Tiller.orFlags (t : Tiller) (f : Flags) : Tiller := { t with flags := t.flags ||| f }

/-- Whether a tiller's place in a pre-emption lets it issue nothing (R338, R342, R344). -/
def HaltSt.holds : HaltSt → Bool
  | .halted | .listing _ | .ctxdone | .waiting => true
  | .running | .saving | .resuming => false

end Sys2Proof.Machine
end

