-- ==== Sys2Proof/Machine/Paths.lean ====
section
/-! DEFINITION. Paths, joins and the spill list of a tiller (R170 to R180): list steps, Settle, and the end of every path. -/

namespace Sys2Proof.Machine

/-! ## The spill list -/

/-- A slot whose path ceases to exist: MASK is 0, JOIN and OUTR are none, and PC stays (R171). -/
def Slot.vacate (p : Slot) : Slot := { p with st := .empty, mask := 0, join := joinNone, outr := joinNone }

/-- A join value as the device holds it (R170). -/
def normJoin (j : Word) : Word := if j.extractLsb' 0 2 = 0 then j else joinNone

/-- The path an entry holds (R173). -/
def slotOfEntry (bs : List Byte) : Slot :=
  let w (n : Nat) : Word := bv 32 (natOfBytes ((bs.drop (4 * n)).take 4))
  ⟨if (w 0).extractLsb' 0 2 = 1 then .parked else .ready, w 0 &&& 0xFFFFFFFC, w 1, normJoin (w 2), normJoin (w 3)⟩

/-- The 16 bytes of an entry (R173). -/
def Slot.entryBytes (p : Slot) : List Byte :=
  let st : Word := if p.st = .parked then 1 else 0
  bytesOfNat ((p.pc &&& 0xFFFFFFFC) ||| st).toNat 4 ++ bytesOfNat p.mask.toNat 4 ++
  bytesOfNat p.join.toNat 4 ++ bytesOfNat p.outr.toNat 4

/-- The address of entry k (R174). -/
def Tiller.entryVa (t : Tiller) (k : Nat) : Nat :=
  t.area + 16 * (if t.depth = 0 then 0 else (t.head + k) % t.depth)

/-- The addresses of `n` entries from entry k on. -/
def Tiller.entryVas (t : Tiller) (k : Nat) : Nat → List Nat
  | 0 => []
  | n + 1 => t.entryVa k :: t.entryVas (k + 1) n

/-- Every entry of a tiller's list, the oldest first, as memory holds it (R175). -/
def State.readList (s : State) (tid : Nat) : Except DevFault (List Slot) × State :=
  match s.devReads tid .spillRd ((s.tiller tid).entryVas 0 (s.tiller tid).count) with
  | (.error f, s1) => (.error f, s1)
  | (.ok bs, s1) => (.ok (bs.map slotOfEntry), s1)

/-- The entries of a tiller's list from entry k on, up to the oldest that is ready, as memory holds them; none where none is ready. `n` entries are left (R175). -/
def State.readReady (s : State) (tid k : Nat) : Nat → Except DevFault (Option (List Slot)) × State
  | 0 => (.ok none, s)
  | n + 1 =>
    match s.devReads tid .spillRd [(s.tiller tid).entryVa k] with
    | (.error f, s1) => (.error f, s1)
    | (.ok bs, s1) =>
      let e := slotOfEntry (bs.headD [])
      if e.st = .ready then (.ok (some [e]), s1)
      else
        match s1.readReady tid (k + 1) n with
        | (.error f, s2) => (.error f, s2)
        | (.ok l, s2) => (.ok (l.map fun r => e :: r), s2)

/-- The entries of `new` whose bytes or place differ from those of `old`, with the places they take after `removed` entries left. -/
def changedEntries (removed : Nat) (old : List Slot) : Nat → List Slot → List (Nat × Slot)
  | _, [] => []
  | k, p :: rest =>
    if old[k + removed]? = some p then changedEntries removed old (k + 1) rest
    else (k, p) :: changedEntries removed old (k + 1) rest

/-- Replaces the list: `removed` entries have left, so HEAD advances by as many; only changed entries are written (R174, R175). -/
def State.writeList (s : State) (tid removed : Nat) (old new : List Slot) : Except DevFault State × State :=
  let t := s.tiller tid
  let t1 := { t with head := if removed = 0 then t.head else if t.depth = 0 then 0 else (t.head + removed) % t.depth, count := new.length }
  let ch := changedEntries removed old 0 new
  match s.devPuts tid .spillWr (ch.map fun e => (t1.entryVa e.1, e.2.entryBytes)) with
  | (.error f, s1) => (.error f, s1)
  | (.ok s2, s1) => (.ok (s2.setTiller tid t1), s1)

/-- A path put at the tail of a tiller's list, its one entry written (R174, R175, R177). -/
def State.appendEntry (s : State) (tid : Nat) (p : Slot) : Except DevFault State × State :=
  let t := s.tiller tid
  match s.devPuts tid .spillWr [(t.entryVa t.count, p.entryBytes)] with
  | (.error f, s1) => (.error f, s1)
  | (.ok s2, s1) => (.ok (s2.setTiller tid { s2.tiller tid with count := t.count + 1 }), s1)

/-! ## The end of every path -/

/-- The number of paths a tiller has. -/
def Tiller.paths (t : Tiller) : Nat :=
  b2n (t.slotA.st != .empty) + b2n (t.slotB.st != .empty) + t.count

/-- Marks a tiller that has no path left as exited (R179). -/
def Tiller.checkExit (t : Tiller) : Tiller :=
  if t.paths = 0 && !t.hnd then { t with exited := true, run := none, block := .none, step := none, again := false } else t

/-- Ends every path of a tiller, as EXIT does in handler mode (R179). -/
def Tiller.endPaths (t : Tiller) : Tiller :=
  { t with
    slotA := t.slotA.vacate, slotB := t.slotB.vacate, count := 0, hnd := false, run := none, block := .none
    step := none, lanes := 0, exited := true, parkP := false, again := false }

/-- The data-error records of a tiller that exits with errored loads (R278). -/
def State.exitErrors (s : State) (tid : Nat) : State :=
  ((s.tiller tid).errs.filter fun e => !e.regs.isEmpty).foldl (fun st e => st.postTiller tid 0x0003 0 e.pa)
    (s.setTiller tid { s.tiller tid with errs := [] })

/-- TINFO0 and TINFO1 of an engine mark (R316). -/
def EngMark.info0 (m : EngMark) : Word := bv 32 (m.code + 2 ^ 8 * m.detail + 2 ^ 12 * m.engine + 2 ^ 16 * m.cidx)
def EngMark.info1 (m : EngMark) : Word := bv 32 m.chain

/-- The 0x0008 records for engine marks that an exiting tiller's chains left on barriers of its workgroup (R316). -/
def State.exitMarks (s : State) (tid : Nat) : State :=
  let t := s.tiller tid
  let wid := wgOf t.sheaf t.rank
  let w := s.wg wid
  let mine := w.marks.filter fun e => e.2.tiller == t.num
  let s1 := mine.foldl (fun st e =>
    st.post (st.regionOf tid) { st.recOf tid 0x0008 0 (e.2.info0.toNat + 2 ^ 32 * e.2.info1.toNat) st.time with engine := e.2.engine }) s
  s1.setWg wid { w with marks := w.marks.filter fun e => e.2.tiller != t.num }

/-- What follows when a tiller has exited: its deferred data errors and engine marks are reported (R278, R316). -/
def State.onExit (s : State) (tid : Nat) : State :=
  if (s.tiller tid).exited then (s.exitErrors tid).exitMarks tid else s

/-- The 0x000B record and the 0x000D record after it, from a tiller's trap registers (R372); `second` is the second cause's KIND and `pc` the word that raised it. -/
def State.postTrapRecords (s : State) (tid second : Nat) (pc : Word) : State :=
  let t := s.tiller tid
  let s1 := s.post (s.regionOf tid) (s.recOf tid 0x000B second (t.tcause.toNat + 2 ^ 32 * t.tpc.toNat) s.time)
  s1.post (s.regionOf tid) (s.recOf tid 0x000D 0 (t.tinfo0.toNat + 2 ^ 32 * t.tinfo1.toNat) pc.toNat)

/-- Every path of a tiller ends and its trap registers are reported (R175, R329, R334). -/
def State.killTiller (s : State) (tid second : Nat) (pc : Word) : State :=
  ((s.setTiller tid (s.tiller tid).endPaths).postTrapRecords tid second pc).onExit tid

/-! ## Faults of translation -/

/-- The vector of a KIND (R330). -/
def vecOf (kind : Nat) : Nat :=
  match kind with
  | 0x03 => 3
  | 0x04 | 0x05 => 4
  | 0x0E => 5
  | 0x0F | 0x10 => 6
  | 0x11 | 0x12 => 2
  | 0x00 | 0x01 | 0x02 => 0
  | _ => 1

/-- TCAUSE (R330). -/
def tcauseOf (kind : Nat) : Word := bv 32 (kind + 256 * vecOf kind)

/-- TINFO0 of a global address: bits 31:0 (R275). -/
def info0Of (a : Nat) : Word := bv 32 a

/-- TINFO1 of a global address: bits 55:32, the lane and KIND (R275). -/
def info1Of (a lane k : Nat) : Word := bv 32 (a / 2 ^ 32 % 2 ^ 24 + 2 ^ 24 * lane + 2 ^ 29 * k)

/-- KIND, TINFO0 and TINFO1 of an access that does not go through; none for a replayable fault (R275, R324, R330). -/
def accTrap (f : AccFault) (va lane : Nat) : Option (Nat × Word × Word) :=
  match f with
  | .misaligned => some (0x09, info0Of va, info1Of va lane 0)
  | .range => some (0x09, info0Of va, info1Of va lane 1)
  | .replay _ => none
  | .trans prot => some (0x06, info0Of va, info1Of va lane (b2n prot))
  | .coded => some (0x07, info0Of va, info1Of va lane 0)
  | .phys pa table => some (0x08, info0Of pa, info1Of pa lane (b2n table))

/-- Whether a fault is replayable, and whether a migrating leaf raised it. -/
def replayOf : AccFault → Option Bool
  | .replay mig => some mig
  | .misaligned | .range | .trans _ | .coded | .phys _ _ => none

/-- The cycle from which a tiller's next clause may issue, where the word that is issuing is the last of its clause: a GAP after this cycle, or after the one in which the word issued, where it has waited since (R190). -/
def State.gapFrom (s : State) (tid : Nat) : Nat :=
  let t := s.tiller tid
  match t.run with
  | some r => if t.again then t.gapEnd else (s.core (coreOf tid)).cycles + 1 + ((lget 0 r.words 0).extractLsb' 24 3).toNat
  | none => t.gapEnd

/-- A tiller parked on a replayable fault; one record is sent, unless a migrating leaf raised it (R324, R328). Its word has issued (R190, log 83). -/
def State.parkFault (s : State) (tid va : Nat) (acc : Access) (mig : Bool) : State :=
  let s1 := if mig then s else s.postTiller tid 0x0001 (accCode acc) va
  let c := s1.core (coreOf tid)
  let s2 := s1.setCore (coreOf tid)
    { c with faultBuf := if c.faultBuf.length < 64 then addNew c.faultBuf tid else c.faultBuf }
  s2.setTiller tid { s2.tiller tid with block := .fault (va / 65536) acc mig false, gapEnd := s2.gapFrom tid }

/-- A spill access that does not go through: parked to be taken up again, or every path ends (R175).
An uncorrectable error is the caller's. -/
def State.spillFault (s : State) (tid : Nat) (f : AccFault) (va : Nat) (acc : Access) (step : Option ListStep) (pc : Word) : State :=
  match accTrap f va 0 with
  | none =>
    let s1 := s.parkFault tid va acc (replayOf f == some true)
    s1.setTiller tid { s1.tiller tid with step := step }
  | some (k, i0, i1) =>
    let t := s.tiller tid
    (s.setTiller tid { t with tcause := bv 32 (k + 256), tpc := pc, tinfo0 := i0, tinfo1 := i1 }).killTiller tid 0 0

/-! ## Settle (R178) -/

/-- Parks a ready path that has arrived at its join point. -/
def Slot.arrive (p : Slot) : Slot := if p.st = .ready ∧ p.pc = p.join then { p with st := .parked } else p

/-- Whether a path stands under a key. -/
def Slot.hasKey (p : Slot) (j o : Word) : Bool := p.st != .empty && p.join == j && p.outr == o

/-- Whether a path of a key is not parked. -/
def Slot.holdsUp (p : Slot) (j o : Word) : Bool := p.hasKey j o && p.st != .parked

/-- The paths of a tiller: slots A and B and the list. -/
structure Paths where
  a : Slot
  b : Slot
  l : List Slot
  deriving DecidableEq, Repr

/-- Every path. -/
def Paths.all (p : Paths) : List Slot := [p.a, p.b] ++ p.l

/-- A key put into a list of keys in ascending order of JOIN, then of OUTR. -/
def insertKey (j o : Word) : List (Word × Word) → List (Word × Word)
  | [] => [(j, o)]
  | (j', o') :: rest =>
    if j = j' ∧ o = o' then (j', o') :: rest
    else if j.toNat < j'.toNat ∨ j = j' ∧ o.toNat < o'.toNat then (j, o) :: (j', o') :: rest
    else (j', o') :: insertKey j o rest

/-- The keys some path holds, JOIN being a join point, in ascending order. -/
def Paths.keys (p : Paths) : List (Word × Word) :=
  p.all.foldl (fun ks x => if x.st != .empty && x.join != joinNone then insertKey x.join x.outr ks else ks) []

/-- The list with its members of a key removed, the oldest being replaced by `keep` where one is given. -/
def mergeInList (j o : Word) (keep : Option Slot) : List Slot → List Slot
  | [] => []
  | x :: rest =>
    if x.hasKey j o then
      (match keep with
      | some q => q :: mergeInList j o none rest
      | none => mergeInList j o none rest)
    else x :: mergeInList j o keep rest

/-- Merge of a key whose paths are all parked (R178); none where some path of the key is not parked. -/
def Paths.merge (p : Paths) (j o : Word) : Option Paths :=
  if p.all.any (fun x => x.holdsUp j o) || !(p.all.any fun x => x.hasKey j o) then none
  else
    let m := p.all.foldl (fun w x => if x.hasKey j o then w ||| x.mask else w) 0
    let q : Slot := ⟨.ready, j, m, o, joinNone⟩
    let inA := p.a.hasKey j o
    let inB := p.b.hasKey j o
    some ⟨if inA then q else p.a,
      if inB then (if inA then p.b.vacate else q) else p.b,
      mergeInList j o (if inA || inB then none else some q) p.l⟩

/-- How a list step ends: with its effect, or with an entry access that does not go through and without any (R175). -/
inductive StepEnd where
  | ok (s : State)
  | fault (f : DevFault) (acc : Access) (s : State)

/-- A change of a tiller's paths put in place, with the list entries it writes (R175). -/
def State.putPaths (s : State) (tid removed : Nat) (old : List Slot) (p : Paths) : StepEnd :=
  match s.writeList tid removed old p.l with
  | (.error f, s1) => .fault f .spillWr s1
  | (.ok s2, _) => .ok (s2.setTiller tid { s2.tiller tid with slotA := p.a, slotB := p.b })

/-- The paths of a tiller, with its list as memory holds it. -/
def State.readPaths (s : State) (tid : Nat) : Except DevFault Paths × State :=
  match s.readList tid with
  | (.error f, s1) => (.error f, s1)
  | (.ok l, s1) => (.ok ⟨(s.tiller tid).slotA, (s.tiller tid).slotB, l⟩, s1)

/-- The load of the oldest ready entry into a slot (R178, R180), its mask ANDed with the live lanes (R174): `x` is the path that leaves the slot, and `back` the path that goes to the end of the list; an entry left with no lane is discarded. None where no entry is ready.
Only the entries up to that one are read, and only those that move, and the one that is appended, are written (R175). -/
def State.loadReady (s : State) (tid : Nat) (isB : Bool) (x : Slot) (back : Option Slot) : Option StepEnd :=
  match s.readReady tid 0 (s.tiller tid).count with
  | (.error f, s1) => some (.fault f .spillRd s1)
  | (.ok none, _) => none
  | (.ok (some pre), s1) =>
    let t := s1.tiller tid
    let e := lget Slot.blank pre (pre.length - 1)
    let m := e.mask &&& t.lanes
    let u := { t with head := if t.depth = 0 then 0 else (t.head + 1) % t.depth, count := t.count - 1 + back.toList.length }
    let ws := changedEntries 1 pre 0 (pre.take (pre.length - 1)) ++ back.toList.map fun q => (t.count - 1, q)
    match s1.devPuts tid .spillWr (ws.map fun w => (u.entryVa w.1, w.2.entryBytes)) with
    | (.error f, s2) => some (.fault f .spillWr s2)
    | (.ok s2, _) => some (.ok (s2.setTiller tid (u.setSlot isB (if m = 0 then x.vacate else { e with mask := m }))))

/-- One step of a pass: the state it leaves, and whether it changed anything; a step without effect leaves the state as it is. `skip` is the slot of a path that issues a JSET and does not arrive. -/
def State.settleOne (s : State) (tid : Nat) (ph : SettlePhase) (skip : Option Bool) : StepEnd × Bool :=
  let t := s.tiller tid
  match ph with
  | .keys => (.ok s, false)
  | .arrivals =>
    let a := if skip = some false then t.slotA else t.slotA.arrive
    let b := if skip = some true then t.slotB else t.slotB.arrive
    (.ok (s.setTiller tid { t with slotA := a, slotB := b }), a != t.slotA || b != t.slotB)
  | .merges [] => (.ok s, false)
  | .merges ((j, o) :: _) =>
    (match s.readPaths tid with
    | (.error f, s1) => (.fault f .spillRd s1, true)
    | (.ok p, s1) =>
      match p.merge j o with
      | none => (.ok s, false)
      | some q => (s1.putPaths tid (p.l.length - q.l.length) p.l q, true))
  | .loadA | .loadB =>
    let isB := ph == .loadB
    let x := t.slot isB
    if x.st == .ready then (.ok s, false)
    else
      match s.loadReady tid isB x (if x.st = .empty then none else some x) with
      | some e => (e, true)
      | none => (.ok s, false)

/-- What follows a step of a pass, with the keys its paths stand under where the merges come next; none where the pass is over. -/
def State.settleNext (s : State) (tid : Nat) (ph : SettlePhase) : Except DevFault (Option SettlePhase) × State :=
  match ph with
  | .arrivals => (.ok (some .keys), s)
  | .keys =>
    (match s.readPaths tid with
    | (.ok p, _) => (.ok (some (.merges p.keys)), s)
    | (.error f, s1) => (.error f, s1))
  | .merges (_ :: k :: ks) => (.ok (some (.merges (k :: ks))), s)
  | .merges [_] | .merges [] => (.ok (some .loadA), s)
  | .loadA => (.ok (some .loadB), s)
  | .loadB => (.ok none, s)

/-- How Settle ends: done, or with an entry access that does not go through at a step of a pass, which is taken up again from there (R175). -/
inductive SettleEnd where
  | ok (s : State)
  | fault (f : DevFault) (acc : Access) (ph : SettlePhase) (ch : Bool) (s : State)

/-- Settle from a step of a pass on; `ch` says whether the pass has changed anything, and `fuel` bounds the steps. -/
def State.settleFrom (s : State) (tid : Nat) (skip : Option Bool) (ph : SettlePhase) (ch : Bool) : Nat → SettleEnd
  | 0 => .ok s
  | fuel + 1 =>
    match s.settleOne tid ph skip with
    | (.fault f acc s1, _) => .fault f acc ph ch s1
    | (.ok s1, c) =>
      match s1.settleNext tid ph with
      | (.error f, s2) => .fault f .spillRd ph ch s2
      | (.ok (some ph1), s2) => s2.settleFrom tid skip ph1 (ch || c) fuel
      | (.ok none, s2) => if ch || c then s2.settleFrom tid skip .arrivals false fuel else .ok s2

/-- More steps than Settle takes for a list of this length: every pass that changes something ends a path, parks one or loads one. -/
def settleFuel (count : Nat) : Nat := (count + 8) * (count + 8) * 8

/-- The join points of a path as the device holds them (R170). -/
def Slot.norm (p : Slot) : Slot := { p with join := normJoin p.join, outr := normJoin p.outr }

/-- A path with no lane ceases to exist (R170). -/
def Slot.trim (p : Slot) : Slot := if p.st ≠ .empty ∧ p.mask = 0 then p.vacate else p

end Sys2Proof.Machine
end

