-- ==== Sys2Proof/Machine/Ops.lean ====
section
/-! DEFINITION. The operations the instructions share: taking a trap (R332) and returning from one (R336), Settle and the list steps as a tiller runs them, the end of an instruction and of a clause, arrival counters, and landings. -/

namespace Sys2Proof.Machine

/-! ## Headers (R23, R30) -/

/-- N of a header. -/
def hdrN (h : Word) : Nat := (h.extractLsb' 0 4).toNat
/-- K of a header. -/
def hdrK (h : Word) : Nat := (h.extractLsb' 4 2).toNat
/-- U of a header. -/
def hdrU (h : Word) : Nat := (h.extractLsb' 6 2).toNat
/-- WMASK of a header. -/
def hdrW (h : Word) : BitVec 16 := h.extractLsb' 8 16

/-- The physical line of a code address, with the TLBs filled; a coded page faults (R110). -/
def State.codeLine (s : State) (tid : Nat) (pc : Word) : Except DevFault LineRef × State :=
  let va := (s.launchOf tid).pkt.codeBase + pc.toNat
  if 2 ^ 56 ≤ va then (.error (.acc .range va), s)
  else
    match s.devLine tid 4 va .fetch with
    | (.error f, s1) => (.error f, s1)
    | (.ok r, s1) =>
      if r.coded then (.error (.acc .coded va), s1)
      else if s1.bad r.pa then (.error (s1.dataFault r va), s1)
      else (.ok r, s1)

/-- A word of code; the steward may fetch one from the control space, whose registers it then reads (R368).
DESIGN CHOICE (log 96): where a program writes its own code, the word is the one that its home holds as the clause is picked, although R30 allows an older one too. -/
def State.codeWord (s : State) (tid : Nat) (pc : Word) : Except DevFault Word × State :=
  match s.codeLine tid pc with
  | (.error f, s1) => (.error f, s1)
  | (.ok r, s1) =>
    let a := r.key.base + ((s1.launchOf tid).pkt.codeBase + pc.toNat) % 64
    (.ok (if physKind r.pa = .control then bv 32 (s1.ctlWord (a % 2 ^ 32 / 8 * 8) / 2 ^ (8 * (a % 8))) else readWord s1.mem a), s1)

/-- The lines of `n` words of code from an address on, each once, where they translate. -/
def State.codeLines (s : State) (tid : Nat) (pc : Word) (n : Nat) : List LineRef :=
  (List.range n).foldl (fun l k =>
    match (s.codeLine tid (pc + bv 32 (4 * k))).1 with
    | .ok r => if physKind r.pa = .control then l else addNew l r
    | .error _ => l) []

/-- A fetch of `n` words of code at the homes of their lines, which waits where a contract changes or the host is called back (R254, R259, R260, R366). -/
def State.codeTouch (s : State) (tid : Nat) (pc : Word) (n : Nat) : State :=
  (s.codeLines tid pc n).foldl (fun st r =>
    ((st.reach r.key.base).homeAccess (st.home r.pa) r.pa (s.tenantOf tid) (coreOf tid) (.fetch none) false false).2) s

/-- N and K of the clause at a code address, as its header stands; 0 where that cannot be read (log 84). -/
def State.headNK (s : State) (tid : Nat) (pc : Word) : Nat × Nat :=
  match (s.codeWord tid pc).1 with
  | .ok h => (hdrN h, hdrK h)
  | .error _ => (0, 0)

/-! ## Taking a trap -/

/-- The clause a trap interrupts: its header's address, N, K and PC slot (R332). -/
structure Place where
  hdr : Word
  n : Nat
  k : Nat
  slotB : Bool
  deriving DecidableEq, Repr

/-- A clause that a slot's path has not begun, at its header (R332). -/
def State.placeAt (s : State) (tid : Nat) (b : Bool) (pc : Word) : Place := ⟨pc, (s.headNK tid pc).1, (s.headNK tid pc).2, b⟩

/-- The clause under way; without one, the header the slot that issued last would issue next. -/
def State.place (s : State) (tid : Nat) : Place :=
  let t := s.tiller tid
  match t.run with
  | some r => ⟨r.hdr, r.n, r.cls, r.slotB⟩
  | none => s.placeAt tid t.lastB (t.slot t.lastB).pc

/-- The state a trap leaves once the spill list stands in memory (R332). A header that has not issued leaves the slot that issued last as it was (R172). -/
def Tiller.enter (t : Tiller) (kind : Nat) (i0 i1 tpc : Word) (widx : Nat) (pl : Place) (vec : Word) : Tiller :=
  let sl := t.slot pl.slotB
  let t1 := if sl.st = .empty then t else t.setSlot pl.slotB { sl with pc := pl.hdr }
  { t1 with
    tcause := tcauseOf kind, tinfo0 := i0, tinfo1 := i1, tpc := tpc, widx := widx
    cln := pl.n, clk := pl.k, rslot := pl.slotB, hnd := true, hpc := vec, run := none
    lastB := if widx = 0 ∧ kind ≠ 0x0D then t.lastB else pl.slotB
    block := .none, step := none, parkP := false, again := false, vtag := none }

/-- A trap outside handler mode, from the writing of the list on (R329, R332). The list stands in memory already, so writing it is its translation. -/
def State.enterTrap (s : State) (tid kind : Nat) (i0 i1 tpc : Word) (widx : Nat) (pl : Place) : State :=
  let t := s.tiller tid
  let vec : Word := bv 32 (lget 1 (s.launchOf tid).pkt.trapv (vecOf kind))
  if vec.getLsbD 0 then
    (s.setTiller tid { t with tcause := tcauseOf kind, tinfo0 := i0, tinfo1 := i1, tpc := tpc }).killTiller tid 0 0
  else
    match s.devLines tid .spillWr (t.entryVas 0 t.count) with
    | (.ok _, s1) | (.error (.data ..), s1) => s1.setTiller tid (t.enter kind i0 i1 tpc widx pl vec)
    | (.error (.acc f va), s1) =>
      s1.spillFault tid f va .spillWr (some (.trap kind i0 i1 tpc widx pl.hdr pl.n pl.k pl.slotB)) tpc

/-- A trap of a tiller: entry to its vector, or a double fault in handler mode (R332, R334). -/
def State.trap (s : State) (tid kind : Nat) (i0 i1 tpc : Word) (widx : Nat) : State :=
  let t := s.tiller tid
  if t.hnd then s.killTiller tid kind tpc else s.enterTrap tid kind i0 i1 tpc widx (s.place tid)

/-- The code address of the word that is issuing. -/
def Tiller.wordPc (t : Tiller) : Word :=
  match t.run with
  | some r => r.hdr + bv 32 (4 * r.idx)
  | none => if t.hnd then t.hpc else (t.slot t.lastB).pc

/-- The index of the word that is issuing. -/
def Tiller.wordIdx (t : Tiller) : Nat :=
  match t.run with
  | some r => r.idx
  | none => 0

/-- The word that is issuing, as fetched. -/
def Tiller.word (t : Tiller) : Word :=
  match t.run with
  | some r => lget 0 r.words r.idx
  | none => 0

/-- A precise fault of the word that is issuing (R332). -/
def State.trapHere (s : State) (kind : Nat) (i0 i1 : Word) : State :=
  s.trap s.cur kind i0 i1 s.tl.wordPc s.tl.wordIdx

/-- TINFO0 of an illegal word or clause (R53). -/
def illegalInfo (opc reason widx : Nat) : Word := bv 32 (opc + 256 * reason + 2 ^ 16 * widx)

/-- An illegal-instruction fault of the word that is issuing (R51, R53). -/
def State.illegal (s : State) (reason : Nat) : State :=
  s.trapHere 0x01 (illegalInfo (fOp s.tl.word).toNat reason s.tl.wordIdx) s.tl.word

/-! ## Settle as a tiller runs it -/

/-- A data-error fault of a tiller, for a line or for a held block (R278, R330). -/
def State.dataTrap (s : State) (tid va : Nat) (held : Bool) (pc : Word) (widx : Nat) : State :=
  s.trap tid (if held then 0x10 else 0x0F) (info0Of va) (info1Of va 0 0) pc widx

/-- What comes of Settle: its end, or a spill access that faults, which parks the tiller or ends its paths; an uncorrectable error is a data-error fault (R175, R178). `pc` is the instruction that it follows. -/
def State.settled (s : State) (tid : Nat) (skip : Option Bool) (pc : Word) (e : SettleEnd) : State :=
  match e with
  | .ok s1 => (s1.setTiller tid (s1.tiller tid).checkExit).onExit tid
  | .fault (.acc f va) acc ph ch s1 => s1.spillFault tid f va acc (some (.settle skip ph ch pc)) pc
  | .fault (.data va held) _ _ _ s1 => s1.dataTrap tid va held (s.tiller tid).wordPc (s.tiller tid).wordIdx

/-- Settles a tiller's paths after an instruction (R178). -/
def State.settle (s : State) (tid : Nat) (skip : Option Bool) (pc : Word) : State :=
  s.settled tid skip pc (s.settleFrom tid skip .arrivals false (settleFuel (s.tiller tid).count))

/-! ## The end of an instruction and of a clause -/

/-- What the end of a clause leaves: its GAP, its GIVE and the slot it issued from (R189, R190). A last word that has issued and waited keeps the GAP of the cycle in which it issued. -/
def State.clauseOver (s : State) (demote : Bool) : State :=
  let t := s.tl
  match t.run with
  | none => s
  | some r =>
    let h := lget 0 r.words 0
    s.setTl { t with
      run := none
      again := false
      lastB := if r.handler then t.lastB else r.slotB
      gapEnd := s.gapFrom s.cur
      demoted := t.demoted || demote || h.getLsbD 27 }

/-- The fall-through address of the clause under way (R24). -/
def Tiller.fall (t : Tiller) : Word :=
  match t.run with
  | some r => r.hdr + bv 32 (4 * (r.n + 1))
  | none => t.wordPc + 4

/-- The PC of the issuing path, or of the handler path. -/
def Tiller.setPc (t : Tiller) (pc : Word) : Tiller :=
  if t.hnd then { t with hpc := pc }
  else t.setSlot t.inB { t.slot t.inB with pc := pc }

/-- The end of a clause, by the instruction at `ipc`, that goes on at an address; outside handler mode Settle follows (R176, R178). -/
def State.endFrom (s : State) (ipc pc : Word) (p demote : Bool) : State :=
  let t := s.tl
  let s1 := (s.setTl { t.setPc pc with parkP := p }).clauseOver demote
  if t.hnd then s1 else s1.settle s.cur none ipc

/-- The end of a clause by the word that is issuing. -/
def State.endAt (s : State) (pc : Word) (p demote : Bool) : State := s.endFrom s.tl.wordPc pc p demote

/-- What follows a word that has issued: the next repeat, the next word, or the end of its clause (R31, R142, R185). -/
def State.finish (s : State) (p : Bool) : State :=
  let t := s.tl
  match t.run with
  | none => s
  | some r =>
    if r.rep && Nat.blt 1 t.repcnt then
      s.setTl { t with repcnt := t.repcnt - 1, parkP := p, again := false }
    else
      let next := r.idx + (if opTakesLit (fOp (lget 0 r.words r.idx)).toNat then 2 else 1)
      let u := { t with run := some { r with idx := next, rep := false }, repcnt := if r.rep then 0 else t.repcnt, parkP := p }
      if Nat.ble next r.n then s.setTl { u with again := false } else (s.setTl u).endFrom t.wordPc t.fall p false

/-! ## Returning from a trap -/

/-- RTE (R336) but for the registers a resume reads from the frame. After a resume at a header, that header issues next (R172, R332).
DESIGN CHOICE (log 101): a JOIN or OUTR that a handler has written as another encoding of none reads as joinNone from here on, in an empty slot too. -/
def State.returnFrom (s : State) : State :=
  let pc := s.tl.wordPc
  let s1 := s.clauseOver false
  let t := s1.tl
  let a := t.slotA.norm.trim
  let b := { t.slotB.norm with mask := t.slotB.mask &&& ~~~t.slotA.mask }.trim
  let live := t.lanes ||| (if a.st = .empty then 0 else a.mask) ||| (if b.st = .empty then 0 else b.mask)
  let t1 := { t with hnd := false, slotA := a, slotB := b, lanes := live
                     lastB := if t.tcause.extractLsb' 0 8 = 0x12 then (t.rslot == (t.widx != 0)) else t.lastB }
  let x := t1.slot t1.rslot
  let off := (t1.tpc - x.pc).toNat
  let t2 :=
    if x.st ≠ .ready then t1
    else if t1.widx = 0 then t1.setSlot t1.rslot { x with pc := t1.tpc }
    else if 4 ≤ off ∧ off ≤ 4 * t1.cln then
      { t1 with run := some ⟨x.pc, t1.cln, [], off / 4, t1.rslot, t1.clk, false, Nat.blt 0 t1.repcnt⟩ }
    else t1.setSlot t1.rslot { x with pc := x.pc + bv 32 (4 * (t1.cln + 1)) }
  let mid := t2.run.isSome
  (s1.setTl t2).settle s.cur (if mid then some t1.rslot else none) pc

/-! ## Arrival counters and landings -/

/-- A counter raised (R211). -/
def Tiller.incCtr (t : Tiller) (c : Nat) : Tiller := { t with a := tput t.a c (t.ctr c + 1) }

/-- A WAIT.a whose counter has come down to its threshold is released: its word, which has issued, goes on (R185, R212). -/
def Tiller.wakeA (t : Tiller) : Tiller :=
  match t.block with
  | .waitA c thr _ => if Nat.ble (t.ctr c) thr then { t with block := .none, again := true } else t
  | .none | .waitB .. | .fault .. => t

/-- A counter lowered; a WAIT.a it satisfies is released (R211, R212). -/
def Tiller.dropCtr (t : Tiller) (c : Nat) : Tiller := ({ t with a := tput t.a c (t.ctr c - 1) }).wakeA

/-- A register and the value that lands in it. -/
def Tiller.putReg (t : Tiller) : RegVal → Tiller
  | .s r x => t.ws r x
  | .v r x => t.wv r x
  | .m r x => t.wm r x

/-- The word of a tiller that has issued and waited goes on: it takes no cycle of its own (R185, log 83). -/
def State.goesOn (s : State) (tid : Nat) : State := if (s.tiller tid).again && !s.turns.contains (.tiller tid) then s.pushTurn (.tiller tid) else s

/-- An operation that has landed or performed: its registers, its flags, its counter, and the fences, the slots and the word that waited for it (R74, R126, R211, R213). The word of a SYS operation ends with it. -/
def State.land (s : State) (id : Nat) (vals : List RegVal) (flags : Flags) : State :=
  let f := s.flight id
  let t := s.tiller f.tid
  let t1 := (vals.foldl Tiller.putReg t).delPend f.regs
  let t2 := t1.orFlags flags
  let t3 := match f.ctr with
    | some c => t2.dropCtr c
    | none => t2
  let s1 := (((s.setTiller f.tid t3).delFlight id).performed id 5).sendAll f.core
  if f.kind.isSys then s1 else s1.goesOn f.tid

/-- The tiller's own change, then the end of its instruction. -/
def State.done (s : State) (t : Tiller) (p : Bool) : State := (s.setTl t).finish p

end Sys2Proof.Machine
end

