-- ==== Sys2Proof/Machine/Flags.lean ====
section
/-! DEFINITION. TSTAT and the flags (R73 to R75, R331), and results of many lanes with their flags. -/

namespace Sys2Proof.Machine

/-- TSTAT: the flags, and where the interrupted point lies (R73, R331). -/
def Tiller.tstat (t : Tiller) : Word :=
  bv 32 (t.flags.toNat + 2 ^ 8 * (t.widx % 16) + 2 ^ 12 * (t.cln % 16) + 2 ^ 16 * (t.clk % 4) + 2 ^ 18 * b2n t.rslot + 2 ^ 19 * b2n t.hnd)

/-- TSTAT written: bits 6:0 alone (R75). -/
def Tiller.setTstat (t : Tiller) (x : Word) : Tiller := { t with flags := x.extractLsb' 0 7 }

/-- The results of the 32 lanes, each with its flags. -/
abbrev LaneResults := List (Nat × Flags)

/-- A function of the lane number at every lane. -/
def eachLane (f : Nat → Nat × Flags) : LaneResults := lanes32.map f

/-- The flags of the active lanes together (R74). -/
def activeFlags (m : Word) (rs : LaneResults) : Flags :=
  (rs.zipIdx.filter fun e => isActive m e.2).foldl (fun fl e => fl ||| e.1.2) 0

/-- The low words of results. -/
def loWords (rs : LaneResults) : List Word := rs.map fun r => bv 32 r.1

/-- The high words of 64-bit results. -/
def hiWords (rs : LaneResults) : List Word := rs.map fun r => bv 32 (r.1 / 2 ^ 32)

/-- Results of the two 16-bit halves of a lane, packed (R148). -/
def packHalves (lo hi : Nat × Flags) : Nat × Flags := (lo.1 % 2 ^ 16 + 2 ^ 16 * (hi.1 % 2 ^ 16), lo.2 ||| hi.2)

end Sys2Proof.Machine
end

