-- ==== Sys2Proof/Machine/Operands.lean ====
section
/-! DEFINITION. Operand forms: widths (R36), addresses (R34, R37, R38), the tags and lanes of a vector result (R117, R120) and the general-slot check of its registers (R122, R123). -/

namespace Sys2Proof.Machine

/-! ## Widths -/

/-- The bytes of an access width (R36). -/
def Width.size : Width → Nat
  | .bz | .bs => 1
  | .hz | .hs => 2
  | .w | .uw => 4
  | .d => 8
  | .q => 16

/-- The registers of an access width (R36). -/
def Width.regs : Width → Nat
  | .d => 2
  | .q => 4
  | .bz | .bs | .hz | .hs | .w | .uw => 1

/-- A value of a width as it stands in a lane, extended (R36). -/
def Width.extend (wd : Width) (n : Nat) : Nat :=
  match wd with
  | .bs => (((bv 8 n).signExtend 32)).toNat
  | .hs => (((bv 16 n).signExtend 32)).toNat
  | .bz | .hz | .w | .uw | .d | .q => n

/-- The destination registers of a transfer. -/
def destRegs (t : VNum) (n : Nat) : List VNum := (List.range n).map fun k => t + bv 7 k

/-- The low bytes of a lane's register group, of a width (R36). -/
def Tiller.laneBytes (t : Tiller) (r : VNum) (wd : Width) (i : Nat) : List Byte :=
  let words := (destRegs r (Width.regs wd)).map fun q => (t.rv q).lane i
  (words.flatMap fun w => bytesOfNat w.toNat 4).take (Width.size wd)

/-! ## Lanes -/

/-- The active lanes, in order. -/
def activeLanes (m : Word) : List Nat := lanes32.filter fun i => isActive m i

/-- The address of a lane's access under S0 (R37), modulo 2^64. -/
def Tiller.addrOf (t : Tiller) (a : Addr) (wd : Width) (i : Nat) : Nat :=
  match a with
  | .sc r => ((t.rp r).toNat + (if wd = .uw then 0 else i * Width.size wd)) % 2 ^ 64
  | .vec r => lget 0 (t.rvPair r) i

/-- The base pair and offset of a literal (R34). -/
def Tiller.litAddr (t : Tiller) (lit : Word) : Nat :=
  let base : DWord := if litBase lit = 0 then 0 else t.rp (litBase lit)
  (base + (lit.extractLsb' 0 26).signExtend 64).toNat

/-- The address of a lane's access in an indexed form (R37). -/
def Tiller.addrX (t : Tiller) (a : Addr) (wd : Width) (lit : Word) (i : Nat) : Nat :=
  match a with
  | .sc r => (t.litAddr lit + ((t.rs r).signExtend 64).toNat + (if wd = .uw then 0 else i * Width.size wd)) % 2 ^ 64
  | .vec r => (t.litAddr lit + (((t.rv r).lane i).signExtend 64).toNat) % 2 ^ 64

/-- The address of a lane of an atomic or a prefetch (R38, R285). -/
def Tiller.addrL (t : Tiller) (a : VNum) (lit : Word) (i : Nat) : Nat :=
  (t.litAddr lit + (((t.rv a).lane i).signExtend 64).toNat) % 2 ^ 64

/-- The scratchpad offset of a lane, without wrapping (R37, R209). -/
def Tiller.offOf (t : Tiller) (a : Addr) (wd : Width) (i : Nat) : Nat :=
  match a with
  | .sc r => (t.rs r).toNat + (if wd = .uw then 0 else i * Width.size wd)
  | .vec r => ((t.rv r).lane i).toNat

/-- The addresses of the active lanes. -/
def laneAddrs (m : Word) (f : Nat → Nat) : List (Nat × Nat) := (activeLanes m).map fun i => (i, f i)

/-! ## Vector results -/

/-- A vector result under the active mask: U or G when the mask is full, else G with the inactive lanes kept (R117, R120). -/
def Tiller.vresult (t : Tiller) (d : VNum) (uni : Bool) (vals : List Word) : VNum × VReg :=
  (d, merged t.act (t.rv d) (if uni then .u (lget 0 vals 0) else .g vals) vals)

/-- A vector result whose tag under a full mask is given. -/
def Tiller.vtagged (t : Tiller) (d : VNum) (full : VReg) : VNum × VReg :=
  (d, merged t.act (t.rv d) full full.lanes)

/-- A 64-bit result in a pair. -/
def Tiller.vpair (t : Tiller) (d : VNum) (uni : Bool) (rs : LaneResults) : List (VNum × VReg) :=
  [t.vresult d uni (loWords rs), t.vresult (vHi d) uni (hiWords rs)]

/-- Registers with their contents, written. -/
def Tiller.wvs (t : Tiller) (ds : List (VNum × VReg)) : Tiller := ds.foldl (fun x e => x.wv e.1 e.2) t

/-- The lowest register that would become G, where the resulting G count exceeds the grant (R122, R123). -/
def Tiller.gOver (t : Tiller) (ds : List (VNum × VReg)) : Option VNum :=
  if Nat.ble (t.wvs ds).gCount t.ng then none
  else
    match ds.filter fun e => e.2.isG && !(t.rv e.1).isG with
    | [] => none
    | e :: rest => some (rest.foldl (fun q x => if x.1.toNat < q.toNat then x.1 else q) e.1)

/-- TINFO0 of a general-slot overflow (R123). -/
def gInfo (r : VNum) (g ng : Nat) : Word := bv 32 (r.toNat + 2 ^ 8 * g + 2 ^ 16 * ng)

/-- A general-slot overflow fault of the word that is issuing (R123). -/
def State.gTrap (s : State) (r : VNum) : State :=
  s.trapHere 0x03 (gInfo r s.tl.gCount s.tl.ng) s.tl.word

/-- The end of an instruction that writes vector registers: the general-slot check, then the registers and the flags (R74, R123). -/
def State.writeV (s : State) (ds : List (VNum × VReg)) (fl : Flags) (p : Bool) : State :=
  match s.tl.gOver ds with
  | some r => s.gTrap r
  | none => s.done ((s.tl.wvs ds).orFlags fl) p

/-- Whether every register of a list is tagged U (R120). -/
def Tiller.allU (t : Tiller) (rs : List VNum) : Bool := rs.all fun r => (t.rv r).isU

/-- A lane-wise result of 32 bits with the tag of the floating-point rows (R120). -/
def State.laneF (s : State) (d : VNum) (reads : List VNum) (f : Nat → Nat × Flags) (p : Bool) : State :=
  let rs := eachLane f
  s.writeV [s.tl.vresult d (s.tl.allU reads) (loWords rs)] (activeFlags s.tl.act rs) p

/-- A lane-wise result of 64 bits in a pair with the tag of the floating-point rows (R120). -/
def State.laneF64 (s : State) (d : VNum) (reads : List VNum) (f : Nat → Nat × Flags) (p : Bool) : State :=
  let rs := eachLane f
  s.writeV (s.tl.vpair d (s.tl.allU reads) rs) (activeFlags s.tl.act rs) p

/-- A lane-wise result of 32 bits that is always G (R120). -/
def State.laneG (s : State) (d : VNum) (f : Nat → Word) (p : Bool) : State :=
  s.writeV [s.tl.vresult d false (lanes32.map f)] 0 p

/-- A scalar result. -/
def State.writeS (s : State) (d : SReg) (x : Word) (p : Bool) : State := s.done (s.tl.ws d x) p

/-- A scalar pair result. -/
def State.writeP (s : State) (d : SReg) (x : DWord) (p : Bool) : State := s.done (s.tl.wp d x) p

/-- A mask result. -/
def State.writeM (s : State) (m : MReg) (x : Word) (p : Bool) : State := s.done (s.tl.wm m x) p

end Sys2Proof.Machine
end

