-- ==== Sys2Proof/Machine/Issue.lean ====
section
/-! DEFINITION. Fetching and checking a clause (R24 to R30), the repeats of REP (R142), what holds a word back (R16, R126, R211), and the word that issues next. -/

namespace Sys2Proof.Machine

/-! ## The registers an instruction reads or writes (R126) -/

def us (r : SReg) : List PReg := if r = 0 then [] else [.s r.toNat]
def up (r : SReg) : List PReg := us r ++ us (pairHi r)
def uv (r : VNum) : List PReg := [.v r.toNat]
/-- The registers of a wide role. -/
def uw (wide : Bool) (r : VNum) : List PReg := if wide then uv r ++ uv (vHi r) else uv r
def uq (r : VNum) (n : Nat) : List PReg := (destRegs r n).flatMap uv
def um (m : MReg) : List PReg := if m = 0 then [] else [.m m.toNat]
def uLit (lit : Word) : List PReg := if litBase lit = 0 then [] else up (litBase lit)

/-- An address whose scalar form is a pair, and its vector form too (R37). -/
def uAddrP : Addr → List PReg
  | .sc r => up r
  | .vec r => uw true r

/-- An address of one register (R37). -/
def uAddr : Addr → List PReg
  | .sc r => us r
  | .vec r => uv r

/-- Every register an instruction reads or writes; VTAG does not wait for its vector (R126, R145). -/
def Instr.uses : Instr → List PReg
  | .bz _ s _ | .bnz _ s _ | .call _ s _ | .jmpr _ s => us s
  | .bm _ m _ | .bmn _ m _ => um m
  | .srd _ d r => if r.is64 then up d else us d
  | .swr _ _ a | .sysNotify _ a => us a
  | .sysLaunch _ d a | .sysGrun _ d a | .sysRcbsync _ d a => us d ++ up a
  | .add _ d a b | .sub _ d a b | .mul _ d a b | .mulh _ _ d a b | .div _ _ d a b | .rem _ _ d a b
  | .and _ d a b | .or _ d a b | .xor _ d a b | .andn _ d a b | .shl _ d a b | .shr _ d a b | .sar _ d a b
  | .ror _ d a b | .min _ _ d a b | .max _ _ d a b | .cmp _ _ d a b | .sel _ d a b | .bfx _ d a b | .bfi _ d a b =>
    us d ++ us a ++ us b
  | .bitu _ _ d a | .addi _ d a _ | .andi _ d a _ | .ori _ d a _ | .shli _ d a _ | .movs _ d a => us d ++ us a
  | .add64 _ d a b | .sub64 _ d a b | .mul64 _ d a b => up d ++ up a ++ up b
  | .sh64 _ _ d a b => up d ++ up a ++ us b
  | .cmp64 _ _ d a b => us d ++ up a ++ up b
  | .movl _ d _ | .movsCnt _ d => us d
  | .movsLane _ d a _ => us d ++ uv a
  | .movsFrm _ d m => us d ++ um m
  | .movsTom _ m a => um m ++ us a
  | .vadd _ d a b | .vsub _ d a b | .vmul _ d a b | .vmulh _ _ d a b | .vand _ d a b | .vor _ d a b | .vxor _ d a b
  | .vshl _ d a b | .vshr _ d a b | .vsar _ d a b | .vmin _ _ d a b | .vmax _ _ d a b | .vbfx _ d a b
  | .vdot4 _ _ d a b | .shfl _ _ d a b | .cvtn _ _ d a b | .cvtw _ _ d a b | .fdot2 _ _ d a b => uv d ++ uv a ++ uv b
  | .vcmp _ _ m a b => um m ++ uv a ++ uv b
  | .vsel _ d a b m => uv d ++ uv a ++ uv b ++ um m
  | .vmov _ d a | .vmovG _ d a | .vaddi _ d a _ | .vbitu _ _ d a | .vred _ _ d a | .vscan _ _ d a
  | .frcpe _ d a | .frnd _ _ d a | .pwpe _ d a => uv d ++ uv a
  | .vmovSc _ d a | .vins _ d a _ => uv d ++ us a
  | .vidx _ d => uv d
  | .vaff _ d a b => uv d ++ us a ++ us b
  | .v64 _ f d a b => uw true d ++ uw true a ++ uw (match f with | .add | .sub => true | .shl | .shr | .sar => false) b
  | .mop _ _ d a b => um d ++ um a ++ um b
  | .mq _ _ d m => us d ++ um m
  | .lrefill _ t a _ wd m => uw wd t ++ us a ++ um m
  | .vsav _ t a _ _ | .vrst _ t a _ _ => uv t ++ up a
  | .vtag _ d _ => us d
  | .fadd _ ty d a b | .fsub _ ty d a b | .fmul _ ty d a b | .ffma _ ty d a b | .fmin _ ty d a b | .fmax _ ty d a b =>
    uw (ty == .f64) d ++ uw (ty == .f64) a ++ uw (ty == .f64) b
  | .fcmp _ f _ m a b => um m ++ uw f a ++ uw f b
  | .fsgn _ f g d a b => uw f d ++ uw f a ++ (match g with | .copysign => uw f b | .abs | .neg | .nabs => [])
  | .fdiv _ f d a b => uw f d ++ uw f a ++ uw f b
  | .fsqrt _ f d a | .cord _ f _ _ d a => uw f d ++ uw f a
  | .frnd64 _ _ d a => uw true d ++ uw true a
  | .fclass _ f d a => uv d ++ uw f a
  | .cvt _ c _ d a => uw c.wideD d ++ uw c.wideA a
  | .pwpl _ a b => us a ++ us b
  | .ldg _ t a _ wd _ | .stg _ t a _ wd _ => uq t (Width.regs wd) ++ uAddrP a
  | .ldgx _ t a _ wd _ lit | .stgx _ t a _ wd _ lit => uq t (Width.regs wd) ++ uAddr a ++ uLit lit
  | .lds _ t a _ wd | .sts _ t a _ wd | .ldx _ t a _ wd _ | .stx _ t a _ wd _ | .ldp _ t a _ wd _ => uq t (Width.regs wd) ++ uAddr a
  | .atom _ _ ty t a _ lit | .red _ _ ty t a _ lit => uw ty.is64 t ++ uv a ++ uLit lit
  | .cas _ wide t a _ lit => uq t (if wide then 4 else 2) ++ uv a ++ uLit lit
  | .prefL1 _ a lit | .prefGr _ a lit => uv a ++ uLit lit
  | .atoms _ _ ty t a _ => uw ty.is64 t ++ uv a
  | .arrive _ d a => us d ++ us a
  | .arriveX _ d a b | .arriveR _ d a b => us d ++ us a ++ us b
  | .waitB _ a b => us a ++ us b
  | .watch _ a b => up a ++ us b
  | .mcfg _ a | .mgrp _ _ a | .mdrn _ _ a => us a
  | .mlds _ _ a => up a
  | .mstr _ _ a b => up a ++ up b
  | .mclr _ _ a b => up a ++ us b
  | .mhist _ d a b => us d ++ up a ++ us b
  | .engFork _ _ a b => us a ++ us b
  | .engStat _ d _ => us d
  | _ => []

/-- The arrival counter an instruction raises (R211). -/
def Instr.counter : Instr → Option Ctr
  | .lrefill _ _ _ c _ _ | .vsav _ _ _ c _ | .vrst _ _ _ c _ | .ldg _ _ _ c _ _ | .ldgx _ _ _ c _ _ _
  | .stg _ _ _ c _ _ | .stgx _ _ _ c _ _ _ | .lds _ _ _ c _ | .sts _ _ _ c _ | .ldx _ _ _ c _ _ | .stx _ _ _ c _ _
  | .ldp _ _ _ c _ _ | .atom _ _ _ _ _ c _ | .red _ _ _ _ _ c _ | .cas _ _ _ _ c _ | .atoms _ _ _ _ _ c
  | .fenceAcq _ _ c | .fenceRel _ _ c | .fenceAr _ _ c | .mlds _ c _ | .mstr _ c _ _ | .mgrp _ c _ | .mclr _ c _ _
  | .mdrn _ c _ => some c
  | _ => none

/-- The destination of an instruction is a vector or a vector pair (R195). -/
def opVecDest (op : Nat) : Bool :=
  Nat.ble 0x30 op && Nat.ble op 0x64 &&
    !(op == 0x3C || op == 0x44 || op == 0x45 || op == 0x49 || op == 0x4A || op == 0x4B || op == 0x4C || op == 0x56 || op == 0x62)

/-- The debit of an instruction (R195). -/
def issueDebit (op cls : Nat) (m : Word) : Nat :=
  if opVecDest op then popc m * lget 0 [4, 12, 20, 24] cls else lget 0 [8, 16, 24, 32] cls

/-! ## REP (R50, R142) -/

/-- The step units of the D, A and B fields of an instruction: 2 for a pair, else 1 (R142).
DESIGN CHOICE (log 97): where the steps change what the fields are, as for a CVT whose B is stepped, the units are those of the word as it stands. -/
def Instr.repSteps : Instr → Nat × Nat × Nat
  | .add64 .. | .sub64 .. | .mul64 .. => (2, 2, 2)
  | .sh64 .. => (2, 2, 1)
  | .cmp64 .. => (1, 2, 2)
  | .v64 _ f _ _ _ => (2, 2, match f with | .add | .sub => 2 | .shl | .shr | .sar => 1)
  | .fadd _ ty .. | .fsub _ ty .. | .fmul _ ty .. | .ffma _ ty .. | .fmin _ ty .. | .fmax _ ty .. =>
    if ty = .f64 then (2, 2, 2) else (1, 1, 1)
  | .fcmp _ f .. => if f then (1, 2, 2) else (1, 1, 1)
  | .fsgn _ f .. | .fdiv _ f .. => if f then (2, 2, 2) else (1, 1, 1)
  | .fsqrt _ f .. | .cord _ f .. => if f then (2, 2, 1) else (1, 1, 1)
  | .frnd64 .. => (2, 2, 1)
  | .fclass _ f .. => (1, if f then 2 else 1, 1)
  | .cvt _ c .. => (if c.wideD then 2 else 1, if c.wideA then 2 else 1, 1)
  | _ => (1, 1, 1)

/-- Opcodes of the I format that REP may repeat (R41, R42). -/
def opIsI (op : Nat) : Bool := op == 0x2A || op == 0x2B || op == 0x2C || op == 0x2D || op == 0x3F

/-- Whether an opcode may stand after REP (R50). -/
def opRepeatable (op : Nat) : Bool :=
  Nat.ble 0x10 op && Nat.ble op 0x67 && op != 0x2E && op != 0x49 && op != 0x4A && op != 0x4B && op != 0x62

/-- The steps of a REP word: D, A and B. -/
def repFlags (r : Word) : Bool × Bool × Bool := (r.getLsbD 17, r.getLsbD 16, r.getLsbD 15)

/-- The count of a REP word (R142). -/
def repCount (r : Word) : Nat := (r.extractLsb' 18 6).toNat + 1

/-- The word of repeat j, or none where a stepped field leaves its range or is an immediate (R142). -/
def repWord (w r : Word) (g : Nat × Nat × Nat) (j : Nat) : Option Word :=
  let (sd, sa, sb) := repFlags r
  let d := (fD w).toNat + (if sd then j * g.1 else 0)
  let a := (fA w).toNat + (if sa then j * g.2.1 else 0)
  let b := (fB w).toNat + (if sb then j * g.2.2 else 0)
  if sb && opIsI (fOp w).toNat then none
  else if Nat.ble d 127 && Nat.ble a 127 && Nat.ble b 127 then
    some (w.extractLsb' 24 8 ++ bv 7 d ++ bv 7 a ++ bv 7 b ++ w.extractLsb' 0 3)
  else none

/-- Whether each of the repeats from j on is a legal instruction (R142). -/
def repsOk (hnd : Bool) (w r : Word) (g : Nat × Nat × Nat) (n : Nat) : Bool :=
  (List.range n).all fun j =>
    match repWord w r g j with
    | none => false
    | some x =>
      match decodeWord hnd x 0 with
      | .ok _ => true
      | .error _ => false

/-- Whether REP is used as R50 and R142 allow, the REP word and the word after it being given. -/
def repOk (hnd : Bool) (r w : Word) : Bool :=
  opRepeatable (fOp w).toNat &&
  (match decodeWord hnd w 0 with
  | .ok i => repsOk hnd w r (Instr.repSteps i) (repCount r)
  | .error _ => false)

/-- The largest class among the repeats of a word, an illegal one counting as class 0 (R29, R142). -/
def repCls (r w : Word) : Nat :=
  match decodeWord true w 0 with
  | .ok i => (List.range (repCount r)).foldl (fun k j =>
    match repWord w r (Instr.repSteps i) j with
    | none => k
    | some x =>
      match decodeWord true x 0 with
      | .ok y => Nat.max k (Instr.cls y)
      | .error _ => k) 0
  | .error _ => 0

/-! ## The checks of a clause (R26) -/

/-- The reasons one instruction word of a clause gives: `k` and `u` are the declared class and route, `last` whether no word follows it. -/
def wordReasons (hnd : Bool) (k u : Nat) (w lit : Word) (last hasLit : Bool) (next : Option Word) : List Nat :=
  let op := (fOp w).toNat
  let d := decodeWord true w lit
  let c := match d with
    | .ok i => if Nat.ble i.cls k then [] else [0x12]
    | .error _ => []
  let e := if opEnds op && !last then [0x13] else []
  let l := if opTakesLit op && !hasLit then [0x14] else []
  let r := match d with
    | .ok (.rep ..) =>
      (match next with
      | some x => (if repOk hnd w x then [] else [0x15]) ++ (if Nat.ble (repCls w x) k then [] else [0x12])
      | none => [0x15])
    | .ok _ | .error _ => []
  let o := match d, opRoute op with
    | .ok _, some x => if u = 3 ∨ x = u then [] else [0x16]
    | _, _ => []
  c ++ e ++ l ++ r ++ o

/-- The reasons the words of a clause give, in order. -/
def clauseReasons (hnd : Bool) (k u : Nat) : List Word → List Nat
  | [] => []
  | w :: rest =>
    if opTakesLit (fOp w).toNat then
      (match rest with
      | [] => wordReasons hnd k u w 0 true false none
      | l :: more => wordReasons hnd k u w l more.isEmpty true none ++ clauseReasons hnd k u more)
    else wordReasons hnd k u w 0 rest.isEmpty true rest.head? ++ clauseReasons hnd k u rest

/-- The lowest reason for which a clause fails its checks, or 0 (R26, R52). -/
def clauseCheck (hnd : Bool) (words : List Word) : Nat :=
  match words with
  | [] => 0
  | h :: body =>
    let rs := (if hdrN h = 0 then [0x10] else []) ++ (if h.extractLsb' 28 4 = 0 then [] else [0x11]) ++
      clauseReasons hnd (hdrK h) (hdrU h) body
    match rs with
    | [] => 0
    | r :: more => more.foldl Nat.min r

/-! ## Fetching (R30) -/

/-- `n` words of code from an address on.
DESIGN CHOICE (log 92): of a translation fault in one word and an uncorrectable error in another, the first in word order counts. -/
def State.codeWords (s : State) (tid : Nat) (pc : Word) : Nat → Except DevFault (List Word) × State
  | 0 => (.ok [], s)
  | n + 1 =>
    match s.codeWord tid pc with
    | (.error f, s1) => (.error f, s1)
    | (.ok w, s1) =>
      match s1.codeWords tid (pc + 4) n with
      | (.error f, s2) => (.error f, s2)
      | (.ok ws, s2) => (.ok (w :: ws), s2)

/-- A clause: its header and the words its N covers. -/
def State.fetchClause (s : State) (tid : Nat) (pc : Word) : Except DevFault (List Word) × State :=
  match s.codeWord tid pc with
  | (.error f, s1) => (.error f, s1)
  | (.ok h, s1) =>
    match s1.codeWords tid (pc + 4) (hdrN h) with
    | (.error f, s2) => (.error f, s2)
    | (.ok ws, s2) => (.ok (h :: ws), s2)

/-- The unit of an engine as a core names it: engine n of the core, or its cluster's range walker (R296). -/
def engineUnit (core n : Nat) : Nat := if n = 4 then 32 * clusterOf core + 4 else 8 * core + n

/-! ## What holds a tiller back (R16) -/

/-- Whether every counter a mask names is zero (R25). -/
def Tiller.zeroCtrs (t : Tiller) (m : BitVec 16) : Bool := t.a.all fun e => !(m.getLsbD e.1 && e.2 != 0)

/-- Whether a turn waits in a codec's queue for a job that its step needs (R111). -/
def State.turnHeld (s : State) (u : Turn) : Bool :=
  s.cores.any fun e => e.2.jobs.any fun j =>
    match j.kind with
    | .device v _ _ => v == u
    | .decode .. | .engine .. | .write .. | .busy => false

/-- Whether a tiller issues nothing, whatever its next word is (R16), the codec's queue apart. -/
def State.blocked (s : State) (tid : Nat) : Bool :=
  let t := s.tiller tid
  !t.live || t.exited || t.halt.holds || t.block != .none || t.step.isSome ||
    (t.parkP && !t.zeroCtrs 0xFFFF) || s.unsent tid ||
    s.flights.any fun e => e.2.tid == tid &&
      (match e.2.kind with
      | .watch | .sys .. | .hold _ | .vtag _ => true
      | .result _ | .load .. | .remote .. | .ldp .. | .atomic .. | .vrst .. | .store | .spadStore .. | .fence .. | .pref => false)

/-- Whether a tiller issues nothing, whatever its next word is: it is blocked, or its word waits for the codec (R16, R111). -/
def State.stuck (s : State) (tid : Nat) : Bool := s.blocked tid || s.turnHeld (.tiller tid)

/-- Whether an instruction waits for a pending register or a full counter (R126, R211). -/
def Tiller.waitsFor (t : Tiller) (i : Instr) : Bool :=
  (Instr.uses i).any (fun r => t.pend.contains r) ||
  (match Instr.counter i with
  | some c => Nat.ble 255 (t.ctr c.toNat)
  | none => false)

/-- Whether the issuing tiller's workgroup owns its core's array (R15). -/
def State.ownsArray (s : State) : Bool := (s.wg (s.wgIdOf s.cur)).accRows != 0

/-- Whether a FORK of an engine passes the checks that come before its wait: the engine exists, and the tiller may fork it (R296, R297, R334). -/
def Tiller.mayFork (t : Tiller) (n : Nat) : Bool := Nat.blt n 5 && !t.hnd && (n != 4 || t.steward)

/-- Whether an instruction finds the queue it enters full: the array's 16 operations (R233), or an engine's 3 waiting chains (R298).
One that fails a check that comes before does not wait (R238, R297). -/
def State.noRoom (s : State) (i : Instr) : Bool :=
  let core := coreOf s.cur
  match i with
  | .mlds .. | .mswp _ | .mstr .. | .mgrp .. | .mclr .. | .mhist .. | .mdrn .. =>
    s.ownsArray && isFull s.tl.act && Nat.ble 16 (s.array core).queue.length
  | .engFork _ e _ _ => s.tl.mayFork e.toNat && Nat.ble 3 (s.engine (engineUnit core e.toNat)).waiting.length
  | _ => false

/-! ## The next word -/

/-- The word at a place of a clause, in the repeat that is due (R142). -/
def Tiller.stepped (t : Tiller) (r : Run) : Word :=
  let w := lget 0 r.words r.idx
  if r.rep then
    let q := lget 0 r.words (r.idx - 1)
    match decodeWord true w 0 with
    | .ok i => (repWord w q (Instr.repSteps i) (repCount q - t.repcnt)).getD w
    | .error _ => w
  else w

/-- The instruction a clause issues next, or the reason its word is illegal. -/
def Tiller.nextInstr (t : Tiller) (r : Run) : Except Nat Instr :=
  decodeWord t.hnd (t.stepped r) (lget 0 r.words (r.idx + 1))

/-- Whether the deferred error of a load stops an instruction: it touches a register of the load, or its issue waited for the load's counter (R278).
The error of an array operation, which names no register, stops the next instruction whatever it is (R240). -/
def ErrMark.stops (e : ErrMark) (t : Tiller) (r : Run) (i : Instr) : Bool :=
  e.regs.isEmpty ||
  (Instr.uses i).any (fun x => e.regs.contains x) ||
  (match e.ctr with
  | none => false
  | some c => t.parkP || (r.idx == 1 && (hdrW (lget 0 r.words 0)).getLsbD c) ||
    (match i with
    | .waitA _ k _ => k.toNat == c
    | _ => false))

/-- The deferred error that stops an instruction, and the others. -/
def Tiller.deferred (t : Tiller) (r : Run) (i : Instr) : Option ErrMark := t.errs.find? fun e => e.stops t r i

/-- The fault of a deferred error, which it uses up (R278). -/
def State.deferTrap (s : State) (e : ErrMark) : State :=
  (s.setTl { s.tl with errs := s.tl.errs.filter fun x => x != e }).trapHere (if e.held then 0x10 else 0x0F) e.info0 e.info1

/-- What comes of the word a tiller is to issue: nothing yet, a trap, or an instruction with its debit paid. -/
inductive Issue where
  | stay (s : State)
  | run (i : Instr) (s : State)

/-- A tiller's next word (R185). -/
def State.issue (s : State) (r : Run) : Issue :=
  let t := s.tl
  match t.nextInstr r with
  | .error e =>
    .stay (match t.deferred r (.nop false) with
    | some m => s.deferTrap m
    | none => s.illegal e)
  | .ok i =>
    match t.deferred r i with
    | some e => .stay (s.deferTrap e)
    | none =>
      if t.waitsFor i || s.noRoom i then .stay s
      else
        let s1 := s.setTl { t with parkP := false }
        .run i (if t.again then s1 else s1.debit (coreOf s.cur) (issueDebit (fOp t.word).toNat i.cls t.act))

end Sys2Proof.Machine
end

