-- ==== Sys2Proof/Machine/Alu.lean ====
section
/-! DEFINITION. The integer functions of R127 to R141 and R164 to R167, and the start of the split-phase operations that compute their result at issue (R126, R147). -/

namespace Sys2Proof.Machine

/-- Bits 63:32 of a product (R127). -/
def mulHigh (sg : Bool) (a b : Word) : Word :=
  let x : DWord := if sg then a.signExtend 64 else a.zeroExtend 64
  let y : DWord := if sg then b.signExtend 64 else b.zeroExtend 64
  (x * y).extractLsb' 32 32

/-- The amount of a 32-bit shift (R127). -/
def amt (b : Word) : Nat := b.toNat % 32

def shl32 (a b : Word) : Word := a <<< amt b
def shr32 (a b : Word) : Word := a >>> amt b
def sar32 (a b : Word) : Word := a.sshiftRight (amt b)
def ror32 (a b : Word) : Word := a.rotateRight (amt b)
def min32 (sg : Bool) (a b : Word) : Word := if (if sg then a.slt b else a.ult b) then a else b
def max32 (sg : Bool) (a b : Word) : Word := if (if sg then a.slt b else a.ult b) then b else a

/-- The quotient rounded toward zero, with the borderline cases of R128. -/
def divide (sg : Bool) (a b : Word) : Word := if b = 0 then 0xFFFFFFFF else if sg then a.sdiv b else a / b

/-- The remainder of R128. -/
def remainder (sg : Bool) (a b : Word) : Word := if b = 0 then a else if sg then a.srem b else a % b

/-- The conditions of R129. -/
def condHolds {n : Nat} (c : Cond) (a b : BitVec n) : Bool :=
  match c with
  | .eq => a == b
  | .ne => a != b
  | .lt => a.slt b
  | .le => a.sle b
  | .ltu => a.ult b
  | .leu => a.ule b
  | .tst => a &&& b != 0

/-- The number of the lowest set bit, or 32 (R130, R141). -/
def lowBit (a : Word) : Nat := (lanes32.find? fun i => a.getLsbD i).getD 32

/-- The number of the highest set bit, or 32 (R141). -/
def highBit (a : Word) : Nat := (lanes32.reverse.find? fun i => a.getLsbD i).getD 32

/-- The bits in reverse order (R130). -/
def reverse32 (a : Word) : Word := maskOf fun i => a.getLsbD (31 - i)

/-- The operations of R130. -/
def bitFn (f : BitFn) (a : Word) : Word :=
  match f with
  | .popc => bv 32 (popc a)
  | .clz => bv 32 (if a = 0 then 32 else 31 - highBit a)
  | .ctz => bv 32 (lowBit a)
  | .brev => reverse32 a
  | .sext8 => (a.extractLsb' 0 8).signExtend 32
  | .sext16 => (a.extractLsb' 0 16).signExtend 32
  | .zext8 => (a.extractLsb' 0 8).zeroExtend 32
  | .zext16 => (a.extractLsb' 0 16).zeroExtend 32

/-- The field mask of R131. -/
def fieldMask (b : Word) : Word :=
  let len := bits b.toNat 5 5
  if len = 0 then 0xFFFFFFFF else (1#32 <<< len) - 1

def fieldExtract (a b : Word) : Word := (a >>> amt b) &&& fieldMask b
def fieldInsert (d a b : Word) : Word :=
  (d &&& ~~~(fieldMask b <<< amt b)) ||| ((a &&& fieldMask b) <<< amt b)

/-- The shifts of R132 and R136. -/
def sh64 (f : Sh64Fn) (a : DWord) (k : Nat) : DWord :=
  match f with
  | .shl => a <<< (k % 64)
  | .shr => a >>> (k % 64)
  | .sar => a.sshiftRight (k % 64)

/-- The operations of R136, the second operand as a number. -/
def v64 (f : V64Fn) (a b : Nat) : Nat :=
  match f with
  | .add => (a + b) % 2 ^ 64
  | .sub => (a + (2 ^ 64 - b % 2 ^ 64)) % 2 ^ 64
  | .shl => (sh64 .shl (bv 64 a) b).toNat
  | .shr => (sh64 .shr (bv 64 a) b).toNat
  | .sar => (sh64 .sar (bv 64 a) b).toNat

/-- The operations of R140. -/
def maskFn (f : MopFn) (a b : Word) : Word :=
  match f with
  | .and => a &&& b
  | .or => a ||| b
  | .xor => a ^^^ b
  | .andn => a &&& ~~~b
  | .not => ~~~a
  | .mov => a
  | .set => 0xFFFFFFFF
  | .clear => 0

/-- The queries of R141. -/
def maskQuery (f : MqFn) (a : Word) : Word :=
  match f with
  | .popc => bv 32 (popc a)
  | .first => bv 32 (lowBit a)
  | .last => bv 32 (highBit a)
  | .any => bv 32 (b2n (a != 0))
  | .all => bv 32 (b2n (isFull a))

/-! ## Tagged results (R120) -/

/-- A lane-wise function of two registers. -/
def lanesOf2 (f : Word → Word → Word) (a b : VReg) : List Word := lanes32.map fun i => f (a.lane i) (b.lane i)

/-- Base and stride of a register that is not G (R120). -/
def VReg.affine : VReg → Option (Word × Word)
  | .u x => some (x, 0)
  | .a b s => some (b, s)
  | .g _ => none

/-- VADD and VSUB: U, A or G by the operands' tags (R120). -/
def addLike (f : Word → Word → Word) (a b : VReg) : VReg :=
  match a, b with
  | .u x, .u y => .u (f x y)
  | _, _ =>
    match a.affine, b.affine with
    | some (p, s), some (q, t) => .a (f p q) (f s t)
    | _, _ => .g (lanesOf2 f a b)

/-- VMUL (R120). -/
def mulTagged (a b : VReg) : VReg :=
  match a, b with
  | .u x, .u y => .u (x * y)
  | .a p s, .u y => .a (p * y) (s * y)
  | .u y, .a p s => .a (p * y) (s * y)
  | .a .., .a .. | .g _, _ | _, .g _ => .g (lanesOf2 (· * ·) a b)

/-- VSHL (R120). -/
def shlTagged (a b : VReg) : VReg :=
  match a, b with
  | .u x, .u y => .u (shl32 x y)
  | .a p s, .u y => .a (shl32 p y) (shl32 s y)
  | .g _, _ | .u _, .a .. | .u _, .g _ | .a .., .a .. | .a .., .g _ => .g (lanesOf2 shl32 a b)

/-- VADDI (R120). -/
def addImmTagged (a : VReg) (x : Word) : VReg :=
  match a with
  | .u v => .u (v + x)
  | .a p s => .a (p + x) s
  | .g l => .g (l.map (· + x))

/-! ## Cross-lane functions (R164 to R167) -/

/-- The source lane of SHFL (R164). -/
def shflSrc (f : ShflFn) (i : Nat) (b : Word) : Nat :=
  let k := b.toNat % 32
  match f with
  | .idx => k
  | .up => if k ≤ i then i - k else i
  | .down => if i + k ≤ 31 then i + k else i
  | .xor => i ^^^ k

/-- Combine of R82 over values with flags.
DESIGN CHOICE (log 93): Combine(x, Empty) is x as it stands, so that a NaN in the only active lane of a reduction, or in lane 0 of a scan, keeps its bits: no operation propagates it (R70). -/
def combine (op : Nat → Nat → Nat × Flags) : Option (Nat × Flags) → Option (Nat × Flags) → Option (Nat × Flags)
  | some x, some y => let r := op x.1 y.1; some (r.1, r.2 ||| x.2 ||| y.2)
  | some x, none => some x
  | none, y => y

/-- One level of the tree (R82). -/
def treeLevel (op : Nat → Nat → Nat × Flags) : List (Option (Nat × Flags)) → List (Option (Nat × Flags))
  | x :: y :: rest => combine op x y :: treeLevel op rest
  | [x] => [x]
  | [] => []

/-- The tree of R82. -/
def tree (op : Nat → Nat → Nat × Flags) (l : List (Option (Nat × Flags))) : Nat → List (Option (Nat × Flags))
  | 0 => l
  | n + 1 => tree op (treeLevel op l) n

/-- An integer operation without flags. -/
def noFlags (f : Word → Word → Word) (x y : Nat) : Nat × Flags := ((f (bv 32 x) (bv 32 y)).toNat, 0)

/-- The operation and the identity of VRED (R165). -/
def vredOp (f : VredFn) : (Nat → Nat → Nat × Flags) × Nat :=
  match f with
  | .iadd => (noFlags (· + ·), 0)
  | .imin => (noFlags (min32 true), 0x7FFFFFFF)
  | .imax => (noFlags (max32 true), 0x80000000)
  | .iand => (noFlags (· &&& ·), 0xFFFFFFFF)
  | .ior => (noFlags (· ||| ·), 0)
  | .fadd => (fp32.add, 0x80000000)
  | .fmin => (fun x y => (fp32.minMax true x y, 0), 0x7F800000)
  | .fmax => (fun x y => (fp32.minMax false x y, 0), 0xFF800000)

/-- VRED of a register under a mask (R82, R165). -/
def vreduce (f : VredFn) (m : Word) (a : VReg) : Nat × Flags :=
  let op := vredOp f
  let l := lanes32.map fun i => if isActive m i then some ((a.lane i).toNat, (0 : Flags)) else none
  ((tree op.1 l 5).head?.getD none).getD (op.2, 0)

/-- One stage of the scan at distance d (R83). -/
def scanStage (op : Nat → Nat → Nat × Flags) (l : LaneResults) (d : Nat) : LaneResults :=
  lanes32.map fun i =>
    let y := lget (0, 0) l i
    if d ≤ i then
      let x := lget (0, 0) l (i - d)
      let r := op x.1 y.1
      (r.1, r.2 ||| x.2 ||| y.2)
    else y

/-- The operation, the identity and whether the scan is exclusive (R166). -/
def vscanOp (f : VscanFn) : (Nat → Nat → Nat × Flags) × Nat × Bool :=
  match f with
  | .iadd => (noFlags (· + ·), 0, false)
  | .xadd => (noFlags (· + ·), 0, true)
  | .imax => (noFlags (max32 true), 0x80000000, false)
  | .xmax => (noFlags (max32 true), 0x80000000, true)
  | .fadd => (fp32.add, 0x80000000, false)

/-- VSCAN of a register under a mask (R83, R166). -/
def vscanLanes (f : VscanFn) (m : Word) (a : VReg) : LaneResults :=
  let (op, ident, excl) := vscanOp f
  let l := lanes32.map fun i => if isActive m i then ((a.lane i).toNat, (0 : Flags)) else (ident, 0)
  let y := [1, 2, 4, 8, 16].foldl (scanStage op) l
  if excl then (ident, 0) :: y.dropLast else y

/-- Byte k of a word as an integer (R167). -/
def byteInt (sg : Bool) (x : Word) (k : Nat) : Int :=
  let b : Byte := x.extractLsb' (8 * k) 8
  if sg then b.toInt else (b.toNat : Int)

/-- VDOT4 in one lane (R167). -/
def dot4 (sg : Bool) (d a b : Word) : Word :=
  d + BitVec.ofInt 32 (([0, 1, 2, 3].map fun k => byteInt sg a k * byteInt sg b k).sum)

/-! ## Split-phase results -/

/-- The tag a register carries while its result is pending, over what it held (R121). -/
def VReg.pendingAs (new old : VReg) : VReg :=
  match new with
  | .g _ => .g old.lanes
  | .u _ => .u (old.lane 0)
  | .a _ _ => old

/-- Starts an operation whose result is known at issue and lands later: its registers are pending and carry their new tags (R121, R126). -/
def State.startResult (s : State) (row : LandRow) (out : List RegVal) (regs : List PReg) (ctr : Option Nat) (fl : Flags) (left : Nat) : State :=
  let t := s.tl
  let t1 := out.foldl (fun x v =>
    match v with
    | .v r n => x.wv r (n.pendingAs (t.rv r))
    | .s .. | .m .. => x) (t.addPend regs)
  let t2 := match ctr with
    | some c => t1.incCtr c
    | none => t1
  (s.setTl t2).addFlight { Flight.blank with
    tid := s.cur, core := coreOf s.cur, kind := .result row, ctr := ctr, regs := regs, out := out, flags := fl, left := left }

/-- Vector results of a split-phase function unit: the general-slot check, then the operation (R123, R147). -/
def State.splitV (s : State) (row : LandRow) (ds : List (VNum × VReg)) (fl : Flags) (left : Nat) (p : Bool) : State :=
  match s.tl.gOver ds with
  | some r => s.gTrap r
  | none => (s.startResult row (ds.map fun e => .v e.1 e.2) (ds.flatMap fun e => uv e.1) none fl left).finish p

end Sys2Proof.Machine
end

