-- ==== Sys2Proof/Machine/Release.lean ====
section
/-! DEFINITION. Releases and acquires (R213, R288, R290): the accesses a FENCE covers, what it waits for, and the releases that other instructions make first. -/

namespace Sys2Proof.Machine

/-- Whether a FENCE covers an operation (R213). -/
def FlightKind.covered : FlightKind → Bool
  | .result r =>
    (match r with
    | .spad | .atoms | .lrefill => true
    | .cord | .divf | .divi => false)
  | .load .. | .remote .. | .ldp .. | .atomic .. | .vrst .. | .vtag _ | .store | .spadStore .. => true
  | .fence .. | .pref | .watch | .sys .. | .hold _ => false

/-- Whether an operation lands in registers (R288). -/
def FlightKind.returns : FlightKind → Bool
  | .result _ | .load .. | .remote .. | .ldp .. | .atomic .. | .vrst .. | .vtag _ => true
  | .store | .spadStore .. | .fence .. | .pref | .watch | .sys .. | .hold _ => false

/-- Whether a write has reached its home and only the host's acknowledgement is out: it has performed below .sy (R288). An atomic performs at the home alone. -/
def LinkReq.atHome (l : LinkReq) : Bool :=
  !l.snoop && isHost l.req.pa &&
    (match l.req.op with
    | .write .. => true
    | .read .. | .param _ | .atomic .. | .watch _ | .prefGr => false)

/-- Whether every line of an operation has performed at its home; below .sy, that takes no acknowledgement of the host (R288). -/
def State.homePerformed (s : State) (id scope : Nat) (f : Flight) : Bool :=
  f.parts.all fun p => p.st == .done ||
    (Nat.blt scope 4 && s.links.any fun l => l.atHome && l.req.flight == some id && l.req.key == p.key)

/-- Whether an operation has performed at a scope: it has landed, or, where it returns nothing, its writes have issued at .tl, or performed at their homes (R207, R288). -/
def State.performedAt (s : State) (id scope : Nat) (f : Flight) : Bool :=
  !f.kind.returns && (scope = 0 ||
    (match f.kind with
    | .store => s.homePerformed id scope f
    | .result _ | .load .. | .remote .. | .ldp .. | .atomic .. | .vrst .. | .vtag _ | .spadStore .. | .fence .. | .pref | .watch | .sys .. | .hold _ => false))

/-- The covered accesses of a tiller that a release, an acquire or both wait for at a scope: those that have not performed at it, and those that have not landed (R213, R288). -/
def State.pendingAccesses (s : State) (tid scope : Nat) (rel acq : Bool) : List Nat :=
  s.flights.filterMap fun e =>
    let f := e.2
    if f.tid == tid && f.kind.covered && ((acq && f.kind.returns) || (rel && !s.performedAt e.1 scope f)) then some e.1 else none

/-- Whether a request is a write-back of a core. -/
def Req.backOf (r : Req) (core : Nat) : Bool :=
  r.src == core && r.flight.isNone &&
    (match r.op with
    | .write .. => true
    | .read .. | .param _ | .atomic .. | .watch _ | .prefGr => false)

/-- The write-backs of a core that have not performed at a scope, by number (R213, R288). -/
def State.pendingWrites (s : State) (core scope : Nat) : List Nat :=
  (s.transit.filter fun r => r.backOf core).map (·.id) ++
  s.slices.flatMap (fun e => (e.2.queue.filter fun r => r.backOf core).map (·.id)) ++
  (s.links.filter fun l => l.req.backOf core && !(Nat.blt scope 4 && l.atHome)).map (·.req.id) ++
  (s.core core).jobs.filterMap fun j =>
    match j.kind with
    | .write id none _ _ => some id
    | .write _ (some _) _ _ | .decode .. | .engine .. | .device .. | .busy => none

/-- The release part of R213: the state with the write-backs of a release at .sh or wider sent, and what it waits for. -/
def State.release (s : State) (tid scope : Nat) (acq : Bool) : State × List Nat :=
  let core := coreOf tid
  let acc := s.pendingAccesses tid scope true acq
  if scope < 2 then (s, acc)
  else
    let s1 := s.writeBackAll core (some tid) fun _ => true
    (s1, acc ++ s1.pendingWrites core scope)

/-- An instruction that makes a release first: its effect follows at once where nothing is outstanding, and otherwise when the release is made; its word has issued (R185, R190, R217, R370). -/
def State.releaseThen (s : State) (scope : Nat) (k : State → State) : State :=
  if s.tl.again then k s
  else
    let (s1, ws) := s.release s.cur scope false
    if ws.isEmpty then k s1
    else (s1.modTl fun t => { t with gapEnd := s.gapFrom s.cur }).addFlight { Flight.blank with tid := s.cur, core := coreOf s.cur, kind := .hold scope, waits := ws }

/-- The acquire part of R213 at a scope, once what it waits for has landed. -/
def State.acquire (s : State) (core scope : Nat) : State := if 2 ≤ scope then s.acquireL1 core else s

/-- The number of a scope (R45). -/
def scopeNum : Scope → Nat
  | .tl => 0
  | .wg => 1
  | .sh => 2
  | .dv => 3
  | .sy => 4

end Sys2Proof.Machine
end

