-- ==== Sys2Proof/Machine/Array.lean ====
section
/-! DEFINITION. The array's instructions (R237, R238, R241 to R248): their checks, and the operations they enter into the array queue (R233, R239). -/

namespace Sys2Proof.Machine

/-! ## Operand checks -/

/-- A tile-bounds failure: KIND and ENTRY (R238). -/
structure TileFault where
  kind : Nat
  entry : Nat
  deriving DecidableEq, Repr

/-- What the operand checks of an array operation give: the operation, or the first that fails (R238). -/
abbrev ArrCheck := Except TileFault ArrKind

/-- A failure of no single entry. -/
def tile (k : Nat) : ArrCheck := .error ⟨k, 0xFF⟩

/-- The checks of MLDS (R242). -/
def Wg.mlds (w : Wg) (plane ws : Nat) : ArrCheck :=
  let m := arrMode (cfgMode w.cfg)
  let sc := cfgScale w.cfg
  if plane % 16 ≠ 0 ∨ (sc ∧ ws % 16 ≠ 0) then tile 3
  else if w.spad < plane + m.plane ∨ (sc ∧ w.spad < ws + m.scales) then tile 2
  else .ok (.mlds plane ws)

/-- The checks of MSTR (R244). -/
def Wg.mstr (w : Wg) (a sa m row0 : Nat) : ArrCheck :=
  let d := arrMode (cfgMode w.cfg)
  let sc := cfgScale w.cfg
  if m = 0 ∨ 4096 < m then tile 4
  else if w.accRows < row0 + m then tile 1
  else if a % 16 ≠ 0 ∨ (sc ∧ sa % 16 ≠ 0) then tile 3
  else if w.spad < a + m * d.row ∨ (sc ∧ w.spad < sa + m * d.groups) then tile 2
  else .ok (.mstr a sa m row0)

/-- The entries of a group table (R245): ROWS, AROW and ACCROW. -/
def groupEntries (m : List Host.Cell) (o : Nat) : Nat → List (Nat × Nat × Nat)
  | 0 => []
  | n + 1 => (readNat m o 4, readNat m (o + 4) 4, readNat m (o + 8) 4) :: groupEntries m (o + 16) n

/-- The first entry that fails its checks, from entry e on (R245). -/
def entryFault (trows acc : Nat) : Nat → List (Nat × Nat × Nat) → Option TileFault
  | _, [] => none
  | e, (rows, arow, accrow) :: rest =>
    if 4096 < rows then some ⟨4, e⟩
    else if trows < arow + rows then some ⟨5, e⟩
    else if acc < accrow + rows then some ⟨1, e⟩
    else entryFault trows acc (e + 1) rest

/-- The checks of MGRP, its table as it stands (R245). -/
def Wg.mgrp (w : Wg) (o : Nat) : ArrCheck :=
  let d := arrMode (cfgMode w.cfg)
  let sc := cfgScale w.cfg
  let tbase := readNat w.bytes o 4
  let tsbase := readNat w.bytes (o + 4) 4
  let trows := readNat w.bytes (o + 8) 4
  let count := readNat w.bytes (o + 12) 4
  if o % 16 ≠ 0 then tile 3
  else if w.spad < o + 16 then tile 2
  else if trows = 0 ∨ 4096 < trows ∨ count = 0 ∨ 64 < count then tile 4
  else if w.spad < o + 16 + 16 * count then tile 2
  else if tbase % 16 ≠ 0 ∨ (sc ∧ tsbase % 16 ≠ 0) then tile 3
  else if w.spad < tbase + trows * d.row ∨ (sc ∧ w.spad < tsbase + trows * d.groups) then tile 2
  else
    let es := groupEntries w.bytes (o + 16) count
    let total := es.foldl (fun n e => n + e.1) 0
    match entryFault trows w.accRows 0 es with
    | some f => .error f
    | none =>
      if trows < total then tile 5
      else if w.accRows < total then tile 1
      else .ok (.mgrp tbase tsbase es)

/-- The checks of MCLR (R246). -/
def Wg.mclr (w : Wg) (row0 cnt src : Nat) : ArrCheck :=
  let count := bits cnt 0 13
  let load := cnt.testBit 31
  if count = 0 ∨ 4096 < count ∨ bits cnt 13 18 ≠ 0 then tile 4
  else if w.accRows < row0 + count then tile 1
  else if load ∧ src % 16 ≠ 0 then tile 3
  else if load ∧ w.spad < src + 1024 * count then tile 2
  else .ok (.mclr row0 count load src)

/-- The checks of MHIST (R247). -/
def Wg.mhist (w : Wg) (row0 count q : Nat) : ArrCheck :=
  if count = 0 ∨ 4096 < count then tile 4
  else if w.accRows < row0 + count then tile 1
  else .ok (.mhist row0 count (q % 2048))

/-- The checks of a drain's fields (R248). -/
def Drain.check (d : Drain) (spad acc : Nat) : Option TileFault :=
  let es := if d.fmt ≤ 1 then 4 else if d.fmt ≤ 3 then 2 else 1
  let scaled := Nat.ble 4 d.fmt
  if 6 < d.fmt ∨ !d.zeros ∨ d.rows = 0 ∨ 4096 < d.rows ∨ d.ncols = 0 ∨ 256 < d.col0 + d.ncols ∨ (scaled ∧ d.ncols % 48 ≠ 0) then some ⟨4, 0xFF⟩
  else if acc < d.row0 + d.rows then some ⟨1, 0xFF⟩
  else if d.dst % es ≠ 0 ∨ d.dstride % es ≠ 0 then some ⟨3, 0xFF⟩
  else if spad < d.dst + (d.rows - 1) * d.dstride + d.rowBytes ∨
      (scaled ∧ spad < d.sdst + (d.rows - 1) * d.sstride + d.ncols / 48) then some ⟨2, 0xFF⟩
  else if d.bias ∧ d.biasoff % 4 ≠ 0 then some ⟨3, 0xFF⟩
  else if d.bias ∧ spad < d.biasoff + 4 * (d.col0 + d.ncols) then some ⟨2, 0xFF⟩
  else none

/-- The checks of MDRN, its descriptor as it stands (R248). -/
def Wg.mdrn (w : Wg) (o : Nat) : ArrCheck :=
  if o % 16 ≠ 0 then tile 3
  else if w.spad < o + 48 then tile 2
  else
    let d := readBytes w.bytes o 48
    match (drainOf d).check w.spad w.accRows with
    | some f => .error f
    | none => .ok (.mdrn d)

/-! ## Entering the queue -/

/-- Whether an operation reads or writes scratchpad bytes. -/
def ArrKind.usesSpad : ArrKind → Bool
  | .mlds .. | .mstr .. | .mgrp .. | .mdrn _ => true
  | .mclr _ _ load _ => load
  | .mswp | .mhist .. => false

/-- The scratchpad accesses of a tiller to other allocations that have not performed: its own later array operations come after them (R235). -/
def State.spadPending (s : State) (tid : Nat) : List Nat :=
  s.flights.filterMap fun e =>
    match e.2.kind with
    | .remote .. | .spadStore .. => if e.2.tid == tid then some e.1 else none
    | .result _ | .load .. | .ldp .. | .atomic .. | .vrst .. | .vtag _ | .store | .fence .. | .pref | .watch | .sys .. | .hold _ => none

/-- An operation put at the end of a core's array queue, with the workgroup's CFG (R233); a direct one comes after its issuer's earlier accesses (R235). -/
def State.enqueue (s : State) (core wid : Nat) (k : ArrKind) (who : ArrBy) : State :=
  let u := s.array core
  s.setArray core { u with queue := u.queue ++ [{
    kind := k, cfg := (s.wg wid).cfg, who := who, wg := wid, started := false, step := 0, grp := 0, row := 0, swap := false, flags := 0, segs := [], due := []
    after := (match who with
      | .tiller t _ _ => if k.usesSpad then s.spadPending t else []
      | .chain .. => []), undo := [], planes := none }] }

/-- A tile-bounds fault (R238). -/
def State.tileTrap (s : State) (f : TileFault) : State :=
  s.trapHere 0x0B (bv 32 (f.kind + 2 ^ 8 * f.entry)) s.tl.word

/-- The checks of an MX instruction before its operands: ownership, then a full active mask (R238). -/
def State.mxChecked (s : State) (k : State) : State :=
  if !s.ownsArray then s.illegal 0x0A
  else if !isFull s.tl.act then s.illegal 0x0B
  else k

/-- An MX instruction that enters the queue: its first checks made, it waits while the queue is full (R233); then its operands are checked (R238, log 49), its counter raised and its destination marked (R239). -/
def State.mx (s : State) (chk : Wg → ArrCheck) (c : Option Ctr) (d : Option SReg) (p : Bool) : State :=
  let core := coreOf s.cur
  let wid := s.wgIdOf s.cur
  s.mxChecked (if Nat.ble 16 (s.array core).queue.length then s
    else
      match chk (s.wg wid) with
      | .error f => s.tileTrap f
      | .ok k =>
        let t := s.tl
        let t1 := match c with
          | some n => t.incCtr n.toNat
          | none => t
        let t2 := match d with
          | some r => t1.addPend (us r)
          | none => t1
        ((s.setTl t2).enqueue core wid k (.tiller s.cur (c.map BitVec.toNat) d)).finish p)

/-! ## The instructions -/

/-- The two words of a scalar pair (R237). -/
def Tiller.two (t : Tiller) (r : SReg) : Nat × Nat := ((t.rs r).toNat, (t.rs (pairHi r)).toNat)

/-- MCFG (R241). -/
def execMcfg (p : Bool) (a : SReg) (s : State) : Result State :=
  let v := s.tl.rs a
  let wid := s.wgIdOf s.cur
  .next (s.mxChecked (if cfgOk v then (s.setWg wid { s.wg wid with cfg := v }).finish p else s.tileTrap ⟨4, 0xFF⟩))

/-- MLDS (R242). -/
def execMlds (p : Bool) (c : Ctr) (a : SReg) (s : State) : Result State :=
  .next (s.mx (fun w => w.mlds (s.tl.two a).1 (s.tl.two a).2) (some c) none p)

/-- MSWP (R243). -/
def execMswp (p : Bool) (s : State) : Result State := .next (s.mx (fun _ => .ok .mswp) none none p)

/-- MSTR (R244). -/
def execMstr (p : Bool) (c : Ctr) (a b : SReg) (s : State) : Result State :=
  .next (s.mx (fun w => w.mstr (s.tl.two a).1 (s.tl.two a).2 (s.tl.two b).1 (s.tl.two b).2) (some c) none p)

/-- MGRP (R245). -/
def execMgrp (p : Bool) (c : Ctr) (a : SReg) (s : State) : Result State :=
  .next (s.mx (fun w => w.mgrp (s.tl.rs a).toNat) (some c) none p)

/-- MCLR (R246). -/
def execMclr (p : Bool) (c : Ctr) (a b : SReg) (s : State) : Result State :=
  .next (s.mx (fun w => w.mclr (s.tl.two a).1 (s.tl.two a).2 (s.tl.rs b).toNat) (some c) none p)

/-- MHIST (R247). -/
def execMhist (p : Bool) (d a b : SReg) (s : State) : Result State :=
  .next (s.mx (fun w => w.mhist (s.tl.two a).1 (s.tl.two a).2 (s.tl.rs b).toNat) none (some d) p)

/-- MDRN (R248). -/
def execMdrn (p : Bool) (c : Ctr) (a : SReg) (s : State) : Result State :=
  .next (s.mx (fun w => w.mdrn (s.tl.rs a).toNat) (some c) none p)

end Sys2Proof.Machine
end

