-- ==== Sys2Proof/Machine/Control.lean ====
section
/-! DEFINITION. Control instructions: branches (R176, R177), JSET (R178), EXIT (R179), YIELD (R180), REP (R142), TRAP (R335) and RTE (R336). -/

namespace Sys2Proof.Machine

/-- The header's address of the clause under way. -/
def Tiller.hdrPc (t : Tiller) : Word :=
  match t.run with
  | some r => r.hdr
  | none => t.wordPc

/-- The target of an offset in words from the clause's header (R35). -/
def Tiller.target {n : Nat} (t : Tiller) (o : BitVec n) : Word := t.hdrPc + 4 * o.signExtend 32

/-- SPILLP (R174). -/
def Tiller.spillp (t : Tiller) : Word := bv 32 (t.head + 2 ^ 12 * t.count)

/-- A list step of an instruction whose entry access does not go through, without effect: the tiller waits for the translation, its paths end, or an uncorrectable error is a data-error fault (R175). -/
def State.stepFault (s : State) (f : DevFault) (acc : Access) : State :=
  match f with
  | .acc x va => s.spillFault s.cur x va acc none s.tl.wordPc
  | .data va held => s.dataTrap s.cur va held s.tl.wordPc s.tl.wordIdx

/-- Rotation (R180): the issuing path, its PC already taken, goes to the end of the list and the oldest ready entry is loaded in its place. -/
def State.rotate (s : State) (pc : Word) (p spin : Bool) : State :=
  let t := s.tl
  let x : Slot := { t.slot t.inB with pc := pc }
  match s.loadReady s.cur t.inB x (some x) with
  | none => s.endAt pc p spin
  | some (.fault f acc s1) => s1.stepFault f acc
  | some (.ok s1) => ((s1.modTl fun u => { u with parkP := p }).clauseOver spin).settle s.cur none t.wordPc

/-- Split (R177): `tk` are the lanes that take the target. -/
def State.split (s : State) (tk : Word) (target : Word) (p : Bool) : State :=
  let t := s.tl
  let x := t.slot t.inB
  let nt := x.mask &&& ~~~tk
  if tk = 0 then s.endAt t.fall p false
  else if nt = 0 then s.endAt target p false
  else
    let q : Slot := ⟨.ready, target, tk, x.join, x.outr⟩
    let keep (u : Tiller) : Tiller := u.setSlot t.inB { x with mask := nt }
    if (t.slot (!t.inB)).st = .empty then ((s.modTl fun u => (keep u).setSlot (!t.inB) q)).endAt t.fall p false
    else if Nat.blt t.count t.depth then
      match s.appendEntry s.cur q with
      | (.error f, s1) => s1.stepFault f .spillWr
      | (.ok s2, _) => (s2.modTl keep).endAt t.fall p false
    else s.trapHere 0x04 t.spillp t.word

/-- NOP. -/
def execNop (p : Bool) (s : State) : Result State := .next (s.finish p)

/-- BRA (R176). -/
def execBra (p : Bool) (o : BitVec 20) (s : State) : Result State := .next (s.endAt (s.tl.target o) p false)

/-- BRA with the spin hint: a plain branch when the offset is positive, else a rotation too (R40, R180, R334). -/
def execBraSpin (p : Bool) (o : BitVec 20) (s : State) : Result State :=
  .next (if BitVec.slt 0 o then s.endAt (s.tl.target o) p false
    else if s.tl.hnd then s.illegal 0x09
    else s.rotate (s.tl.target o) p true)

/-- BZ (R176). -/
def execBz (p : Bool) (r : SReg) (o : BitVec 17) (s : State) : Result State :=
  .next (s.endAt (if s.tl.rs r = 0 then s.tl.target o else s.tl.fall) p false)

/-- BNZ (R176). -/
def execBnz (p : Bool) (r : SReg) (o : BitVec 17) (s : State) : Result State :=
  .next (s.endAt (if s.tl.rs r = 0 then s.tl.fall else s.tl.target o) p false)

/-- BM (R177, R334). -/
def execBm (p : Bool) (m : MReg) (o : BitVec 20) (s : State) : Result State :=
  .next (if s.tl.hnd then s.illegal 0x09 else s.split (s.tl.act &&& s.tl.rm m) (s.tl.target o) p)

/-- BMN (R177, R334). -/
def execBmn (p : Bool) (m : MReg) (o : BitVec 20) (s : State) : Result State :=
  .next (if s.tl.hnd then s.illegal 0x09 else s.split (s.tl.act &&& ~~~s.tl.rm m) (s.tl.target o) p)

/-- JSET (R178, R334): Settle runs before the path goes on. The issuing path does not arrive while its clause is under way. Where Settle waits for a page of the list, the word issues again after the repair, with its join point set. -/
def execJset (p : Bool) (o : BitVec 20) (s : State) : Result State :=
  let t := s.tl
  let x := t.slot t.inB
  let tgt := t.target o
  let go (y : Slot) : State :=
    let s1 := (s.setTl (t.setSlot t.inB y)).settle s.cur (some t.inB) t.wordPc
    if s1.tl.step.isSome then s1 else s1.finish p
  .next (if t.hnd then s.illegal 0x09
    else if x.join = tgt then go x
    else if x.outr = joinNone then go { x with outr := x.join, join := tgt }
    else s.trapHere 0x05 x.join t.word)

/-- CALL (R176). -/
def execCall (p : Bool) (r : SReg) (o : BitVec 18) (s : State) : Result State :=
  .next ((s.modTl fun t => t.ws r t.fall).endAt (s.tl.target o) p false)

/-- JMPR (R176). -/
def execJmpr (p : Bool) (r : SReg) (s : State) : Result State :=
  let x := s.tl.rs r
  .next (if x.extractLsb' 0 2 = 0 then s.endAt x p false else s.illegal 0x08)

/-- REP: the next word is issued n times (R142). -/
def execRep (p : Bool) (n : BitVec 6) (_sd _sa _sb : Bool) (s : State) : Result State :=
  let t := s.tl
  .next (match t.run with
  | none => s
  | some r => s.setTl { t with run := some { r with idx := r.idx + 1, rep := true }, repcnt := n.toNat + 1, parkP := p })

/-- YIELD (R180, R334). -/
def execYield (p : Bool) (s : State) : Result State :=
  .next (if s.tl.hnd then s.illegal 0x09 else s.rotate s.tl.fall p false)

/-- YIELD with the spin hint (R180, R334). -/
def execYieldSpin (p : Bool) (s : State) : Result State :=
  .next (if s.tl.hnd then s.illegal 0x09 else s.rotate s.tl.fall p true)

/-- EXIT (R179). -/
def execExit (s : State) : Result State :=
  let t := s.tl
  .next (if t.hnd then ((s.clauseOver false).modTl Tiller.endPaths).onExit s.cur
    else
      let x := t.slot t.inB
      ((s.setTl ({ t with lanes := t.lanes &&& ~~~x.mask }.setSlot t.inB x.vacate)).clauseOver false).settle s.cur none t.wordPc)

/-- TRAP: the resume point is the fall-through address (R332, R335). -/
def execTrap (c : BitVec 16) (s : State) : Result State :=
  let t := s.tl
  .next (if t.hnd then s.killTiller s.cur 0x0D t.wordPc
    else s.enterTrap s.cur 0x0D (c.zeroExtend 32) t.word t.fall 0 (s.place s.cur))

/-- The registers a resume's RTE reads from the frame: s1 to s59 and m1 to m7 (R336, R340). -/
def Tiller.loadFrame (t : Tiller) (bs : List Byte) : Tiller :=
  let w (o : Nat) : Word := bv 32 (natOfBytes ((bs.drop (o - 0x40)).take 4))
  let t1 := (List.range 59).foldl (fun x i => x.ws (bv 6 (i + 1)) (w (0x60 + 4 * (i + 1)))) t
  (List.range 7).foldl (fun x i => x.wm (bv 3 (i + 1)) (w (0x40 + 4 * (i + 1)))) t1

/-- RTE's read of a resume frame that does not go through: parked for a replay, or a double fault (R324, R334). -/
def State.frameFault (s : State) (f : DevFault) : State :=
  match f with
  | .acc x va =>
    (match accTrap x va 0 with
    | some (k, i0, i1) => s.trapHere k i0 i1
    | none => s.parkFault s.cur va .load (replayOf x == some true))
  | .data va held => s.dataTrap s.cur va held s.tl.wordPc s.tl.wordIdx

/-- RTE (R336); after a resume the tiller then waits for the others (R344). -/
def execRte (s : State) : Result State :=
  let t := s.tl
  .next (if !t.hnd then s.illegal 0x09
    else if t.tcause.extractLsb' 0 8 = 0x12 then
      match s.devRead s.cur .load (t.frame + 0x40) 18 with
      | (.error f, s1) => s1.frameFault f
      | (.ok bs, s1) =>
        let s2 := (s1.modTl fun u => u.loadFrame bs).returnFrom
        s2.modTl fun u => { u with halt := .waiting }
    else s.returnFrom)

end Sys2Proof.Machine
end

