-- ==== Sys2Proof/Machine/Special.lean ====
section
/-! DEFINITION. The special registers (R200): SRD (R201), SWR (R202), the SYS instructions (R352) and NOTIFY (R370). -/

namespace Sys2Proof.Machine

/-! ## Values -/

/-- The code of a slot's state (R171). -/
def PathSt.code : PathSt → Nat
  | .ready => 0
  | .parked => 1
  | .empty => 2

/-- PCA or PCB (R171). -/
def Slot.pcWord (x : Slot) : Word := (x.pc &&& 0xFFFFFFFC) ||| bv 32 x.st.code

/-- TCTL (R274). -/
def Tiller.tctl (t : Tiller) : Word := bv 32 (b2n t.pwinTrap + 2 * (t.reqCap % 128))

/-- The sheaf coordinates of an index in a grid (R12, R326). -/
def gridX (p : Packet) (i : Nat) : Nat := if p.gx = 0 then 0 else i % p.gx
def gridY (p : Packet) (i : Nat) : Nat := if p.gx = 0 ∨ p.gy = 0 then 0 else i / p.gx % p.gy
def gridZ (p : Packet) (i : Nat) : Nat := if p.gx = 0 ∨ p.gy = 0 then 0 else i / p.gx / p.gy

/-- FREQ (R193). -/
def Cluster.freq (c : Cluster) : Word := bv 32 (c.cur % 2 ^ 12 + 2 ^ 12 * (c.tgt % 2 ^ 12) + 2 ^ 24 * b2n c.step)

/-- ALLOW: C in units of 64 pJ, saturating, and WLVL (R194). -/
def Cluster.allowReg (c : Cluster) : Word :=
  let q := c.allow / 64
  let q' := if q < -(2 ^ 26) then -(2 ^ 26) else if 2 ^ 26 - 1 < q then 2 ^ 26 - 1 else q
  bv 32 ((q' % 2 ^ 27).toNat + 2 ^ 27 * c.wlvl)

/-- NOTIFY: the last vector sent, and whether its message is pending (R370). -/
def State.notifyReg (s : State) (t : Tiller) : Word :=
  bv 32 (t.notify % 2 ^ 11 + 2 ^ 31 * b2n (s.pkg.msgPending.contains (t.notify % 2 ^ 11)))

/-- The value of a special register at issue (R200, R201). -/
def State.special (s : State) (r : Special) : DWord :=
  let t := s.tl
  let core := coreOf s.cur
  let c := s.core core
  let sh := s.sheaf t.sheaf
  let pk := (s.launchOf s.cur).pkt
  let w (x : Word) : DWord := x.zeroExtend 64
  let n (x : Nat) : DWord := bv 64 x
  match r with
  | .time => n s.time
  | .cycles => n c.cycles
  | .tcyc0 => n (lget 0 c.tcyc 0)
  | .tcyc1 => n (lget 0 c.tcyc 1)
  | .tcyc2 => n (lget 0 c.tcyc 2)
  | .tcyc3 => n (lget 0 c.tcyc 3)
  | .tstat => w t.tstat
  | .tctl => w t.tctl
  | .tcause => w t.tcause
  | .tpc => w t.tpc
  | .tinfo0 => w t.tinfo0
  | .tinfo1 => w t.tinfo1
  | .pca => w t.slotA.pcWord
  | .pcb => w t.slotB.pcWord
  | .mska => w t.slotA.mask
  | .mskb => w t.slotB.mask
  | .spillp => w t.spillp
  | .repcnt => n t.repcnt
  | .joina => w t.slotA.join
  | .joinb => w t.slotB.join
  | .outra => w t.slotA.outr
  | .outrb => w t.slotB.outr
  | .tiller => n t.num
  | .wgrank => n t.rank
  | .sheafx => n (gridX pk sh.index)
  | .sheafy => n (gridY pk sh.index)
  | .sheafz => n (gridZ pk sh.index)
  | .core => n core
  | .cluster => n (clusterOf core)
  | .die => n (dieOf core)
  | .region => n (s.rcb (s.regionOf s.cur)).id
  | .freq => w (s.cluster (clusterOf core)).freq
  | .allow => w (s.cluster (clusterOf core)).allowReg
  | .morg => n (s.wg (s.wgIdOf s.cur)).morg
  | .notify => w (s.notifyReg t)

/-- SRD (R201). -/
def execSrd (p : Bool) (d : SReg) (r : Special) (s : State) : Result State :=
  let v := s.special r
  .next (if r = .notify ∧ !s.tl.steward then s.illegal 0x09
    else if r.is64 then s.writeP d v p
    else s.writeS d (v.extractLsb' 0 32) p)

/-! ## Writing -/

/-- Registers that only a handler may write (R200). -/
def Special.handlerRw : Special → Bool
  | .tpc | .pca | .pcb | .mska | .mskb | .spillp | .repcnt | .joina | .joinb | .outra | .outrb => true
  | .time | .cycles | .tcyc0 | .tcyc1 | .tcyc2 | .tcyc3 | .tstat | .tctl | .tcause | .tinfo0 | .tinfo1
  | .tiller | .wgrank | .sheafx | .sheafy | .sheafz | .core | .cluster | .die | .region | .freq | .allow | .morg | .notify => false

/-- PCA or PCB written (R171). -/
def Slot.writePc (x : Slot) (v : Word) : Slot :=
  { x with
    pc := v &&& 0xFFFFFFFC
    st := match (v.extractLsb' 0 2).toNat with
      | 0 => .ready
      | 1 => .parked
      | _ => .empty }

/-- SPILLP written (R174). -/
def Tiller.setSpillp (t : Tiller) (v : Word) : Tiller :=
  if t.depth = 0 then { t with head := 0, count := 0 }
  else { t with head := (v.extractLsb' 0 12).toNat % t.depth, count := Nat.min (v.extractLsb' 12 13).toNat t.depth }

/-- The fields a write of a special register replaces (R202). -/
def Tiller.setSpecial (t : Tiller) (r : Special) (v : Word) : Tiller :=
  match r with
  | .tstat => t.setTstat v
  | .tctl => { t with pwinTrap := v.getLsbD 0, reqCap := (v.extractLsb' 1 7).toNat }
  | .tpc => { t with tpc := v, widx := 0, repcnt := 0 }
  | .pca => { t with slotA := t.slotA.writePc v }
  | .pcb => { t with slotB := t.slotB.writePc v }
  | .mska => { t with slotA := { t.slotA with mask := v } }
  | .mskb => { t with slotB := { t.slotB with mask := v } }
  | .spillp => t.setSpillp v
  | .repcnt => { t with repcnt := v.toNat }
  | .joina => { t with slotA := { t.slotA with join := v } }
  | .joinb => { t with slotB := { t.slotB with join := v } }
  | .outra => { t with slotA := { t.slotA with outr := v } }
  | .outrb => { t with slotB := { t.slotB with outr := v } }
  | .notify | .time | .cycles | .tcyc0 | .tcyc1 | .tcyc2 | .tcyc3 | .tcause | .tinfo0 | .tinfo1
  | .tiller | .wgrank | .sheafx | .sheafy | .sheafz | .core | .cluster | .die | .region | .freq | .allow | .morg => t

/-! ## NOTIFY -/

/-- The message of a vector: sent, or its pending bit set where the host has masked it (R370). -/
def Pkg.message (k : Pkg) (v : Nat) : Pkg :=
  if k.masked.contains v then { k with msgPending := addNew k.msgPending v }
  else { k with sent := tput k.sent v (tget 0 k.sent v + 1) }

/-- NOTIFY of a value (R370). -/
def State.notify (s : State) (v : Word) (p : Bool) : State :=
  if v.extractLsb' 11 21 ≠ 0 then s.illegal 0x08
  else if !s.tl.steward then s.illegal 0x09
  else s.releaseThen 4 fun s1 =>
    let n := v.toNat
    ({ s1 with pkg := s1.pkg.message n }.modTl fun t => { t with notify := n }).finish p

/-- SWR (R202). -/
def execSwr (p : Bool) (r : Special) (a : SReg) (s : State) : Result State :=
  let t := s.tl
  let v := t.rs a
  .next (if r = .notify then s.notify v p
    else if r = .tstat ∨ r = .tctl ∨ (Special.handlerRw r && t.hnd) then s.done (t.setSpecial r v) p
    else s.illegal 0x0C)

/-- SYS.NOTIFY (R370). -/
def execSysNotify (p : Bool) (a : SReg) (s : State) : Result State := .next (s.notify (s.tl.rs a) p)

/-! ## SYS -/

/-- LAUNCH, GRUN and RCBSYNC: the release at .dv, then the operation, whose status lands with its checks (R352). -/
def State.sysOp (s : State) (op : Nat) (d a : SReg) (p : Bool) : State :=
  s.releaseThen 3 fun s1 =>
    (s1.modTl fun t => { t.addPend (us d) with again := true, gapEnd := s1.gapFrom s1.cur }).addFlight { Flight.blank with
      tid := s1.cur, core := coreOf s1.cur, kind := .sys op d (s1.tl.rp a).toNat p, regs := us d }

/-- SYS.LAUNCH (R352, R353). -/
def execSysLaunch (p : Bool) (d a : SReg) (s : State) : Result State := .next (s.sysOp 0 d a p)
/-- SYS.GRUN (R352, R361). -/
def execSysGrun (p : Bool) (d a : SReg) (s : State) : Result State := .next (s.sysOp 1 d a p)
/-- SYS.RCBSYNC (R348, R352). -/
def execSysRcbsync (p : Bool) (d a : SReg) (s : State) : Result State := .next (s.sysOp 2 d a p)

end Sys2Proof.Machine
end

