-- ==== Sys2Proof/Machine/Sheaves.lean ====
section
/-! DEFINITION. Launch records (R351), and the freeing of a sheaf's resources at its end (R12, R224, R374). -/

namespace Sys2Proof.Machine

/-! ## Addresses of a launch -/

/-- The line of a device access to a launch's memory, if its page translates (R350); the control space takes no access of a line (R368). -/
def State.lineAt (s : State) (root va : Nat) (acc : Access) : Option LineRef :=
  if 2 ^ 56 ≤ va then none
  else
    match s.walk root va acc with
    | .leaf e size =>
      (match s.lineOf e size va with
      | .ok r => if physKind r.pa = .control then none else some r
      | .error _ => none)
    | .notPresent | .migrating | .malformed | .protection | .phys _ => none

/-- The 64 bytes of a line as they stand in memory, a coded one decoded (R97, R110). -/
def State.bytesAt (s : State) (r : LineRef) : List Byte :=
  if r.coded then ((s.blockLogical r.key.base r.key.rate).drop (64 * r.key.h)).take 64 else s.lineBytes r.pa

/-- Whether the device cannot read a line: it stands under an uncorrectable error or in a held block, or behind a link that is down (R106, R110, R278, R365). -/
def State.unreadable (s : State) (r : LineRef) : Bool := s.devBad r || s.linkDown r.pa

/-- `n` bytes of virtual memory, none where a page does not translate or a line cannot be read; each turn reads to the end of a line, `fuel` bounds them. -/
def State.vread (s : State) (root va n : Nat) : Nat → Option (List Byte)
  | 0 => some []
  | fuel + 1 =>
    if n = 0 then some []
    else
      let m := Nat.min n (64 - va % 64)
      match s.lineAt root va .load with
      | none => none
      | some r =>
        if s.unreadable r then none
        else (s.vread root (va + m) (n - m) fuel).map fun rest => ((s.bytesAt r).drop (va % 64)).take m ++ rest

/-- The lines of `n` bytes of virtual memory, where they translate; `fuel` bounds them. -/
def State.vlines (s : State) (root va n : Nat) : Nat → List LineRef
  | 0 => []
  | fuel + 1 =>
    if n = 0 then []
    else
      let m := Nat.min n (64 - va % 64)
      (s.lineAt root va .load).toList ++ s.vlines root (va + m) (n - m) fuel

/-- What a read of `n` bytes of virtual memory does at the homes of its lines, for a core, or for none where `src` is 256; a coded block is decoded once, by the core's codec (R110, R111, R254). `fuel` bounds the lines. -/
def State.vtouch (s : State) (src root va n fuel : Nat) : State :=
  let rs := s.vlines root va n fuel
  (blocksOf rs).foldl (fun st b => st.codecNeed src b.1 b.2 false 2 0)
    (rs.foldl (fun st r => if r.coded then st else ((st.reach r.key.base).homeAccess (st.home r.pa) r.pa 0 src (.fetch none) false false).2) s)

/-- The pages of a range of virtual addresses, each as its first address and its length in the range, none where one does not translate; `fuel` bounds the pages. -/
def State.vspan (s : State) (root va n : Nat) (acc : Access) : Nat → Option (List (Nat × Nat))
  | 0 => some []
  | fuel + 1 =>
    if n = 0 then some []
    else
      let m := Nat.min n (65536 - va % 65536)
      match s.lineAt root va acc with
      | none => none
      | some _ => (s.vspan root (va + m) (n - m) acc fuel).map fun rest => (va, m) :: rest

/-- Bytes of one line written by the device for a core, or for none where `src` is 256: a coded one through the codec. A block in error, or held, takes none of them and is held; nothing goes over a link that is down (R106, R110, R365, log 21, log 45). -/
def State.putLine (s : State) (src : Nat) (r : LineRef) (o : Nat) (bs : List Byte) : State :=
  if s.linkDown r.pa then s
  else if !r.coded then s.homeStore 0 src (cellsAt (r.pa + o) bs)
  else
    let d := atOff (64 * r.key.h + o) bs
    let s1 := s.codecNeed src r.key.base r.key.rate true (s.codedCost r.key.base r.key.rate d) 0
    if s1.devBad r then s1.strikeRoot r.key.base r.va d.length
    else (s1.codedWrite 0 src r.key.base r.key.rate r.crid d false false).1

/-- Bytes written to virtual memory; those of a page that does not translate are dropped (log 21). -/
def State.vwrite (s : State) (src root va : Nat) (bs : List Byte) : Nat → State
  | 0 => s
  | fuel + 1 =>
    if bs.isEmpty then s
    else
      let m := 64 - va % 64
      let s1 := match s.lineAt root va .store with
        | some r => s.putLine src r (va % 64) (bs.take m)
        | none => s
      s1.vwrite src root (va + m) (bs.drop m) fuel

/-- A number of the record of a launch written; nothing where its page does not translate (log 21). -/
def State.recWrite (s : State) (l : Launch) (off n v : Nat) : State :=
  s.vwrite 256 (s.effRoot l.pkt.region) (l.pkt.recAddr + off) (bytesOfNat v n) 2

/-- A count of the record written; those of an abandoned launch stay as they stood (R353). -/
def State.recCount (s : State) (l : Launch) (off n v : Nat) : State := if l.status = 3 then s else s.recWrite l off n v

/-- STATUS and FIELD written (R351). -/
def State.recStatus (s : State) (l : Launch) (status field : Nat) : State := s.recWrite l 0 4 (status + 2 ^ 8 * field)

/-! ## Who belongs to a sheaf -/

/-- The tiller positions of a sheaf. -/
def Sheaf.positions (h : Sheaf) : List Nat := h.tids.map (·.2)

/-- The workgroup numbers of a sheaf. -/
def State.wgsOf (s : State) (i : Nat) : List Nat :=
  (List.range (s.launch (s.sheaf i).launch).pkt.wg).map fun r => wgOf i r

/-- Whether a chain belongs to a sheaf. -/
def Chain.ofSheaf (c : Chain) (i : Nat) : Bool := c.wg / 4 == i

/-! ## Freeing -/

/-- A sheaf's watches cancelled without an arrival (R224). -/
def State.dropWatches (s : State) (tids : List Nat) : State :=
  { s with slices := s.slices.map fun (e : Nat × Slice) =>
      (e.1, { e.2 with watches := e.2.watches.filter fun w => !tids.contains w.tid }) }

/-- An engine without the chains of a sheaf. -/
def Engine.dropSheaf (g : Engine) (i : Nat) : Engine :=
  let gone : Bool := match g.chain with
    | some c => c.ofSheaf i
    | none => false
  { g with
    chain := if gone then none else g.chain
    work := if gone then none else g.work
    read := if gone then none else g.read
    ready := if gone then none else g.ready
    walk := if gone then none else g.walk
    waiting := g.waiting.filter fun c => !c.ofSheaf i
    reforks := g.reforks.filter fun c => !c.ofSheaf i
    saved := g.saved.filter fun c => !c.ofSheaf i }

/-- The engine's list of waiting chains filled up to 3 from those that a resume has still to fork again (R296, R317). -/
def Engine.refill (g : Engine) : Engine :=
  { g with waiting := g.waiting ++ g.reforks.take (3 - g.waiting.length), reforks := g.reforks.drop (3 - g.waiting.length) }

/-- A job that a word of a tiller waits for keeps the codec at work for its time alone, once its tiller is gone (R112). -/
def CodecJob.without (j : CodecJob) (tids : List Nat) : CodecJob :=
  match j.kind with
  | .device (.tiller t) _ _ => if tids.contains t then { j with kind := .busy } else j
  | .device .. | .decode .. | .engine .. | .write .. | .busy => j

/-- The resources of a sheaf freed: its positions, allocations, chains, array operations and outstanding operations (R12). -/
def State.freeSheaf (s : State) (i : Nat) (st : SheafSt) : State :=
  let h := s.sheaf i
  let tids := h.positions
  let s1 := s.dropWatches tids
  let s2 := { s1 with
    tillers := s1.tillers.filter fun (e : Nat × Tiller) => !tids.contains e.1
    wgs := s1.wgs.filter fun (e : Nat × Wg) => e.1 / 4 != i
    flights := s1.flights.filter fun (e : Nat × Flight) => !tids.contains e.2.tid
    engines := s1.engines.map fun (e : Nat × Engine) => (e.1, (e.2.dropSheaf i).refill)
    arrays := s1.arrays.map fun (e : Nat × ArrayUnit) => (e.1, { e.2 with queue := e.2.queue.filter fun o => o.wg / 4 != i })
    cores := s1.cores.map fun (e : Nat × Core) => (e.1, { e.2 with
      faultBuf := e.2.faultBuf.filter fun t => !tids.contains t
      jobs := e.2.jobs.map fun (j : CodecJob) => j.without tids }) }
  (s2.setSheaf i { h with st := st, tids := [] }).retarget h.cluster

/-- What follows the end of a launch: the instance of a graph that it belongs to is looked at again (R361). -/
def State.launchEnded (s : State) (l : Launch) : State :=
  match l.graph with
  | some g => s.pushTurn (.ev (.graphInstanceAdmit g))
  | none => s

/-- A frame set given back (R356). -/
def insertFree (j : Nat) : List Nat → List Nat
  | [] => [j]
  | k :: rest => if j < k then j :: k :: rest else k :: insertFree j rest

/-- A sheaf's frame set freed, where it holds one. -/
def State.freeFrames (s : State) (i : Nat) : State :=
  let h := s.sheaf i
  match h.frameSet with
  | none => s
  | some j =>
    let l := s.launch h.launch
    (s.setSheaf i { h with frameSet := none }).setLaunch h.launch { l with free := insertFree j l.free }

/-- The sheaves of a held cluster discarded, each launch abandoned and the frame set that a sheaf holds given back (R356, R361, R374). -/
def State.discardHeld (s : State) (cl : Nat) : State :=
  (s.residents cl).foldl (fun st e =>
    let st1 := (st.freeSheaf e.1 .discarded).freeFrames e.1
    let l := st1.launch e.2.launch
    ((st1.setLaunch e.2.launch { l with status := 3 }).recStatus l 3 0).launchEnded l) s

end Sys2Proof.Machine
end

