-- ==== Sys2Proof/Machine/Ctl.lean ====
section
/-! DEFINITION. What a write to the control space does (R368, R369). -/

namespace Sys2Proof.Machine

/-- The table address and enable of CRTBASE and AFTBASE (R107, R284). -/
def tableBase (v : Nat) : Nat := v % 2 + 4096 * bits v 12 40

/-- HBMRM written (R268). -/
def Die.write (d : Die) (v : Nat) : Die :=
  { d with en := v.testBit 0, blast := bits v 1 2, thresh := bits v 4 12, swapn := bits v 16 4 }

/-- CLHOLD written: it wakes a retained cluster, sets RETIDLE, and releases a held cluster where HELD is written 0 (R369, R373, R374). -/
def State.writeClhold (s : State) (cl v : Nat) : State :=
  let c := s.cluster cl
  let s1 := s.setCluster cl { c with retIdle := bits v 16 16 }
  let s2 := if c.ret then s1.pushTurn (.ev (.retentionExit cl (Config.retentionLoss s.now cl))) else s1
  if c.held ∧ !v.testBit 0 then ((s2.setCluster cl { s2.cluster cl with held := false }).discardHeld cl).pushTurn (.ev .decide) else s2

/-- BOOSTCTL written: writing 0 to REQ closes an open window at once (R377). -/
def State.writeBoostctl (s : State) (v : Nat) : State :=
  let k := s.pkg
  if v.testBit 0 then { s with pkg := { k with boostReq := true } }
  else { s with pkg := { k with boostReq := false, boostOpen := false, boostAt := if k.boostOpen then s.time else k.boostAt } }

/-- SFMAP entries written, a 2-byte entry for each 2 bytes of the write. -/
def Pkg.writeSf (k : Pkg) (n v : Nat) : Nat → Pkg
  | 0 => k
  | c + 1 => ({ k with sfmap := tput k.sfmap n (v % 2 ^ 16) }).writeSf (n + 1) (v / 2 ^ 16) c

/-- TLBINV written (R323). -/
def State.writeTlbinv (s : State) (o w : Nat) : State :=
  let k := s.pkg
  if k.tlbGo then s
  else if o = 0x20000 then { s with pkg := { k with tlbVpn := w % 2 ^ 40 } }
  else if o = 0x20008 then { s with pkg := { k with tlbRoot := 4096 * bits w 12 40 } }
  else
    let s1 := { s with pkg := { k with tlbCount := w % 2 ^ 32 } }
    if w.testBit 32 then s1.pushTurn (.ev .tlbinvGo) else s1

/-- A write of 4 or 8 bytes of the control space, by the steward or by the host (R368, R369). -/
def State.ctlWrite (s : State) (host : Bool) (o size v : Nat) : State :=
  let k := s.pkg
  let b := o / 8 * 8
  let w := patchNat (s.ctlWord b) (o % 8) size v
  let low := o % 8 = 0
  if b = 0x1000 then { s with crtbase := tableBase w }
  else if b = 0x1008 then { s with aftbase := tableBase w }
  else if b = 0x1010 then { s with kvepoch := w % 2 ^ 32 }
  else if b = 0x1018 then (if low then s.writeBoostctl w else s)
  else if b = 0x1028 then (if host then s else { s with pkg := { k with subbase := w % 2 ^ 12 + 2 ^ 16 * bits w 16 36 } })
  else if 0x10000 ≤ b ∧ b < 0x14000 then s.resWrite ((b - 0x10000) / 64) (o % 64) size v
  else if b = 0x20000 ∨ b = 0x20008 ∨ b = 0x20010 then s.writeTlbinv b w
  else if 0x30000 ≤ b ∧ b < 0x31000 then
    let cl := (b - 0x30000) / 64
    (if b % 64 = 0 ∧ low then s.writeClkctl cl w else if b % 64 = 8 ∧ low then s.writeClhold cl w else s)
  else if 0x40000 ≤ b ∧ b < 0x40800 ∧ b % 64 = 0 then
    let d := (b - 0x40000) / 64
    { s with dies := tput s.dies d ((s.die d).write w) }
  else if 0x50000 ≤ b ∧ b < 0x50080 then { s with pkg := k.writeSf ((o - 0x50000) / 2) v (size / 2) }
  else if 0x70000 ≤ b ∧ b < 0x70020 then
    { s with pkg := { k with nonce := (List.range 32).map fun i =>
        if o - 0x70000 ≤ i ∧ i < o - 0x70000 + size then bv 8 (v / 2 ^ (8 * (i - (o - 0x70000)))) else lget 0 k.nonce i } }
  else if b = 0x70020 ∧ low ∧ w.testBit 0 ∧ !k.attBusy then ({ s with pkg := { k with attBusy := true } }).pushTurn (.ev (.attestationRequest k.nonce))
  else s

end Sys2Proof.Machine
end

