-- ==== Sys2Proof/Machine/Atomic.lean ====
section
/-! DEFINITION. The operations of ATOM, RED, CAS and ATOMS (R84, R210, R280, R283). -/

namespace Sys2Proof.Machine

/-- The bytes of an atomic type (R38). -/
def atomSize (ty : AtomTy) : Nat := if ty.is64 then 8 else 4

/-- A value of an atomic type as an integer. -/
def atomInt (ty : AtomTy) (x : Nat) : Int :=
  match ty with
  | .ws => (bv 32 x).toInt
  | .ds => (bv 64 x).toInt
  | .f32 | .w | .f64 | .d => (x : Int)

/-- The new value and the flags of one lane (R210, R280). -/
def atomNew (op : AtomOp) (ty : AtomTy) (old x : Nat) : Nat × Flags :=
  match op with
  | .add => ((old + x) % 2 ^ (8 * atomSize ty), 0)
  | .min => (if atomInt ty old ≤ atomInt ty x then old else x, 0)
  | .max => (if atomInt ty x ≤ atomInt ty old then old else x, 0)
  | .and => (old &&& x, 0)
  | .or => (old ||| x, 0)
  | .xor => (old ^^^ x, 0)
  | .exch => (x, 0)
  | .fadd => if ty.is64 then fp64.add old x else fp32.add old x

end Sys2Proof.Machine
end

