-- ==== Sys2Proof/Machine/Spad.lean ====
section
/-! DEFINITION. Scratchpad instructions (R205 to R210), LREFILL (R182) and PWPL (R162). -/

namespace Sys2Proof.Machine

/-! ## Shared operations -/

/-- TINFO1 of a scratchpad fault (R206). -/
def spadInfo1 (k : SpadFault) (rank lane : Nat) : Word := bv 32 (k.code + 4 * rank + 2 ^ 8 * lane)

/-- A scratchpad fault (R206). -/
def State.spadTrap (s : State) (k : SpadFault) (off rank lane : Nat) : State :=
  s.trapHere 0x0A (bv 32 off) (spadInfo1 k rank lane)

/-- The first lane whose access fails, with its offset and why (R205, R206). -/
def spadFail (spad w : Nat) (rankOk : Bool) : List (Nat × Nat) → Option (SpadFault × Nat × Nat)
  | [] => none
  | (i, o) :: rest =>
    match spadCheck spad o w rankOk with
    | some k => some (k, o, i)
    | none => spadFail spad w rankOk rest

/-- The size of the issuing workgroup's allocation, which every workgroup of its sheaf shares (R203). -/
def State.spadSize (s : State) : Nat := (s.wg (s.wgIdOf s.cur)).spad

/-- Whether a rank names a workgroup of the issuing sheaf (R205). -/
def State.rankOk (s : State) (r : Nat) : Bool := Nat.blt r (s.launchOf s.cur).pkt.wg

/-- The workgroup of a rank of the issuing sheaf. -/
def State.wgAt (s : State) (r : Nat) : Nat := wgOf s.tl.sheaf r

/-- The destination registers of a load, from each lane's value (R36, R120). -/
def Tiller.loadVals (t : Tiller) (d : VNum) (wd : Width) (m : Word) (f : Nat → Nat) : List (VNum × VReg) :=
  let vals := lanes32.map fun i => Width.extend wd (f i)
  (destRegs d (Width.regs wd)).zipIdx.map fun e =>
    let ws := vals.map fun v => bv 32 (v / 2 ^ (32 * e.2))
    (e.1, merged m (t.rv e.1) (if wd = .uw then .u (lget 0 ws 0) else .g ws) ws)

/-- The bytes a store writes, lane by lane, so that the highest lane's stand (R208, R277). -/
def Tiller.storeCells (t : Tiller) (d : VNum) (wd : Width) (lanes : List (Nat × Nat)) : List Host.Cell :=
  lanes.flatMap fun e => cellsAt e.2 (t.laneBytes d wd e.1)

/-- A load whose values are read at issue (R209). -/
def State.spadLoad (s : State) (wg : Nat) (d : VNum) (c : Ctr) (wd : Width) (lanes : List (Nat × Nat)) (p : Bool) : State :=
  let m := (s.wg wg).bytes
  let ds := s.tl.loadVals d wd s.tl.act fun i => readNat m (tget 0 lanes i) (Width.size wd)
  (s.startResult .spad (ds.map fun e => .v e.1 e.2) (ds.flatMap fun e => uv e.1) (some c.toNat) 0 6).finish p

/-- The values that a load marks its registers with until it lands: zeros in the shape the load will have (R121). -/
def Tiller.loadShape (t : Tiller) (d : VNum) (wd : Width) : List (VNum × VReg) := t.loadVals d wd t.act fun _ => 0

/-- An operation that leaves vector registers pending in a shape (R121, R126, R211). -/
def State.startPending (s : State) (shape : List (VNum × VReg)) (c : Ctr) (f : Flight) : State × Flight :=
  let t := s.tl
  let regs := shape.flatMap fun e => uv e.1
  let olds := shape.map fun e => RegVal.v e.1 (t.rv e.1)
  let t1 := (t.wvs (shape.map fun e => (e.1, e.2.pendingAs (t.rv e.1)))).addPend regs
  (s.setTl (t1.incCtr c.toNat), { f with
    tid := s.cur, core := coreOf s.cur, ctr := some c.toNat, regs := regs, mask := t.act, out := olds })

/-- An operation that leaves no register pending: it raises its counter. -/
def State.startStore (s : State) (c : Ctr) (f : Flight) : State × Flight :=
  (s.modTl fun t => t.incCtr c.toNat, { f with tid := s.cur, core := coreOf s.cur, ctr := some c.toNat, mask := s.tl.act })

/-- A load from the allocation of a rank: at issue in the issuing workgroup's, and in order of issue in another's (R207, R209). -/
def State.ldAny (s : State) (r : Nat) (info : Nat) (d : VNum) (a : Addr) (c : Ctr) (wd : Width) (p : Bool) : State :=
  let t := s.tl
  let lanes := laneAddrs t.act (t.offOf a wd)
  match t.gOver (t.loadShape d wd) with
  | some q => s.gTrap q
  | none =>
    match spadFail s.spadSize (Width.size wd) (s.rankOk r) lanes with
    | some (k, o, i) => s.spadTrap k o info i
    | none =>
      if r = t.rank then s.spadLoad (s.wgAt r) d c wd lanes p
      else
        let (s1, f) := s.startPending (t.loadShape d wd) c { Flight.blank with kind := .remote d wd r lanes, left := 40 }
        (s1.addFlight f).finish p

/-- A store to the allocation of a rank (R207, R208, R209).
DESIGN CHOICE (log 94): all its units are written in one step, and no other agent's access falls between them. -/
def State.stAny (s : State) (r : Nat) (info : Nat) (d : VNum) (a : Addr) (c : Ctr) (wd : Width) (p : Bool) : State :=
  let t := s.tl
  let lanes := laneAddrs t.act (t.offOf a wd)
  match spadFail s.spadSize (Width.size wd) (s.rankOk r) lanes with
  | some (k, o, i) => s.spadTrap k o info i
  | none =>
    let cells := t.storeCells d wd lanes
    if r = t.rank then
      let (s1, f) := s.startStore c { Flight.blank with kind := .store }
      ((s1.spadWrite (s1.wgAt r) cells).addFlight f).finish p
    else
      let (s1, f) := s.startStore c { Flight.blank with kind := .spadStore r cells }
      (s1.addFlight f).finish p

/-- LDS (R209). -/
def execLds (p : Bool) (t : VNum) (a : Addr) (c : Ctr) (wd : Width) (s : State) : Result State :=
  .next (s.ldAny s.tl.rank 0 t a c wd p)
/-- STS (R209). -/
def execSts (p : Bool) (t : VNum) (a : Addr) (c : Ctr) (wd : Width) (s : State) : Result State :=
  .next (s.stAny s.tl.rank 0 t a c wd p)
/-- LDX (R209). -/
def execLdx (p : Bool) (t : VNum) (a : Addr) (c : Ctr) (wd : Width) (r : BitVec 2) (s : State) : Result State :=
  .next (s.ldAny r.toNat r.toNat t a c wd p)
/-- STX (R209). -/
def execStx (p : Bool) (t : VNum) (a : Addr) (c : Ctr) (wd : Width) (r : BitVec 2) (s : State) : Result State :=
  .next (s.stAny r.toNat r.toNat t a c wd p)

/-! ## ATOMS -/

/-- The operand of a lane: a register, or a pair for a 64-bit type. -/
def Tiller.atomArg (t : Tiller) (ty : AtomTy) (r : VNum) (i : Nat) : Nat :=
  if ty.is64 then lget 0 (t.rvPair r) i else ((t.rv r).lane i).toNat

/-- The lanes of an atomic applied in order to a memory: the memory, and each lane's old value and flags (R210, R279). -/
def atomLanes (op : AtomOp) (ty : AtomTy) (m : List Host.Cell) : List (Nat × Nat × Nat) → List Host.Cell × List (Nat × Nat × Flags)
  | [] => (m, [])
  | (i, o, x) :: rest =>
    let old := readNat m o (atomSize ty)
    let n := atomNew op ty old x
    let r := atomLanes op ty (writeNat m o (atomSize ty) n.1) rest
    (r.1, (i, old, n.2) :: r.2)

/-- The registers an atomic's old values land in, G in each register (R120, R210, R281). -/
def Tiller.atomVals (t : Tiller) (wide : Bool) (d : VNum) (m : Word) (f : Nat → Nat) : List (VNum × VReg) :=
  t.loadVals d (if wide then .d else .w) m f

/-- ATOMS (R210). DESIGN CHOICE (log 94): the steps of its lanes are made in one step of the model, and no other agent's access falls between them. -/
def execAtoms (p : Bool) (op : AtomOp) (ty : AtomTy) (d a : VNum) (c : Ctr) (s : State) : Result State :=
  let t := s.tl
  let lanes := laneAddrs t.act fun i => ((t.rv a).lane i).toNat
  let wid := s.wgIdOf s.cur
  .next (match t.gOver (t.atomVals ty.is64 d t.act fun _ => 0) with
  | some q => s.gTrap q
  | none =>
    match spadFail s.spadSize (atomSize ty) true lanes with
    | some (k, o, i) => s.spadTrap k o 0 i
    | none =>
      let (m, rs) := atomLanes op ty (s.wg wid).bytes (lanes.map fun e => (e.1, e.2, t.atomArg ty d e.1))
      let ds := t.atomVals ty.is64 d t.act fun i => (tget (0, 0) rs i).1
      let fl := rs.foldl (fun (x : Flags) e => x ||| e.2.2) 0
      let s1 := s.startResult .atoms (ds.map fun e => .v e.1 e.2) (ds.flatMap fun e => uv e.1) (some c.toNat) fl 6
      (s1.putWg wid { s1.wg wid with bytes := m }).finish p)

/-! ## PWPL -/

/-- Segment j of a table at an offset (R162). -/
def readSegment (m : List Host.Cell) (o : Nat) : Segment :=
  ⟨readWord m o, readWord m (o + 4), readWord m (o + 8), readWord m (o + 12), readWord m (o + 16)⟩

/-- PWPL (R162).
DESIGN CHOICE (log 94): it reads all its 16-byte units in one step. -/
def execPwpl (p : Bool) (a b : SReg) (s : State) : Result State :=
  let o := (s.tl.rs a).toNat
  let n := (s.tl.rs b).toNat
  let wid := s.wgIdOf s.cur
  let w := s.wg wid
  .next (if n = 0 ∨ 64 < n then s.illegal 0x08
    else
      match spadFail w.spad 4 true ((List.range (5 * n)).map fun k => (0, o + 4 * k)) with
      | some (k, q, _) => s.spadTrap k q 0 0
      | none => (s.setWg wid { w with segs := (List.range n).map fun j => readSegment w.bytes (o + 20 * j) }).finish p)

/-! ## LREFILL -/

/-- The items a refill pops, and the lanes that take them (R182). -/
def refillLanes (l : Word) (avail cap : Nat) : List Nat :=
  let ls := activeLanes l
  ls.take (Nat.min ls.length (Nat.min avail cap))

/-- LREFILL (R182).
DESIGN CHOICE (log 102): a fault of the queue object itself, which is no lane's, gives LANE 0. -/
def execLrefill (p : Bool) (d : VNum) (a : SReg) (c : Ctr) (wide : Bool) (m : MReg) (s : State) : Result State :=
  let t := s.tl
  let wid := s.wgIdOf s.cur
  let w := s.wg wid
  let q := (t.rs a).toNat
  let size := if wide then 8 else 4
  let shape := t.atomVals wide d 0 fun _ => 0
  .next (match t.gOver shape with
  | some r => s.gTrap r
  | none =>
    match spadFail w.spad 16 true [(0, q)] with
    | some (k, o, _) => s.spadTrap k o 0 0
    | none =>
      let head := readNat w.bytes q 4
      let cap := 2 ^ (readNat w.bytes (q + 8) 4 % 32)
      let diff := (readNat w.bytes (q + 4) 4 + 2 ^ 32 - head) % 2 ^ 32
      let l := t.act &&& t.rm m
      let ls := refillLanes l (if 2 ^ 31 ≤ diff then 0 else diff) cap
      let itemAt (j : Nat) : Nat := q + 16 + (head + j) % 2 ^ 32 % cap * size
      match spadFail w.spad size true (ls.zipIdx.map fun e => (e.1, itemAt e.2)) with
      | some (k, o, i) => s.spadTrap k o 0 i
      | none =>
        let vals : Table Nat := ls.zipIdx.map fun e => (e.1, readNat w.bytes (itemAt e.2) size)
        let got := maskOf fun i => ls.contains i
        let ds := (destRegs d (if wide then 2 else 1)).zipIdx.map fun e =>
          (e.1, VReg.g (lanes32.map fun i => if got.getLsbD i then bv 32 (tget 0 vals i / 2 ^ (32 * e.2)) else (t.rv e.1).lane i))
        let mask : List RegVal := if m = 0 then [] else [.m m got]
        let s1 := s.startResult .lrefill ((ds.map fun e => RegVal.v e.1 e.2) ++ mask) ((ds.flatMap fun e => uv e.1) ++ um m) (some c.toNat) 0 6
        (s1.putWg wid { s1.wg wid with bytes := writeNat w.bytes q 4 ((head + ls.length) % 2 ^ 32) }).finish p)

end Sys2Proof.Machine
end

