-- ==== Sys2Proof/Machine/Sync.lean ====
section
/-! DEFINITION. Synchronisation: ARRIVE (R217), WAIT.b (R219, R316), WAIT.a (R212), FENCE (R213) and WATCH (R222). -/

namespace Sys2Proof.Machine

/-! ## ARRIVE -/

/-- ARRIVE at an object of a rank, adding bytes: the release, then the checks of the offset and the rank, then the arrival (R217, R218). -/
def State.arriveOp (s : State) (r info scope add : Nat) (d a : SReg) (p : Bool) : State :=
  let o := (s.tl.rs a).toNat
  s.releaseThen scope fun s1 =>
    match spadFail s1.spadSize 16 (s1.rankOk r) [(0, o)] with
    | some (k, q, _) => s1.spadTrap k q info 0
    | none =>
      let wid := s1.wgAt r
      let w := s1.wg wid
      match w.arrive o scope add with
      | none => s1.spadTrap .overrun o info 0
      | some w' => (s1.putWg wid w').writeS d (barPhase w.bytes o) p

/-- ARRIVE (R217). -/
def execArrive (p : Bool) (d a : SReg) (s : State) : Result State := .next (s.arriveOp s.tl.rank 0 1 0 d a p)
/-- ARRIVE.x (R217). -/
def execArriveX (p : Bool) (d a b : SReg) (s : State) : Result State :=
  .next (s.arriveOp s.tl.rank 0 1 (s.tl.rs b).toNat d a p)
/-- ARRIVE.r (R217). TINFO1's RANK field, 2 bits wide, takes the rank modulo 4 (R206, log 85). -/
def execArriveR (p : Bool) (d a b : SReg) (s : State) : Result State :=
  let r := (s.tl.rs b).toNat
  .next (s.arriveOp r (r % 4) 2 0 d a p)

/-! ## WAIT -/

/-- The engine mark that a tiller's WAIT.b on an object raises (R316). -/
def State.markFor (s : State) (tid off : Nat) : Option EngMark :=
  match tfind (s.wg (s.wgIdOf tid)).marks (off / 16) with
  | some m => if m.tiller = (s.tiller tid).num then some m else none
  | none => none

/-- Whether a tiller has an access out that an acquire waits for (R213). -/
def State.awaitsLanding (s : State) (tid : Nat) : Bool := !(s.pendingAccesses tid 0 false true).isEmpty

/-- WAIT.b (R219, R316). Its acquire waits for the tiller's loads and results that are still out; it returns when they have landed (R213). -/
def execWaitB (p : Bool) (a b : SReg) (s : State) : Result State :=
  let t := s.tl
  let o := (t.rs a).toNat
  let v := t.rs b
  let wid := s.wgIdOf s.cur
  let w := s.wg wid
  .next (match spadFail w.spad 16 true [(0, o)] with
  | some (k, q, _) => s.spadTrap k q 0 0
  | none =>
    match s.markFor s.cur o with
    | some m => (s.setWg wid { w with marks := tdel w.marks (o / 16) }).trapHere 0x0E m.info0 m.info1
    | none =>
      let passed := phasePassed (barPhase w.bytes o) v
      if passed && !s.awaitsLanding s.cur then (s.acquire (coreOf s.cur) (w.lScope o)).finish p
      else s.modTl fun u => { u with block := .waitB o v p (if passed then some (w.lScope o) else none), gapEnd := s.gapFrom s.cur })

/-- The return of a blocked WAIT.b whose phase has passed: the acquire at LSCOPE (R219). Its word has issued, so that a GAP counts from its cycle (R190). -/
def execWaitBReturn (tid : Nat) (s : State) : Result State :=
  let t := s.tiller tid
  .next (match t.block with
  | .waitB _ _ p (some sc) =>
    if t.halt.holds || s.awaitsLanding tid then s
    else
      let s1 := ({ s with cur := tid }.setTiller tid { t with block := .none }).acquire (coreOf tid) sc
      (s1.finish p).modTl fun u => { u with gapEnd := t.gapEnd }
  | .none | .waitA .. | .waitB _ _ _ none | .fault .. => s)

/-- WAIT.a (R212). One that waits has issued: a GAP counts from its cycle (R190). -/
def execWaitA (p : Bool) (c : Ctr) (b : BitVec 7) (s : State) : Result State :=
  .next (if Nat.ble (s.tl.ctr c.toNat) b.toNat then s.finish p
    else s.modTl fun t => { t with block := .waitA c.toNat b.toNat p, gapEnd := s.gapFrom s.cur })

/-! ## FENCE -/

/-- FENCE: the write-backs of its release, and what it waits for (R213). -/
def State.fence (s : State) (rel acq : Bool) (sc : Scope) (c : Ctr) (p : Bool) : State :=
  let n := scopeNum sc
  let (s1, ws) := if rel then s.release s.cur n acq else (s, s.pendingAccesses s.cur n false true)
  let (s2, f) := s1.startStore c { Flight.blank with kind := .fence acq n, waits := ws }
  (s2.addFlight f).finish p

/-- FENCE.acq (R213). -/
def execFenceAcq (p : Bool) (sc : Scope) (c : Ctr) (s : State) : Result State := .next (s.fence false true sc c p)
/-- FENCE.rel (R213). -/
def execFenceRel (p : Bool) (sc : Scope) (c : Ctr) (s : State) : Result State := .next (s.fence true false sc c p)
/-- FENCE.ar (R213). -/
def execFenceAr (p : Bool) (sc : Scope) (c : Ctr) (s : State) : Result State := .next (s.fence true true sc c p)

/-- The completion of a FENCE whose waits are over: its acquire, then its counter (R213); and of the release an instruction makes first, whose word then goes on. -/
def execFenceComplete (id : Nat) (s : State) : Result State :=
  let f := s.flight id
  .next (match f.kind with
  | .fence acq sc =>
    if f.waits.isEmpty then (if acq then s.acquire f.core sc else s).land id [] 0 else s
  | .hold _ =>
    if f.waits.isEmpty then
      ((s.setTiller f.tid { s.tiller f.tid with again := true }).delFlight id).goesOn f.tid
    else s
  | .result _ | .load .. | .remote .. | .ldp .. | .atomic .. | .vrst .. | .vtag _ | .store | .spadStore .. | .pref | .watch | .sys .. => s)

/-! ## WATCH -/

/-- A tiller's oldest armed watch, cancelled with its arrival where 16 are armed (R222). -/
def State.trimWatches (s : State) (tid : Nat) : State :=
  match (s.tiller tid).watches with
  | [] => s
  | q :: rest =>
    if Nat.blt rest.length 15 then s
    else
      match (s.slices.findSome? fun e => (e.2.watches.find? fun w => w.seq == q).map fun w => (e.1, w)) with
      | none => s.setTiller tid { s.tiller tid with watches := rest }
      | some (n, w) =>
        let sl := s.slice n
        (s.setSlice n { sl with watches := sl.watches.filter fun x => x.seq != q }).watchArrive w

/-- An access of the issuing instruction that does not go through: parked for a replay, or a precise fault (R275, R324). -/
def State.accFail (s : State) (f : AccFault) (va lane : Nat) (acc : Access) : State :=
  match accTrap f va lane with
  | some (k, i0, i1) => s.trapHere k i0 i1
  | none => s.parkFault s.cur va acc (replayOf f == some true)

/-- A data-error fault of the issuing instruction, for a lane's line or for a held block (R275, R330). -/
def State.dataHere (s : State) (va lane : Nat) (held : Bool) : State :=
  if held then s.trapHere 0x10 (info0Of (va / 128 * 128)) (info1Of (va / 128 * 128) lane 0)
  else s.trapHere 0x0F (info0Of (va / 64 * 64)) (info1Of (va / 64 * 64) lane 0)

/-- WATCH: the tiller waits until the home has armed it (R222); a home behind a link that is down is a data error, as for a load (R365, R367). It is an access of a whole line: the control space takes none (R368). -/
def execWatch (p : Bool) (a b : SReg) (s : State) : Result State :=
  let t := s.tl
  let o := (t.rs b).toNat
  let va := (t.rp a).toNat / 64 * 64
  let core := coreOf s.cur
  .next (match spadFail s.spadSize 16 true [(0, o)] with
  | some (k, q, _) => s.spadTrap k q 0 0
  | none =>
    if 2 ^ 56 ≤ va then s.accFail .range va 0 .load
    else
      match s.translate core (slotOf s.cur) (s.tenantOf s.cur) (s.rootOf s.cur) va .load with
      | (.error f, s1) => s1.accFail f va 0 .load
      | (.ok r, s1) =>
        match s1.mayUse s1.cur 64 va false r with
        | .error f => s1.accFail f va 0 .load
        | .ok r =>
        if s1.linkDown r.pa then s1.dataHere va 0 false
        else
          (((s1.trimWatches s1.cur).finish p)).startFlight { Flight.blank with
            tid := s1.cur, core := core, kind := .watch
            parts := [⟨r.key, r.pa, va, r.attr, 0, r.page, .watch o, .unsent, [], false, false⟩] })

end Sys2Proof.Machine
end

