-- ==== Sys2Proof/Machine/Mem.lean ====
section
/-! DEFINITION. Global memory instructions: LDG, LDGX, STG, STGX (R276), LDP (R227), ATOM, RED and CAS (R279 to R283), PREF (R285), VSAV and VRST (R144). -/

namespace Sys2Proof.Machine

/-! ## Checks of the lanes (R275) -/

/-- The place of a check in the order of R275. -/
def AccFault.rank : AccFault → Nat
  | .misaligned => 0
  | .range => 1
  | .replay _ | .trans _ => 2
  | .coded => 3
  | .phys _ _ => 4

/-- A lane of an access with the line it reaches, or why it does not. -/
structure LaneHit where
  lane : Nat
  va : Nat
  line : Except AccFault LineRef

/-- The line of one lane's access of `w` bytes, aligned to `al`, alignment and range checked first (R275). -/
def State.laneLine (s : State) (tid w al : Nat) (acc : Access) (codedOk : Bool) (va : Nat) : Except AccFault LineRef × State :=
  if va % al ≠ 0 then (.error .misaligned, s)
  else if 2 ^ 56 ≤ va then (.error .range, s)
  else
    match s.translate (coreOf tid) (slotOf tid) (s.tenantOf tid) (s.rootOf tid) va acc with
    | (.ok r, s1) => (s1.mayUse tid w va codedOk r, s1)
    | (.error f, s1) => (.error f, s1)

/-- The lines of several lanes, `w` giving the bytes that each accesses. -/
def State.laneLines (s : State) (tid : Nat) (w : Nat → Nat) (al : Nat) (acc : Access) (codedOk : Bool) : List (Nat × Nat) → List LaneHit × State
  | [] => ([], s)
  | (i, va) :: rest =>
    let (r, s1) := s.laneLine tid (w i) al acc codedOk va
    let (rs, s2) := s1.laneLines tid w al acc codedOk rest
    (⟨i, va, r⟩ :: rs, s2)

/-- The failure to report: the earliest check of R275 that fails in any lane, in its lowest lane. -/
def firstFail (best : Option (AccFault × Nat × Nat)) : List LaneHit → Option (AccFault × Nat × Nat)
  | [] => best
  | h :: rest =>
    match h.line, best with
    | .ok _, b => firstFail b rest
    | .error f, none => firstFail (some (f, h.va, h.lane)) rest
    | .error f, some (g, va, i) => firstFail (if f.rank < g.rank then some (f, h.va, h.lane) else some (g, va, i)) rest

/-- The lanes that have their lines. -/
def goodLanes : List LaneHit → List (Nat × Nat × LineRef)
  | [] => []
  | h :: rest =>
    match h.line with
    | .ok r => (h.lane, h.va, r) :: goodLanes rest
    | .error _ => goodLanes rest

/-- A line put among others in ascending order of address, once, whatever address it was reached by (R272, R273). -/
def insertLine (r : LineRef) (l : List LineRef) : List LineRef :=
  if l.any fun x => x.key == r.key then l else (l.filter fun x => Nat.ble x.va r.va) ++ [r] ++ l.filter fun x => Nat.blt r.va x.va

/-- The distinct lines of a list of lanes, ascending. -/
def distinctLines (ls : List (Nat × Nat × LineRef)) : List LineRef := ls.foldl (fun l e => insertLine e.2.2 l) []

/-- The bytes of a line an access needs, as offsets. -/
def lineNeeds (key : LKey) (ls : List (Nat × Nat × LineRef)) (w : Nat) : List Nat :=
  (ls.filter fun e => e.2.2.key == key).flatMap fun e => (List.range w).map fun k => e.2.1 % 64 + k

/-- Whether the issuing core's L1 holds the bytes of a line at some offsets. -/
def State.l1Holds (s : State) (r : LineRef) (needs : List Nat) : Bool :=
  match (s.core (coreOf s.cur)).l1find r.key with
  | some l => needs.all fun o => (l.at o).isSome
  | none => false

/-- Whether a load goes beyond the L1 for a line (R271, R272). -/
def State.loadOut (s : State) (h : Hint) (needs : List Nat) (r : LineRef) : Bool := h == .byp || r.attr == 2 || !s.l1Holds r needs

/-- Whether a store goes beyond the L1 for a line (R271, R272). -/
def State.storeOut (s : State) (h : Hint) (r : LineRef) : Bool := h == .byp || r.attr == 2 || (h == .strm && !s.l1Holds r [])

/-- An instruction's lines checked: it goes on with its lanes, or faults (R275); a line behind a link that is down is a data error (R365), and so is a held block that the instruction reaches through the codec, which `out` says (R106). -/
def State.withLines (s : State) (w : Nat → Nat) (al : Nat) (acc : Access) (codedOk : Bool) (lanes : List (Nat × Nat))
    (out : State → List (Nat × Nat × LineRef) → LineRef → Bool) (k : List (Nat × Nat × LineRef) → State → State) : State :=
  let (hs, s1) := s.laneLines s.cur w al acc codedOk lanes
  match firstFail none hs with
  | some (f, va, i) => s1.accFail f va i acc
  | none =>
    let ls := goodLanes hs
    match ls.find? fun e => s1.linkDown e.2.2.pa || (e.2.2.coded && s1.blockHeld e.2.2.key.base && out s1 ls e.2.2) with
    | some e => s1.dataHere e.2.1 e.1 e.2.2.coded
    | none => k ls s1

/-! ## Loads -/

/-- The 64 bytes of an L1 line, 0x00 where a byte is not valid. -/
def L1Line.bytes (l : L1Line) : List Byte := l.cells.map fun c =>
  match c with
  | .dirty b | .clean b => b
  | .invalid => 0

/-- A line made the most, or the least, recently used of its set. -/
def State.l1Touch (s : State) (core : Nat) (l : L1Line) (lru : Bool) : State :=
  let c := s.core core
  let others := c.l1.filter fun x => x.key != l.key
  s.setCore core { c with l1 := if lru then l :: others else others ++ [l] }

/-- The 64 bytes of a line of the control space as it stands. -/
def State.ctlLine (s : State) (pa : Nat) : List Byte :=
  (List.range 8).flatMap fun k => bytesOfNat (s.ctlWord (pa % 2 ^ 32 / 64 * 64 + 8 * k)) 8

/-- A line of an operation that needs nothing sent. -/
def donePart (r : LineRef) (data : List Byte) : Part :=
  ⟨r.key, r.pa, r.va, r.attr, r.crid, r.page, .read false false false, .done, data, false, false⟩

/-- A line of an operation still to be sent. -/
def newPart (r : LineRef) (op : ReqOp) : Part := ⟨r.key, r.pa, r.va, r.attr, r.crid, r.page, op, .unsent, [], false, false⟩

/-- One line of a load, served per its hint; one that goes past the L1 leaves it when it is sent (R271, R272). -/
def State.loadPart (s : State) (h : Hint) (needs : List Nat) (r : LineRef) : Part × State :=
  let core := coreOf s.cur
  if physKind r.pa = .control then (donePart r (s.ctlLine r.pa), s)
  else if h = .byp ∨ r.attr = 2 then (newPart r (.read false false false), s)
  else
    match (s.core core).l1find r.key with
    | some l =>
      if s.l1Holds r needs then (donePart r l.bytes, s.l1Touch core l (h == .last))
      else (newPart r (.read (h != .strm) true (h == .last)), s)
    | none => (newPart r (.read (h != .strm) true (h == .last)), s)

/-- The lines of a load, ascending. -/
def State.loadParts (s : State) (h : Hint) (ls : List (Nat × Nat × LineRef)) (w : Nat) : List LineRef → List Part × State
  | [] => ([], s)
  | r :: rest =>
    let (p, s1) := s.loadPart h (lineNeeds r.key ls w) r
    let (ps, s2) := s1.loadParts h ls w rest
    (p :: ps, s2)

/-- Where each lane's bytes stand. -/
def laneRefs (ls : List (Nat × Nat × LineRef)) : List LaneRef := ls.map fun e => ⟨e.1, e.2.2.key, e.2.1 % 64⟩

/-- A load at the addresses of the active lanes (R275, R276). -/
def State.loadAt (s : State) (t : VNum) (wd : Width) (h : Hint) (c : Ctr) (addr : Nat → Nat) (p : Bool) : State :=
  let shape := s.tl.loadShape t wd
  match s.tl.gOver shape with
  | some q => s.gTrap q
  | none =>
    let w := Width.size wd
    s.withLines (fun _ => w) w .load true (laneAddrs s.tl.act addr) (fun st ls r => st.loadOut h (lineNeeds r.key ls w) r) fun ls s1 =>
      let (ps, s2) := s1.loadParts h ls w (distinctLines ls)
      let (s3, f) := s2.startPending shape c { Flight.blank with kind := .load t wd (laneRefs ls), left := 16 }
      (s3.startFlight { f with parts := ps }).finish p

/-- LDG (R276). -/
def execLdg (p : Bool) (t : VNum) (a : Addr) (c : Ctr) (wd : Width) (h : Hint) (s : State) : Result State :=
  .next (s.loadAt t wd h c (s.tl.addrOf a wd) p)
/-- LDGX (R276). -/
def execLdgx (p : Bool) (t : VNum) (a : Addr) (c : Ctr) (wd : Width) (h : Hint) (lit : Word) (s : State) : Result State :=
  .next (s.loadAt t wd h c (s.tl.addrX a wd lit) p)

/-! ## Stores -/

/-- The bytes a store leaves in a line, by offset, in lane order. -/
def lineBytesOf (key : LKey) (ls : List (Nat × Nat × LineRef)) (bytes : Nat → List Byte) : List (Nat × Byte) :=
  (ls.filter fun e => e.2.2.key == key).flatMap fun e => atOff (e.2.1 % 64) (bytes e.1)

/-- The last byte written at each offset of a line. -/
def lastWrites (w : List (Nat × Byte)) : List (Nat × Byte) :=
  (List.range 64).filterMap fun o => ((w.filter fun e => e.1 == o).getLast?).map fun e => (o, e.2)

/-- A lane's store to the control space. -/
def State.ctlStore (s : State) (va : Nat) (r : LineRef) (bs : List Byte) : State :=
  s.ctlWrite false (r.pa % 2 ^ 32 + va % 64) bs.length (natOfBytes bs)

/-- Stores to the control space, in lane order (R368). -/
def State.ctlStores (s : State) (bytes : Nat → List Byte) : List (Nat × Nat × LineRef) → State
  | [] => s
  | e :: rest => (s.ctlStore e.2.1 e.2.2 (bytes e.1)).ctlStores bytes rest

/-- One line of a store, per its hint: into the L1, or a line to be sent (R271, R272). -/
def State.storePart (s : State) (h : Hint) (w : List (Nat × Byte)) (r : LineRef) : Option Part × State :=
  let core := coreOf s.cur
  if physKind r.pa = .control then (none, s)
  else if h = .byp ∨ r.attr = 2 then (some (newPart r (.write w false)), s)
  else if h = .strm ∧ ((s.core core).l1find r.key).isNone then (some (newPart r (.write w false)), s)
  else (none, s.l1Store s.cur r w (h == .last))

/-- The lines of a store, ascending. -/
def State.storeParts (s : State) (h : Hint) (ls : List (Nat × Nat × LineRef)) (bytes : Nat → List Byte) : List LineRef → List Part × State
  | [] => ([], s)
  | r :: rest =>
    let (p, s1) := s.storePart h (lastWrites (lineBytesOf r.key ls bytes)) r
    let (ps, s2) := s1.storeParts h ls bytes rest
    (p.toList ++ ps, s2)

/-- A store of bytes at the addresses of lanes (R275, R276, R277). -/
def State.storeAt (s : State) (w al : Nat) (h : Hint) (c : Ctr) (lanes : List (Nat × Nat)) (bytes : Nat → List Byte) (p : Bool) : State :=
  s.withLines (fun _ => w) al .store true lanes (fun st _ r => st.storeOut h r) fun ls s1 =>
    let s2 := s1.ctlStores bytes (ls.filter fun e => physKind e.2.2.pa == .control)
    let (ps, s3) := s2.storeParts h ls bytes (distinctLines ls)
    let (s4, f) := s3.startStore c { Flight.blank with kind := .store, parts := ps }
    (s4.startFlight f).finish p

/-- STG (R276). -/
def execStg (p : Bool) (t : VNum) (a : Addr) (c : Ctr) (wd : Width) (h : Hint) (s : State) : Result State :=
  let w := Width.size wd
  .next (s.storeAt w w h c (laneAddrs s.tl.act (s.tl.addrOf a wd)) (s.tl.laneBytes t wd) p)
/-- STGX (R276). -/
def execStgx (p : Bool) (t : VNum) (a : Addr) (c : Ctr) (wd : Width) (h : Hint) (lit : Word) (s : State) : Result State :=
  let w := Width.size wd
  .next (s.storeAt w w h c (laneAddrs s.tl.act (s.tl.addrX a wd lit)) (s.tl.laneBytes t wd) p)

/-! ## Register records (R143, R144) -/

/-- The words of a register's record (R143). -/
def VReg.record (v : VReg) : List Word :=
  match v with
  | .u x => [0, x]
  | .a b st => [1, b, st]
  | .g l => 2 :: (lanes32.map fun i => lget 0 l i)

/-- The number of words of a record of a tag; a tag of 3 is read as G (R143, R144). -/
def recordWords (tag : Nat) : Nat := match tag with
  | 0 => 2
  | 1 => 3
  | _ => 33

/-- The register that a record's tag and payload words give (R143, R144). -/
def recordReg (tag : Nat) (ws : List Word) : VReg := match tag with
  | 0 => .u (lget 0 ws 0)
  | 1 => .a (lget 0 ws 0) (lget 0 ws 1)
  | _ => .g ws

/-- The addresses of `n` words from one on, as accesses of lane 0. -/
def wordAddrs (va n : Nat) : List (Nat × Nat) := (List.range n).map fun k => (0, (va + 4 * k) % 2 ^ 64)

/-- VSAV (R144). -/
def execVsav (p : Bool) (t : VNum) (a : SReg) (c : Ctr) (h : Hint) (s : State) : Result State :=
  let base := (s.tl.rp a).toNat
  let ws := (s.tl.rv t).record
  let lanes := ws.zipIdx.map fun e => (e.2, (base + 4 * e.2) % 2 ^ 64)
  .next (s.withLines (fun _ => 4) 4 .store true (wordAddrs base ws.length) (fun st _ r => st.storeOut h r) fun _ s1 =>
    s1.storeAt 4 4 h c lanes (fun k => bytesOfNat (lget 0 ws k).toNat 4) p)

/-- The words of a VRST at some addresses, checked as a load of lane 0 (R144, R275). -/
def State.vrstLines (s : State) (h : Hint) (lanes : List (Nat × Nat)) (k : List (Nat × Nat × LineRef) → State → State) : State :=
  s.withLines (fun _ => 4) 4 .load true lanes (fun st ls r => st.loadOut h (lineNeeds r.key ls 4) r) k

/-- The first read of a VRST: the line of its record's first word, whose tag the rest depends on; the word goes on once it has come (R144, R185, log 43). -/
def State.vrstTag (s : State) (base : Nat) (h : Hint) : State :=
  s.vrstLines h (wordAddrs base 1) fun ls s1 =>
    let (ps, s2) := s1.loadParts h ls 4 (distinctLines ls)
    match laneRefs ls with
    | [] => s2
    | r :: _ =>
      (s2.modTl fun u => { u with again := true, gapEnd := s2.gapFrom s2.cur }).startFlight { Flight.blank with tid := s2.cur, core := coreOf s2.cur, kind := .vtag r, parts := ps }

/-- VRST: the first word is read, and then the words its tag asks for (R144). An error in the first word is the load's (R278). -/
def execVrst (p : Bool) (t : VNum) (a : SReg) (c : Ctr) (h : Hint) (s : State) : Result State :=
  let base := (s.tl.rp a).toNat
  let shape : List (VNum × VReg) := [(t, .g (s.tl.rv t).lanes)]
  let start (first : Nat) (words : List LaneRef) (ps : List Part) (s1 : State) : State :=
    let (s2, f) := (s1.modTl fun u => { u with vtag := none }).startPending shape c { Flight.blank with kind := .vrst t first words, left := 16 }
    (s2.startFlight { f with parts := ps }).finish p
  .next (match s.tl.gOver shape with
  | some q => s.gTrap q
  | none =>
    match s.tl.vtag with
    | none => s.vrstTag base h
    | some (q, r) =>
      if q.err || q.held then start 0 [] [q] s
      else
        let first := natOfBytes ((q.data.drop r.off).take 4)
        s.vrstLines h (wordAddrs (base + 4) (recordWords (first % 4) - 1)) fun ls s1 =>
          let (ps, s2) := s1.loadParts h ls 4 (distinctLines ls)
          start first (laneRefs ls) ps s2)

/-! ## Parameter windows -/

/-- The bytes of a window that a lane reads, by virtual address: none beyond its size (R227). -/
def windowBytes (w : Window) (o n : Nat) : List (Option Nat) :=
  (List.range n).map fun k => if w.size ≤ o + k then none else some (w.base + o + k)

/-- The lanes' bytes that need a line the parameter cache does not hold: of each line and lane the first that the lane reads (R226, R275). -/
def paramMisses (c : Core) (launch : Nat) (lanes : List (Nat × List (Option Nat))) : List (Nat × Nat) :=
  lanes.flatMap fun e =>
    let vas := (e.2.filterMap id).foldl (fun l a => if l.any fun x => x / 64 == a / 64 then l else l ++ [a]) []
    (vas.filter fun v => !(c.pcache.any fun x => x.launch == launch && x.va == v / 64 * 64)).map fun v => (e.1, v)

/-- The lines the parameter cache holds already, as lines of the operation; a rate that no page has keeps their keys apart from those of physical lines. -/
def paramHits (c : Core) (launch : Nat) (lanes : List (Nat × List (Option Nat))) : List Part :=
  let vas := lanes.foldl (fun l e => (e.2.filterMap id).foldl (fun l a => addNew l (a / 64 * 64)) l) []
  vas.filterMap fun v => (c.pcache.find? fun x => x.launch == launch && x.va == v).map fun x =>
    ⟨⟨v, 0, 1⟩, v, v, 0, 0, 0, .param launch, .done, x.bytes, false, false⟩

/-- The lines of a window that are to be filled, one for each virtual address (R226). -/
def windowLines (ls : List (Nat × Nat × LineRef)) : List LineRef :=
  ls.foldl (fun l e => if l.any fun x => x.va == e.2.2.va then l else l ++ [e.2.2]) []

/-- One line of an LDP that the parameter cache does not hold: a fill, or a read of the control space, which no cache holds (R226, R368). -/
def State.windowPart (s : State) (launch : Nat) (r : LineRef) : Part :=
  if physKind r.pa = .control then donePart r (s.ctlLine r.pa) else newPart r (.param launch)

/-- LDP (R226, R227). An access that reaches the control space is a lane's own, where it is aligned and lies in the window (R368). -/
def execLdp (p : Bool) (t : VNum) (a : Addr) (c : Ctr) (wd : Width) (n : BitVec 3) (s : State) : Result State :=
  let core := coreOf s.cur
  let ln := (s.sheaf s.tl.sheaf).launch
  let w := lget ⟨0, 0⟩ (s.launch ln).wins n.toNat
  let size := Width.size wd
  let offs := laneAddrs s.tl.act fun i => match a with
    | .sc r => (s.tl.rs r).toNat
    | .vec r => ((s.tl.rv r).lane i).toNat
  let lanes := offs.map fun e => (e.1, windowBytes w e.2 size)
  let shape := s.tl.loadShape t wd
  let bytesOf (i : Nat) : Nat := if (w.base + tget 0 offs i) % size = 0 ∧ tget 0 offs i + size ≤ w.size then size else 1
  let go (oob : Bool) : State :=
    s.withLines bytesOf 1 .load true (paramMisses (s.core core) ln lanes) (fun _ _ _ => true) fun ls s1 =>
      let (s2, f) := s1.startPending shape c { Flight.blank with kind := .ldp t wd oob lanes, left := 10 }
      (s2.startFlight { f with parts := paramHits (s.core core) ln lanes ++ (windowLines ls).map (s1.windowPart ln) }).finish p
  .next (match s.tl.gOver shape with
  | some q => s.gTrap q
  | none =>
    match (lanes.zip offs).find? fun e => e.1.2.contains none with
    | some e =>
      if s.tl.pwinTrap then s.trapHere 0x0C (bv 32 (Nat.max e.2.2 w.size)) (bv 32 (n.toNat + 2 ^ 8 * e.1.1))
      else go true
    | none => go false)

/-! ## Atomics -/

/-- The lanes of an atomic that fall in a line (R279). -/
def atomPart (r : LineRef) (ls : List (Nat × Nat × LineRef)) (operand cmp : Nat → Nat) : List AtomLane :=
  (ls.filter fun e => e.2.2.key == r.key).map fun e => ⟨e.1, e.2.2.pa + e.2.1 % 64, operand e.1, cmp e.1⟩

/-- The lines of an atomic as they are sent; each leaves the L1 then, its dirty bytes written back (R279). -/
def atomParts (op : AtomOp) (ty : AtomTy) (cas ret : Bool) (ls : List (Nat × Nat × LineRef)) (operand cmp : Nat → Nat) : List Part :=
  (distinctLines ls).map fun r => newPart r (.atomic op ty cas ret (atomPart r ls operand cmp))

/-- The word of the atomic-flag table for an address: its entry's as the map stood before a change under way, or 256 (R284). -/
def State.aftWord (s : State) (pa : Nat) : Nat :=
  match s.resid.find? fun e => e.2.covers pa && e.2.old with
  | some e => e.1
  | none => 256

/-- The flags of a reduction's lane recorded by an OR (R282, R284). -/
def State.orAft (s : State) (pa : Nat) (fl : Flags) : State :=
  match physKind pa with
  | .peer _ => s
  | .hbm _ | .granary | .host | .control | .hole =>
    if s.aftbase % 2 = 0 ∨ fl &&& 0x1F = 0 then s
    else
      let a := s.aftbase / 4096 * 4096 + 4 * s.aftWord pa
      s.homeNat a 1 ((readByte s.mem a).toNat ||| (fl &&& 0x1F).toNat)

/-- What an atomic's lane leaves in its place, with its flags (R280, R283). -/
def atomNext (op : AtomOp) (ty : AtomTy) (cas : Bool) (old : Nat) (l : AtomLane) : Nat × Flags :=
  if cas then (if old = l.cmp then l.operand else old, 0) else atomNew op ty old l.operand

/-- The lanes of the steward's atomic on the control space, in order: they act on its registers at once, as its loads and stores do (R279, R368). Each old value comes with its flags. -/
def State.ctlAtoms (s : State) (op : AtomOp) (ty : AtomTy) (cas ret : Bool) : List AtomLane → State × List (Nat × Nat × Flags)
  | [] => (s, [])
  | l :: rest =>
    let n := atomSize ty
    let old := s.ctlRead (l.pa % 2 ^ 32) n
    let (new, fl) := atomNext op ty cas old l
    let s1 := s.ctlWrite false (l.pa % 2 ^ 32) n new
    let (s2, rs) := (if ret then s1 else s1.orAft l.pa fl).ctlAtoms op ty cas ret rest
    (s2, (l.lane, old, fl) :: rs)

/-- Old values and flags put into an atomic's operation; a reduction keeps neither (R281, R282). -/
def Flight.takeOlds (f : Flight) (ret : Bool) (rs : List (Nat × Nat × Flags)) : Flight :=
  { f with
    olds := rs.foldl (fun t e => tput t e.1 e.2.1) f.olds
    flags := if ret then rs.foldl (fun x e => x ||| e.2.2) f.flags else f.flags }

/-- An atomic sent once its lines are checked: what it does to the control space at once, and the lines that its homes serve. -/
def State.sendAtom (s : State) (op : AtomOp) (ty : AtomTy) (cas ret : Bool) (ls : List (Nat × Nat × LineRef)) (operand cmp : Nat → Nat) (f : Flight) (p : Bool) : State :=
  let here := ls.filter fun e => physKind e.2.2.pa == .control
  let (s1, rs) := s.ctlAtoms op ty cas ret ((distinctLines here).flatMap fun r => atomPart r here operand cmp)
  let away := ls.filter fun e => physKind e.2.2.pa != .control
  (s1.startFlight { f.takeOlds ret rs with parts := atomParts op ty cas ret away operand cmp }).finish p

/-- A returning atomic (R281, R283). -/
def State.atomAt (s : State) (op : AtomOp) (ty : AtomTy) (cas : Bool) (t a : VNum) (c : Ctr) (lit : Word) (operand cmp : Nat → Nat) (p : Bool) : State :=
  let w := atomSize ty
  let shape := s.tl.atomVals ty.is64 t s.tl.act fun _ => 0
  match s.tl.gOver shape with
  | some q => s.gTrap q
  | none =>
    s.withLines (fun _ => w) w .atomic false (laneAddrs s.tl.act (s.tl.addrL a lit)) (fun _ _ _ => false) fun ls s1 =>
      let (s2, f) := s1.startPending shape c { Flight.blank with kind := .atomic t ty.is64 }
      s2.sendAtom op ty cas true ls operand cmp f p

/-- ATOM (R281). -/
def execAtom (p : Bool) (op : AtomOp) (ty : AtomTy) (t a : VNum) (c : Ctr) (lit : Word) (s : State) : Result State :=
  .next (s.atomAt op ty false t a c lit (s.tl.atomArg ty t) (fun _ => 0) p)

/-- CAS: T holds the compare value and the register or pair after it the new value (R283). -/
def execCas (p wide : Bool) (t a : VNum) (c : Ctr) (lit : Word) (s : State) : Result State :=
  let ty : AtomTy := if wide then .d else .w
  .next (s.atomAt .exch ty true t a c lit (s.tl.atomArg ty (t + (if wide then 2 else 1))) (s.tl.atomArg ty t) p)

/-- RED (R282). -/
def execRed (p : Bool) (op : AtomOp) (ty : AtomTy) (t a : VNum) (c : Ctr) (lit : Word) (s : State) : Result State :=
  let w := atomSize ty
  .next (s.withLines (fun _ => w) w .atomic false (laneAddrs s.tl.act (s.tl.addrL a lit)) (fun _ _ _ => false) fun ls s1 =>
    let (s2, f) := s1.startStore c { Flight.blank with kind := .store }
    s2.sendAtom op ty false false ls (s.tl.atomArg ty t) (fun _ => 0) f p)

/-! ## Prefetches -/

/-- The lines of a PREF, without those that fail a check (R285). -/
def State.prefLines (s : State) (lanes : List (Nat × Nat)) : List LineRef × State :=
  let (hs, s1) := s.laneLines s.cur (fun _ => 64) 1 .load true lanes
  ((distinctLines (goodLanes hs)).filter fun r => physKind r.pa != .control && !s1.linkDown r.pa, s1)

/-- A PREF's lines sent where a slot is free within the cap; the others are dropped (R285). -/
def State.sendPref (s : State) (ps : List Part) : State :=
  let id := s.fresh
  let s1 := s.startFlight { Flight.blank with tid := s.cur, core := coreOf s.cur, kind := .pref, parts := ps }
  let f := s1.flight id
  let kept := f.parts.filter fun q => q.st != .unsent
  if kept.isEmpty then s1.delFlight id else s1.setFlight id { f with parts := kept }

/-- Whether a line lacks a valid byte in a core's L1. -/
def State.notInL1 (s : State) (core : Nat) (r : LineRef) : Bool :=
  match (s.core core).l1find r.key with
  | some l => l.cells.any L1Byte.isInvalid
  | none => true

/-- PREF.l1 (R285). -/
def execPrefL1 (p : Bool) (a : VNum) (lit : Word) (s : State) : Result State :=
  let (ls, s1) := s.prefLines (laneAddrs s.tl.act (s.tl.addrL a lit))
  let ps := (ls.filter fun r => r.attr != 2 && s1.notInL1 (coreOf s1.cur) r && !(r.coded && s1.blockHeld r.key.base)).map fun r => newPart r (.read true true false)
  .next ((s1.sendPref ps).finish p)

/-- PREF.gr (R285). -/
def execPrefGr (p : Bool) (a : VNum) (lit : Word) (s : State) : Result State :=
  let (ls, s1) := s.prefLines (laneAddrs s.tl.act (s.tl.addrL a lit))
  .next ((s1.sendPref (ls.map fun r => newPart r .prefGr)).finish p)

end Sys2Proof.Machine
end

