-- ==== Sys2Proof/Machine/Land.lean ====
section
/-! DEFINITION. Landings and completions of outstanding operations (R74, R126, R209, R227, R276, R278, R281). An event whose operation is not ready, or is of another kind, does nothing. -/

namespace Sys2Proof.Machine

/-- Whether every line of an operation is done. -/
def Flight.ready (f : Flight) : Bool := f.left == 0 && f.parts.all fun p => p.st == .done

/-- The line of an operation that met an uncorrectable error. -/
def Flight.badPart (f : Flight) : Option Part := f.parts.find? fun p => p.err || p.held

/-- The deferred error of a load: its registers land unchanged, and the first instruction to touch them faults (R278).
DESIGN CHOICE (log 98): a register that was G before a load that would have made it U gets its G contents and tag back, without a slot being asked for, so that the G registers can then be one more than NG.
A store that has met a held block names no register: its tiller's next instruction faults (R106, log 45). -/
def State.landBad (s : State) (id : Nat) (p : Part) (lane : Nat) (flags : Flags) : State :=
  let f := s.flight id
  let va := if p.held then p.va / 128 * 128 else p.va
  let e : ErrMark := ⟨f.regs, f.ctr, p.pa, info0Of va, info1Of va lane 0, p.held⟩
  let s1 := s.land id f.out flags
  s1.setTiller f.tid { s1.tiller f.tid with errs := (s1.tiller f.tid).errs ++ [e] }

/-- The bytes of a line of an operation. -/
def Flight.lineData (f : Flight) (k : LKey) : List Byte :=
  match f.parts.find? fun p => p.key == k with
  | some p => p.data
  | none => []

/-- A number of `n` bytes at a place of an operation's lines. -/
def Flight.numAt (f : Flight) (r : LaneRef) (n : Nat) : Nat := natOfBytes (((f.lineData r.key).drop r.off).take n)

/-- The lowest lane that reads a line. -/
def laneOf (refs : List LaneRef) (k : LKey) : Nat :=
  match refs.find? fun r => r.key == k with
  | some r => r.lane
  | none => 0

/-- The lanes' values of a load. -/
def Flight.laneVals (f : Flight) (refs : List LaneRef) (n : Nat) : Table Nat := refs.map fun r => (r.lane, f.numAt r n)

/-- Vector registers as values that land. -/
def asRegs (ds : List (VNum × VReg)) : List RegVal := ds.map fun e => .v e.1 e.2

/-- LOAD_LAND (R276, R278). -/
def execLoadLand (id : Nat) (s : State) : Result State :=
  let f := s.flight id
  .next (match f.kind with
  | .load t wd refs =>
    if !f.ready then s
    else
      match f.badPart with
      | some p => s.landBad id p (laneOf refs p.key) 0
      | none =>
        let vals := f.laneVals refs (Width.size wd)
        s.land id (asRegs ((s.tiller f.tid).loadVals t wd f.mask fun i => tget 0 vals i)) 0
  | .result _ | .remote .. | .ldp .. | .atomic .. | .vrst .. | .vtag _ | .store | .spadStore .. | .fence .. | .pref | .watch | .sys .. | .hold _ => s)

/-- The rank that an operation on another workgroup's allocation names (R209). -/
def FlightKind.rank : FlightKind → Option Nat
  | .remote _ _ r _ => some r
  | .spadStore r _ => some r
  | .result _ | .load .. | .ldp .. | .atomic .. | .vrst .. | .vtag _ | .store | .fence .. | .pref | .watch | .sys .. | .hold _ => none

/-- Whether an earlier operation of the tiller on the same allocation has yet to perform (R207). -/
def State.rankBefore (s : State) (id : Nat) : Bool :=
  let f := s.flight id
  s.flights.any fun e => Nat.blt e.1 id && e.2.tid == f.tid && e.2.kind.rank == f.kind.rank

/-- The byte at an address of the lines of a window load. -/
def Flight.byteAt (f : Flight) (a : Nat) : Nat :=
  match f.parts.find? fun p => p.va == a / 64 * 64 with
  | some p => (lget 0 p.data (a % 64)).toNat
  | none => 0

/-- A lane's value of a window load; a byte beyond the window is 0 (R227). -/
def Flight.windowVal (f : Flight) : List (Option Nat) → Nat
  | [] => 0
  | some a :: rest => f.byteAt a + 256 * f.windowVal rest
  | none :: rest => 256 * f.windowVal rest

/-- A result computed at issue that lands, once its time has passed. -/
def State.landResult (s : State) (id : Nat) (row : LandRow) : State :=
  let f := s.flight id
  match f.kind with
  | .result r => if r = row ∧ f.left = 0 then s.land id f.out f.flags else s
  | .load .. | .remote .. | .ldp .. | .atomic .. | .vrst .. | .vtag _ | .store | .spadStore .. | .fence .. | .pref | .watch | .sys .. | .hold _ => s

/-- SCRATCHPAD_LOAD_LAND: LDS, LDX and LDP (R209, R227). -/
def execScratchpadLoadLand (id : Nat) (s : State) : Result State :=
  let f := s.flight id
  let t := s.tiller f.tid
  .next (match f.kind with
  | .result _ => s.landResult id .spad
  | .remote d wd r offs =>
    if f.left ≠ 0 ∨ s.rankBefore id then s
    else
      let m := (s.wg (wgOf t.sheaf r)).bytes
      s.land id (asRegs (t.loadVals d wd f.mask fun i => readNat m (tget 0 offs i) (Width.size wd))) 0
  | .ldp d wd oob lanes =>
    if !f.ready then s
    else
      match f.badPart with
      | some p => s.landBad id p (match lanes.find? fun e => (e.2.filterMap fun a => a).any fun a => a / 64 * 64 == p.va with
          | some e => e.1
          | none => 0) (if oob then flagPWIN else 0)
      | none => s.land id (asRegs (t.loadVals d wd f.mask fun i => f.windowVal (tget [] lanes i))) (if oob then flagPWIN else 0)
  | .load .. | .atomic .. | .vrst .. | .vtag _ | .store | .spadStore .. | .fence .. | .pref | .watch | .sys .. | .hold _ => s)

/-- ATOMIC_RESULT_LAND: ATOMS, ATOM and CAS (R210, R281, R283). -/
def execAtomicResultLand (id : Nat) (s : State) : Result State :=
  let f := s.flight id
  .next (match f.kind with
  | .result _ => s.landResult id .atoms
  | .atomic d wide =>
    if !f.ready then s
    else
      match f.badPart with
      | some p => s.landBad id p (match p.op with
          | .atomic _ _ _ _ (l :: _) => l.lane
          | .atomic _ _ _ _ [] | .read .. | .param _ | .write .. | .watch _ | .prefGr => 0) f.flags
      | none => s.land id (asRegs ((s.tiller f.tid).atomVals wide d f.mask fun i => tget 0 f.olds i)) f.flags
  | .load .. | .remote .. | .ldp .. | .vrst .. | .vtag _ | .store | .spadStore .. | .fence .. | .pref | .watch | .sys .. | .hold _ => s)

/-- CORD_LAND (R87, R160). -/
def execCordLand (id : Nat) (s : State) : Result State := .next (s.landResult id .cord)
/-- FDIV_FSQRT_LAND (R147, R155). -/
def execFdivFsqrtLand (id : Nat) (s : State) : Result State := .next (s.landResult id .divf)
/-- DIV_REM_LAND (R128). -/
def execDivRemLand (id : Nat) (s : State) : Result State := .next (s.landResult id .divi)
/-- LREFILL_LAND (R182). -/
def execLrefillLand (id : Nat) (s : State) : Result State := .next (s.landResult id .lrefill)

/-- VRST_LAND: the first word of a record, with which the VRST goes on, or the whole record (R144). -/
def execVrstLand (id : Nat) (s : State) : Result State :=
  let f := s.flight id
  .next (match f.kind with
  | .vtag r =>
    (match f.ready, f.parts with
    | true, q :: _ => (((s.setTiller f.tid { s.tiller f.tid with vtag := some (q, r) }).delFlight id).sendAll f.core).goesOn f.tid
    | true, [] | false, _ => s)
  | .vrst t first refs =>
    if !f.ready then s
    else
      match f.badPart with
      | some p => s.landBad id p 0 0
      | none => s.land id [.v t (recordReg (first % 4) (refs.map fun r => bv 32 (f.numAt r 4)))] 0
  | .result _ | .load .. | .remote .. | .ldp .. | .atomic .. | .store | .spadStore .. | .fence .. | .pref | .watch | .sys .. | .hold _ => s)

/-- STORE_PERFORM (R209, R276, R282). -/
def execStorePerform (id : Nat) (s : State) : Result State :=
  let f := s.flight id
  .next (match f.kind with
  | .store =>
    if !f.ready then s
    else
      (match f.parts.find? fun p => p.held with
      | some p => s.landBad id p 0 0
      | none => s.land id [] 0)
  | .spadStore r cells =>
    if s.rankBefore id then s
    else (s.spadWrite (wgOf (s.tiller f.tid).sheaf r) cells).land id [] 0
  | .result _ | .load .. | .remote .. | .ldp .. | .atomic .. | .vrst .. | .vtag _ | .fence .. | .pref | .watch | .sys .. | .hold _ => s)

end Sys2Proof.Machine
end

