-- ==== Sys2Proof/Machine/Home.lean ====
section
/-! DEFINITION. Home slices (R254): the serving of requests, CACHE and KV contracts (R260 to R262), the multicast buffer (R286), atomics (R279), watches (R222), the snoop filter (R366), the links (R365, R367), and the HBM banks (R264 to R267). -/

namespace Sys2Proof.Machine

/-! ## What a request does -/

/-- The parts of an operation that a served line fills: set to wait for the bank with its bytes, or done. -/
def State.fillPart (s : State) (r : Req) (data : List Byte) (err bank : Bool) : State :=
  match r.flight with
  | none => s
  | some id =>
    if bank then
      match tfind s.flights id with
      | none => s
      | some f => s.setFlight id { f with parts := f.parts.map fun p =>
          if p.key == r.key && p.st == .sent then { p with st := .bank, data := data, err := err } else p }
    else s.partDone id r.key data err false

/-- A line put into the parameter cache, which holds 64 KiB; the one that was filled first leaves (R226, log 86). -/
def Core.paramPut (c : Core) (x : PLine) : Core :=
  let l := (c.pcache.filter fun y => !(y.launch == x.launch && y.va == x.va)) ++ [x]
  { c with pcache := l.drop (l.length - 1024) }

/-- Lines of an operation's windows put into the parameter cache (R226). -/
def State.paramPuts (s : State) (core launch : Nat) (ls : List (Nat × LKey × List Byte)) : State :=
  s.setCore core (ls.foldl (fun c e => c.paramPut ⟨launch, e.1, e.2.1, e.2.2⟩) (s.core core))

/-- The line of an operation that a request serves, as its L1 is to know it. -/
def State.reqLine (s : State) (r : Req) : LineRef :=
  match r.flight.bind fun id => (s.flight id).parts.find? fun p => p.key == r.key with
  | some p => ⟨r.key, r.pa, p.attr, false, p.crid, p.va, p.page⟩
  | none => ⟨r.key, r.pa, 0, false, 0, 0, 0⟩

/-- The addresses by which a request's operation reaches its line. -/
def State.reqVas (s : State) (r : Req) : List Nat :=
  match r.flight with
  | some id => ((s.flight id).parts.filter fun p => p.key == r.key).map (·.va)
  | none => []

/-- A read, fill, prefetch or parameter fill at its home (R226, R269, R276, R286): its bytes are those of the line now, under what its core's L1 has written.
A window's line holds the bytes of the home at its fill (R226, log 86); a line whose core has sent a store or an atomic after the read is not installed (R279, R289). -/
def State.serveRead (s : State) (sl : Nat) (r : Req) (install overlay last : Bool) (launch : Option Nat) : State :=
  let home := if s.backed r.pa then s.lineBytes r.pa else (List.range 64).map (Config.unbackedByte r.id)
  let err := s.bad r.pa
  let data := if overlay then (s.core r.src).overDirty r.key (s.overPending r.src r.key home) else home
  let (waits, s1) := s.homeAccess sl r.pa r.tenant r.src (if launch.isSome then .fetch r.flight else .read) false last
  let s2 := if install && !err && !s.storePending r.src r.key then s1.l1Fill r.src r.tid (s.reqLine r) data last else s1
  let s3 := match launch with
    | some n => if err then s2 else s2.paramPuts r.src n ((s.reqVas r).map fun v => (v, r.key, data))
    | none => s2
  s3.fillPart r data err waits

/-- A write at its home under its byte mask (R269). A write of every byte of a line repairs it. -/
def State.serveWrite (s : State) (sl : Nat) (r : Req) (bytes : List (Nat × Byte)) (last : Bool) : State :=
  let full := Nat.ble 64 ((bytes.foldl (fun l e => addNew l e.1) []).length)
  let s1 := if s.backed r.pa then s.homePut (bytes.map fun e => (r.pa / 64 * 64 + e.1, e.2)) else s
  let s2 := if full then { s1 with badLines := s1.badLines.filter fun l => l != r.pa / 64 } else s1
  let s3 := (s2.homeAccess sl r.pa r.tenant r.src (.write full) false last).2.performed r.id 5
  match r.flight with
  | some id => s3.partDone id r.key [] false false
  | none => s3

/-! ## Atomics -/

/-- The lanes of an atomic at its home, in order: each old value with its flags (R279, R283). -/
def State.atomApply (s : State) (op : AtomOp) (ty : AtomTy) (cas ret : Bool) : List AtomLane → State × List (Nat × Nat × Flags)
  | [] => (s, [])
  | l :: rest =>
    let n := atomSize ty
    let old := readNat s.mem l.pa n
    let (new, fl) := atomNext op ty cas old l
    let s1 := s.putNat l.pa n new
    let (s2, rs) := (if ret then s1 else s1.orAft l.pa fl).atomApply op ty cas ret rest
    (s2, (l.lane, old, fl) :: rs)

/-- An atomic at its home (R279 to R283); where its line is not in the granary, it is done once the line has come from HBM (R265); its read of the bank serves it alone (R286). -/
def State.serveAtomic (s : State) (sl : Nat) (r : Req) (op : AtomOp) (ty : AtomTy) (cas ret : Bool) (lanes : List AtomLane) : State :=
  let err := s.bad r.pa
  let unbacked (l : AtomLane) : Nat × Nat × Flags := (l.lane, natOfBytes ((List.range (atomSize ty)).map fun k => Config.unbackedByte r.id (l.pa + k)), 0)
  let (s1, rs) := if err then (s, []) else if !s.backed r.pa then (s, lanes.map unbacked) else s.atomApply op ty cas ret lanes
  let (waits, s2) := s1.homeAccess sl r.pa r.tenant r.src (.atomic r.flight) false false
  match r.flight with
  | none => s2
  | some id =>
    match tfind s2.flights id with
    | none => s2
    | some f => (s2.setFlight id (f.takeOlds ret rs)).fillPart r [] err waits

/-! ## Watches and prefetches -/

/-- Arming a watch: the oldest of a full table is cancelled with its arrival (R222). -/
def State.armWatch (s : State) (sl : Nat) (r : Req) (bar : Nat) : State :=
  match r.flight with
  | none => s
  | some id =>
    if (tfind s.flights id).isNone then s
    else
      let x := s.slice sl
      let s1 := match x.watches with
        | w :: rest => if Nat.ble 256 x.watches.length then (s.setSlice sl { x with watches := rest }).watchArrive w else s
        | [] => s
      let y := s1.slice sl
      let s2 := s1.setSlice sl { y with watches := y.watches ++ [⟨r.pa / 64 * 64, r.tid, s1.wgIdOf r.tid, bar, r.id⟩] }
      let t := s2.tiller r.tid
      (s2.setTiller r.tid { t with watches := t.watches ++ [r.id] }).partDone id r.key [] false false

/-- Lines placed in the granary one after the other, and whether one of them waits for its bank (R265, R285). -/
def State.placeLines (s : State) (sl : Nat) (r : Req) : List Nat → Bool × State
  | [] => (false, s)
  | l :: rest =>
    let (w, s1) := s.homeAccess sl l r.tenant r.src .place false false
    let (ws, s2) := s1.placeLines sl r rest
    (w || ws, s2)

/-- PREF.gr at the home (R285); a coded block's line brings the lines of its coded bytes (R100), and holds its slot until they have come (R265). -/
def State.servePrefGr (s : State) (sl : Nat) (r : Req) : State :=
  let (waits, s1) := s.placeLines sl r (if r.key.rate = 0 then [r.pa] else linesFrom r.key.base (2 * r.key.rate))
  s1.fillPart r [] false waits

/-- A request performing at its home. -/
def State.performReq (s : State) (r : Req) : State :=
  let sl := s.home r.pa
  match r.op with
  | .read install overlay last => s.serveRead sl r install overlay last none
  | .param n => s.serveRead sl r false false false (some n)
  | .write bytes last => s.serveWrite sl r bytes last
  | .atomic op ty cas ret lanes => s.serveAtomic sl r op ty cas ret lanes
  | .watch bar => s.armWatch sl r bar
  | .prefGr => s.servePrefGr sl r

/-! ## The snoop filter (R366) -/

/-- Whether a request writes at its home. -/
def ReqOp.writes : ReqOp → Bool
  | .write .. | .atomic .. => true
  | .read .. | .param _ | .watch _ | .prefGr => false

/-- A request that waits for an answer over a link. -/
def State.toLink (s : State) (r : Req) (snoop : Bool) : State := { s with links := s.links ++ [⟨r, snoop⟩] }

/-- A request to the host or to a peer put on its link: a write to host memory has then performed below .sy (R288); an atomic executes at its home alone (R279). -/
def State.sendOut (s : State) (r : Req) : State :=
  let s1 := s.toLink r false
  if !(⟨r, false⟩ : LinkReq).atHome then s1
  else
    match r.flight with
    | none => s1.performed r.id 4
    | some id => if s1.performedAt id 3 (s1.flight id) then s1.performed id 4 else s1

/-- A request that a link has lost: it ends in an uncorrectable error, and a watch that is not armed leaves a data error to its tiller's next instruction (R222, R365, R367). -/
def State.loseReq (s : State) (r : Req) : State :=
  match r.flight with
  | none => s.performed r.id 5
  | some id =>
    let s1 := match r.op, (s.flight id).parts with
      | .watch _, p :: _ =>
        let t := s.tiller r.tid
        s.setTiller r.tid { t with errs := t.errs ++ [(⟨[], none, r.pa, info0Of p.va, info1Of p.va 0 0, false⟩ : ErrMark)] }
      | .watch _, [] | .read .., _ | .param _, _ | .write .., _ | .atomic .., _ | .prefGr, _ => s
    (s1.performed r.id 5).partDone id r.key (List.replicate 64 0) true false

/-- A request that the home serves: it goes to a link, waits for the host's answer to a back-invalidation, or performs (R279, R365, R366, R367).
Over a link that is down it ends in an uncorrectable error. -/
def State.serveOwn (s : State) (r : Req) : State :=
  match physKind r.pa with
  | .host | .peer _ =>
    if s.linkDown r.pa then s.loseReq r else s.sendOut r
  | .hbm _ | .granary | .control | .hole =>
    if r.op.writes then
      match s.snoopMatch r.pa with
      | 0 => s.performReq r
      | 1 => { s with pkg := s.pkg.unsnoop (s.partOf r.pa) (r.pa / 64 * 64) }.toLink r true
      | _ => { s with pkg := { s.pkg with sfx := s.pkg.sfx + 1 } }.performReq r
    else s.performReq r

/-- What a read from outside brings its source: the bytes of the line, or zeros where nothing stands behind it (R365). -/
def State.answer (s : State) (r : Req) : State :=
  let bs := if s.backed r.pa then s.lineBytes r.pa else List.replicate 64 0
  { s with pkg := { s.pkg with answers := tput s.pkg.answers r.tid (r.pa / 64 * 64, bs) } }

/-- A line that the host has read enters the filter; a full partition first calls back its oldest entry, whose answer the read then waits for (R366). -/
def State.hostTakes (s : State) (r : Req) : State :=
  let p := s.partOf r.pa
  let line := r.pa / 64 * 64
  let k := s.pkg.unsnoop p line
  let mine := k.snoops.filter fun e => e.part == p
  let taken : State := { s with pkg := { k with snoops := k.snoops ++ [(⟨line, p, s.entryTenant r.pa⟩ : SnoopEntry)] } }
  match mine with
  | old :: _ =>
    if Nat.ble 16384 mine.length then ({ s with pkg := k.unsnoop p old.line } : State).toLink { r with key := ⟨old.line, 0, 0⟩ } true
    else (taken.performReq r).answer r
  | [] => (taken.performReq r).answer r

/-- Every L1's copy of a HOST line that the host reads or writes: its dirty bytes are sent home, and where the host writes the copy is dropped (R271). -/
def State.hostFlush (s : State) (line : Nat) (wr : Bool) : State :=
  let k : LKey := ⟨line, 0, 0⟩
  s.cores.foldl (fun st e =>
    match (st.core e.1).l1find k with
    | some l => if l.attr ≠ 3 then st else if wr then st.purgeLine e.1 l.writer k else st.writeBackAll e.1 none fun x => x.key == k
    | none => st) s

/-- Whether a write-back of a line is on its way from some core, waits at its home, or waits for the host's answer. -/
def State.backComing (s : State) (line : Nat) : Bool :=
  let p (r : Req) : Bool := r.src != 256 && r.flight.isNone && r.pa / 64 * 64 == line && r.op.writes
  s.transit.any p || ((s.slice (s.home line)).queue.any p) || s.links.any fun l => p l.req

/-- A request of the host (`tid` 0) or of a peer at its home (R365, R366): source core 256. The host's waits for the write-backs of a HOST line (R271). -/
def State.serveOuter (s : State) (r : Req) : State :=
  if r.tid = 0 then
    if !s.backed r.pa then
      let s1 : State := { s with pkg := { s.pkg with hostErr := s.pkg.hostErr + 1 } }
      if r.op.writes then s1 else s1.answer r
    else
      let s1 := s.hostFlush (r.pa / 64 * 64) r.op.writes
      if s1.backComing (r.pa / 64 * 64) then { s1 with transit := s1.transit ++ [r] }
      else if r.op.writes then s1.performReq r
      else s1.hostTakes r
  else if !s.backed r.pa then s
  else if r.op.writes then s.serveOwn r
  else (s.serveOwn r).answer r

/-- A request served: the device's own, or one from outside. -/
def State.serveReq (s : State) (r : Req) : State := if r.src = 256 then s.serveOuter r else s.serveOwn r

/-! ## HOME_SLICE_SERVE -/

/-- Whether an access to a line waits before its home: for a change of its contract (R259), or behind a request for which the host is called back (R366). -/
def State.detained (s : State) (pa : Nat) : Bool := s.heldRange pa || s.called (pa / 64 * 64)

/-- The oldest request of a source that is on its way to a slice, if nothing detains it (R254, R259, R366). -/
def State.arrivalOf (s : State) (sl src : Nat) : Option Req :=
  match s.transit.find? fun r => r.src == src && s.home r.pa == sl with
  | some r => if s.detained r.pa then none else some r
  | none => none

/-- Requests of the listed sources that reach a slice's queue together (log 3). -/
def State.arrivals (s : State) (sl age : Nat) : List Nat → State
  | [] => s
  | src :: rest =>
    match s.arrivalOf sl src with
    | none => s.arrivals sl age rest
    | some r =>
      let x := s.slice sl
      ({ s with transit := s.transit.filter fun q => q.id != r.id }.setSlice sl { x with queue := x.queue ++ [{ r with age := age }] }).arrivals sl age rest

/-- Whether one request is served before another (R254). -/
def servedBefore (ptr : Nat) (a b : Req) : Bool :=
  Nat.blt a.age b.age || (a.age == b.age && Nat.blt (afterPtr ptr a.src) (afterPtr ptr b.src))

/-- Whether a request is a write-back of a core, of no operation. -/
def Req.isBack (r : Req) : Bool := r.src != 256 && r.flight.isNone && r.op.writes

/-- Whether a write-back stands behind an earlier one of its core to the same slice, that waits for the host or stands before it in the queue (R270). -/
def State.backBehind (s : State) (sl : Nat) (r : Req) : Bool :=
  let before (q : Req) : Bool := q.isBack && q.src == r.src && Nat.blt q.id r.id
  r.isBack && ((s.links.any fun l => l.snoop && before l.req && s.home l.req.pa == sl) || (s.slice sl).queue.any before)

/-- The request of a slice's queue that is served next; those whose line the host is called back for wait, and write-backs behind one that waits (R254, R270, R366). -/
def State.nextAt (s : State) (sl : Nat) : Option Req :=
  let x := s.slice sl
  match x.queue.filter fun r => !s.called (r.pa / 64 * 64) && !s.backBehind sl r with
  | [] => none
  | r :: rest => some (rest.foldl (fun a b => if servedBefore x.rr b a then b else a) r)

/-- The requests of a slice's queue served, one after the other; `fuel` is their number (R254, log 3). -/
def State.serveQueue (s : State) (sl : Nat) : Nat → State
  | 0 => s
  | fuel + 1 =>
    match s.nextAt sl with
    | none => s
    | some r =>
      let x := s.slice sl
      ((s.setSlice sl { x with queue := x.queue.filter (fun q => q.id != r.id), rr := r.src }).serveReq r).serveQueue sl fuel

/-- HOME_SLICE_SERVE (R254). -/
def execHomeSliceServe (sl : Nat) (srcs : List Nat) (s : State) : Result State :=
  let s1 := { s with fresh := s.fresh + 1 }.arrivals sl s.fresh srcs
  .next (s1.serveQueue sl (s1.slice sl).queue.length)

/-- MULTICAST_ENTRY_EXPIRY (R286). -/
def execMulticastEntryExpiry (sl line : Nat) (s : State) : Result State :=
  let x := s.slice sl
  .next (s.setSlice sl { x with mcast := x.mcast.filter fun e => e.1 != line || Nat.ble s.now (e.2 + mcastTicks) })

/-- An uncorrectable error strikes a line of an L1 that holds dirty bytes: they are lost, the line goes, and a data-error record is sent for the tiller that wrote it last (R270, R372). -/
def State.strikeL1 (s : State) (core : Nat) (l : L1Line) : State :=
  if l.dirtyBytes.isEmpty then s
  else (s.setCore core ((s.core core).l1del l.key)).postTiller l.writer 0x0003 1 l.key.base

/-- L1_WRITEBACK_DEADLINE: a line of a core's cache, 10,000 ns after a byte of it went dirty; or, where `at0` says so, an uncorrectable error that is found in it (R270). -/
def execL1WritebackDeadline (core : Nat) (at0 : L1Place) (s : State) : Result State :=
  .next (match (s.core core).l1[at0.k]? with
  | some l =>
    if at0.err then s.strikeL1 core l
    else if s.now < l.since + 10000 * ticksPerNs then s
    else s.writeBackAll core none fun x => x.key == l.key
  | none => s)

/-! ## HBM (R264 to R268) -/

/-- The source whose oldest waiting request is admitted next (R264). -/
def Bank.nextSrc (b : Bank) : Option BankReq :=
  match b.waiting with
  | [] => none
  | r :: rest => some (rest.foldl (fun x y => if Nat.blt (afterPtr b.last y.src) (afterPtr b.last x.src) then y else x) r)

/-- HBM_ADMIT (R264). -/
def execHbmAdmit (die k : Nat) (s : State) : Result State :=
  let n := 2048 * die + k
  let b := s.bank n
  .next (if 16 ≤ b.queue.length then s
    else
      match b.nextSrc with
      | none => s
      | some r => s.setBank n { b with waiting := b.waiting.erase r, queue := b.queue ++ [r], last := r.src })

/-- A row activation at the counters: the counters, and whether THRESH is reached (R266). -/
def activate (thresh row : Nat) (cs : List ActCtr) : List ActCtr × Bool :=
  let upd := if cs.any fun c => c.row == row then cs.map fun c => if c.row = row then { c with count := c.count + 1 } else c
    else if cs.length < 16 then cs ++ [⟨row, 1, 0⟩]
    else (cs.map fun c => { c with count := c.count - 1 }).filter fun c => c.count != 0
  (upd, upd.any fun c => c.row == row && Nat.ble thresh c.count)

/-- A number put among others in ascending order. -/
def insertNat (n : Nat) (l : List Nat) : List Nat := (l.filter fun x => Nat.blt x n) ++ [n] ++ l.filter fun x => Nat.blt n x

/-- The row that a draw gives among the rows that a table does not name: the draw numbers those rows (R267, log 6). -/
def unnamedRow (swaps : List (Nat × Nat)) (draw : Nat) : Nat :=
  ((swaps.flatMap fun e => [e.1, e.2]).foldl (fun l n => insertNat n l) []).foldl (fun r n => if n ≤ r then r + 1 else r) draw

/-- SwapRow: the draw is an open value; a full table first exchanges its oldest pair back (R267). -/
def Bank.swapRow (b : Bank) (row : Nat) (draw : Nat) : Bank × Nat :=
  let (l, k) := if 64 ≤ b.swaps.length then (b.swaps.drop 1, 2) else (b.swaps, 1)
  ({ b with swaps := l ++ [(row, unnamedRow l (Config.swapRow draw))] }, k)

/-- The activation of a row: counters, refresh management and swaps (R266, R267). -/
def State.activateRow (s : State) (n row : Nat) : State :=
  let d := s.die (n / 2048)
  if !d.en then s
  else
    let b := s.bank n
    let (cs, hit) := activate (Nat.max d.thresh 1) row b.ctrs
    if !hit then s.setBank n { b with ctrs := cs }
    else
      let trig := match cs.find? fun c => c.row == row with
        | some c => (c.trig + 1) % 8
        | none => 0
      let b1 := { b with ctrs := cs.map fun c => if c.row = row then { c with count := 0, trig := trig } else c }
      if d.swapn ≠ 0 ∧ trig = d.swapn then
        let (b2, k) := b1.swapRow row s.fresh
        { s with dies := tput s.dies (n / 2048) { d with rmcount := d.rmcount + 1, swapcount := d.swapcount + k }, fresh := s.fresh + 1 }.setBank n b2
      else { s with dies := tput s.dies (n / 2048) { d with rmcount := d.rmcount + 1 } }.setBank n b1

/-- The record of a change of a bank's mode (R372, R375). -/
def State.bankRecord (s : State) (n entered : Nat) : State :=
  s.postRoot 0x000C entered (n / 2048 + 2 ^ 16 * (n / 16 % 128) + 2 ^ 32 * (n % 16))

/-- A corrected error of the granary or of HBM counted for its die (R376). -/
def State.countFix (s : State) (die : Nat) (hbm : Bool) : State :=
  let e := tget (0, 0) s.pkg.corrected die
  { s with pkg := { s.pkg with corrected := tput s.pkg.corrected die (if hbm then (e.1, e.2 + 1) else (e.1 + 1, e.2)) } }

/-- A corrected error of a bank: it is counted, and 8 within one second put the bank into retry mode (R375, R376). -/
def State.bankError (s0 : State) (n : Nat) : State :=
  let s := s0.countFix (n / 2048) true
  let b := s.bank n
  let es := (b.errs.filter fun t => Nat.blt s.time (t + 1000000000)) ++ [s.time]
  if b.retry then s.setBank n { b with errs := es, retrySince := s.time }
  else if 8 ≤ es.length then (s.setBank n { b with errs := es, retry := true, retrySince := s.time }).bankRecord n 1
  else s.setBank n { b with errs := es }

/-- The physical lines of a part of an operation. -/
def Part.lines (p : Part) : List Nat := if p.key.rate = 0 then [p.pa / 64 * 64] else linesFrom p.key.base (2 * p.key.rate)

/-- The lines of operations that wait for a line of a bank are done: those of the operation that a read serves alone, or else all that wait for no read of their own; a coded one once none of its block's lines waits (R265, R286). -/
def State.bankDone (s : State) (line : Nat) (own : Option Nat) : State :=
  s.flights.foldl (fun st e =>
    if own == some e.1 || (own.isNone && !st.ownBusy line e.1) then
      (st.flight e.1).parts.foldl (fun st2 p =>
        if p.st == .bank && p.lines.contains line && (p.key.rate == 0 || !(p.lines.any st2.bankBusy)) then st2.partDone e.1 p.key p.data p.err p.held else st2) st
    else st) s

/-- HBM_BANK_SERVICE: the head of a bank's queue; `row` is the row it activates and `err` a corrected error it met (R264 to R267, R375). -/
def execHbmBankService (die k row : Nat) (err : Bool) (s : State) : Result State :=
  let n := 2048 * die + k
  let b := s.bank n
  .next (match b.queue with
  | [] => s
  | r :: rest =>
    let s1 := (s.setBank n { b with queue := rest }).activateRow n row
    let s2 := if err then s1.bankError n else s1
    if r.read then s2.bankDone r.line r.own else s2)

/-- ACTIVATION_COUNTER_RESET: every 32 ms every counter is freed (R266). -/
def execActivationCounterReset (s : State) : Result State :=
  .next { s with banks := s.banks.map fun (e : Nat × Bank) => (e.1, { e.2 with ctrs := [] }) }

/-- BANK_RETRY_LEAVE: 60 s without a corrected error (R375). -/
def execBankRetryLeave (die k : Nat) (s : State) : Result State :=
  let n := 2048 * die + k
  let b := s.bank n
  .next (if b.retry ∧ b.retrySince + 60000000000 ≤ s.time then (s.setBank n { b with retry := false, errs := [] }).bankRecord n 0 else s)

/-! ## The codec (R101 to R106, R111) -/

/-- The write-backs of a block that wait in its core's codec, laid over one of its lines: what the L1 has written stays visible to its core (R289). -/
def Core.overQueue (c : Core) (k : LKey) (data : List Byte) : List Byte :=
  c.jobs.foldl (fun d j =>
    match j.kind with
    | .write _ none w _ => if j.base == k.base && j.rate == k.rate then overlay d ((w.filter fun e => e.1 / 64 == k.h).map fun e => (e.1 % 64, e.2)) else d
    | .write _ (some _) _ _ | .decode .. | .engine .. | .device .. | .busy => d) data

/-- Whether a store to a block waits in its core's codec: no decode that was queued before it installs the block (R289). -/
def Core.storeQueued (c : Core) (base rate : Nat) : Bool :=
  c.jobs.any fun j => j.base == base && j.rate == rate &&
    (match j.kind with
    | .write _ (some _) _ _ => true
    | .write _ none _ _ | .decode .. | .engine .. | .device .. | .busy => false)

/-- What a decode delivers: both lines of the block installed, clean, in the L1 or the parameter cache, and each operation's line done (R101, R226, R272). -/
def State.decodeDone (s : State) (core : Nat) (j : CodecJob) (fs : List Nat) (install : Bool) : State :=
  let held := s.blockHeld j.base
  let err := s.blockBad j.base j.rate
  let data := s.blockLogical j.base j.rate
  let key (h : Nat) : LKey := ⟨j.base, h, j.rate⟩
  let half (h : Nat) : List Byte := (data.drop (64 * h)).take 64
  let seen (h : Nat) : List Byte := (s.core core).overQueue (key h) (half h)
  let fill (h : Nat) (st : State) : State :=
    st.l1Fill core (s.jobTid j) ⟨key h, j.base, j.attr, true, j.crid, j.va / 128 * 128 + 64 * h, 0⟩ (seen h) (s.lastHint fs fun k => k == key h)
  let s1 := if install && !err && !held && !(s.core core).storeQueued j.base j.rate && !([0, 1].any fun h => s.storeUnsent core (key h)) then fill 1 (fill 0 s) else s
  fs.foldl (fun st id =>
    (st.flight id).parts.foldl (fun st2 p =>
      if p.st == .codec && p.key.base == j.base && p.key.rate == j.rate then
        let d := match p.op with
          | .read _ true _ => (st2.core core).overDirty p.key (seen p.key.h)
          | .read _ false _ | .param _ | .write .. | .atomic .. | .watch _ | .prefGr => half p.key.h
        let st3 := match p.op with
          | .param n =>
            if err || held then st2
            else st2.paramPuts core n ([0, 1].map fun h => (p.va / 128 * 128 + 64 * h, key h, half h))
          | .read .. | .write .. | .atomic .. | .watch _ | .prefGr => st2
        st3.partDone id p.key d err held
      else st2) st) s1

/-- A write-back struck by an uncorrectable error under its lock: its bytes are lost, its line leaves the L1, the block is held, and a record is sent to the region of the tiller that caused it (R106, R372). -/
def State.holdBlock (s : State) (core : Nat) (j : CodecJob) (dirty : List (Nat × Byte)) (cause : Nat) : State :=
  let c := s.core core
  let s1 := s.setCore core { c with l1 := c.l1.filter fun l => !(l.key.base == j.base && l.key.rate == j.rate) }
  s1.strikeBlock j.base j.va dirty.length cause j.engine

/-- The end of the locked sequence of R102, `err` being an uncorrectable error under the lock (R104, R106). A block that is already held takes no store: its tiller's access faults; a write-back that no access makes loses its bytes, with a record of its own (log 45). -/
def State.sequenceDone (s : State) (core : Nat) (j : CodecJob) (id : Nat) (fl : Option Nat) (dirty : List (Nat × Byte)) (cause : Nat) (err : Bool) : State :=
  let fin (st : State) (held : Bool) : State :=
    let st1 := st.performed id 5
    match fl with
    | some f => st1.blockDone f j.base j.rate false held
    | none => st1
  if s.blockHeld j.base then
    match fl with
    | some _ => fin s true
    | none => fin (s.holdBlock core j dirty cause) true
  else if err || (Nat.blt dirty.length 128 && s.blockBad j.base j.rate) then fin (s.holdBlock core j dirty cause) false
  else
    let w := s.codedWrite (s.tenantOf cause) core j.base j.rate j.crid dirty false false
    fin (w.1.debit core (200 * w.2)) false

end Sys2Proof.Machine
end

