-- ==== Sys2Proof/Machine/Engine.lean ====
section
/-! DEFINITION. Engines: the ENG instruction (R297 to R300), the start, the stop and the parking of a chain (R298, R306, R316), and an engine's accesses to memory (R294, R305). -/

namespace Sys2Proof.Machine

/-! ## Chains -/

/-- The number of an engine by its unit (R296). -/
def engineNo (u : Nat) : Nat := u % 8

/-- CODE, DETAIL, CIDX and DONE written back to a chain's header (R301). -/
def State.writeHeader (s : State) (c : Chain) : State :=
  s.spadWrite c.wg (cellsAt (c.off + 4)
    (bytesOfNat (c.code + 2 ^ 8 * c.detail) 4 ++ bytesOfNat (c.cidx % 2 ^ 16) 4 ++ bytesOfNat c.done 4))

/-- A record about a chain, sent to the fault domain of its forking tiller's region (R326, R372). -/
def State.postChain (s : State) (u : Nat) (c : Chain) (kind b2 va : Nat) : State :=
  s.post (s.regionOf c.tid) { s.recOf c.tid kind b2 va s.time with engine := engineNo u }

/-- A tiller blocked in WAIT.b on a barrier object issues its WAIT again (R316). -/
def Tiller.rewait (t : Tiller) (off : Nat) : Tiller :=
  match t.block with
  | .waitB o _ _ _ => if o = off then { t with block := .none, again := true } else t
  | .none | .waitA .. | .fault .. => t

/-- The engine-fault mark of a chain that stops (R316): set on its barrier, or reported at once where a mark stands there or the forking tiller has exited. -/
def State.markStop (s : State) (u : Nat) (c : Chain) : State :=
  let w := s.wg c.wg
  let t := s.tiller c.tid
  let m : EngMark := ⟨t.num, engineNo u, c.code, c.detail, c.cidx % 2 ^ 16, c.off⟩
  if (tfind w.marks (c.bar / 16)).isSome || t.exited then
    s.postChain u c 0x0008 0 (m.info0.toNat + 2 ^ 32 * m.info1.toNat)
  else ((s.setWg c.wg { w with marks := tput w.marks (c.bar / 16) m }).setTiller c.tid (t.rewait c.bar)).goesOn c.tid

/-- The end of the chain that an engine runs, its header written back (R301). -/
def State.endChain (s : State) (u : Nat) (c : Chain) : State :=
  (s.setEngine u { s.engine u with chain := none, work := none, read := none, ready := none, walk := none, last := c.code }).writeHeader c


/-- A stop of the chain that an engine runs (R316). -/
def State.stopChain (s : State) (u code detail : Nat) : State :=
  match (s.engine u).chain with
  | none => s
  | some c =>
    let c1 := { c with code := code, detail := detail }
    (s.endChain u c1).markStop u c1

/-- A chain parked on a replayable fault, with its record unless a migrating leaf raised it (R306, R328). -/
def State.parkChain (s : State) (u va : Nat) (acc : Access) (mig : Bool) : State :=
  match (s.engine u).chain with
  | none => s
  | some c =>
    let c1 := { c with code := 3, detail := 0, park := some (va / 65536), mig := mig }
    let g := s.engine u
    let s1 := (s.setEngine u { g with chain := some c1, work := g.work.map fun w => { w with row := none, sel := none }, read := none }).writeHeader c1
    if mig then s1 else s1.postChain u c1 0x0002 (accCode acc) va

/-- Whether a chain's sheaf lets it advance: it is resident or about to be pre-empted, and its cluster is not held (R337, R374). -/
def State.chainsGo (s : State) (c : Chain) : Bool :=
  let h := s.sheaf (c.wg / 4)
  (h.st == .resident || h.st == .pending) && !(s.cluster h.cluster).held

/-- The array operations that a chain has dispatched and that have not completed (R303). -/
def State.dispatched (s : State) (u : Nat) (c : Chain) : Bool :=
  (s.array (u / 8)).queue.any fun o =>
    match o.who with
    | .chain v q _ _ _ _ _ => v == u && q == c.seq
    | .tiller .. => false

/-! ## ENG -/

/-- The scope a FORK's release takes from a header (R298). -/
def forkScope (w0 : Nat) : Nat := if 1 ≤ w0 % 8 ∧ w0 % 8 ≤ 4 then w0 % 8 else scopeWg

/-- ENG.FORK (R297, R298, R334). -/
def execEngFork (p : Bool) (e : BitVec 3) (a b : SReg) (s : State) : Result State :=
  let t := s.tl
  let core := coreOf s.cur
  let n := e.toNat
  let u := engineUnit core n
  let wid := s.wgIdOf s.cur
  let oa := (t.rs a).toNat
  let ob := (t.rs b).toNat
  let m := (s.wg wid).bytes
  .next (if 5 ≤ n then s.illegal 0x08
    else if t.hnd ∨ (n = 4 ∧ !t.steward) then s.illegal 0x09
    else if Nat.ble 3 (s.engine u).waiting.length then s
    else
      match spadFail s.spadSize 16 true [(0, oa), (0, ob)] with
      | some (k, o, _) => s.spadTrap k o 0 0
      | none =>
        let code := (readByte m (oa + 4)).toNat
        if code = 0 ∨ code = 3 ∨ code = 4 then
          let mk : EngMark := ⟨t.num, n, 0x11, 1, 0, oa⟩
          s.trapHere 0x0E mk.info0 mk.info1
        else
          let sc := forkScope (readNat m oa 4)
          let s1 := s.spadWrite wid (cellsAt (oa + 4) (bytesOfNat 0 12))
          let (s2, ws) := s1.release s1.cur sc false
          let rel := s2.fresh
          let s3 := if ws.isEmpty then { s2 with fresh := s2.fresh + 1 }
            else s2.addFlight { Flight.blank with tid := s2.cur, core := core, kind := .fence false sc, waits := ws }
          let c : Chain := ⟨oa, ob, s3.cur, wid, sc, 0, 0, 0, 0, rel, false, rel, none, false⟩
          let g := s3.engine u
          (s3.setEngine u { g with waiting := g.waiting ++ [c] }).finish p)

/-- STAT of an engine as a tiller reads it (R300). -/
def State.engStat (s : State) (u : Nat) : Word :=
  let g := s.engine u
  let (code, cidx, mine) := match g.chain with
    | some c => (c.code, c.cidx % 2 ^ 16, c.tid == s.cur)
    | none => (g.last, 0, false)
  bv 32 (code + 2 ^ 8 * g.waiting.length + 2 ^ 11 * b2n g.chain.isSome + 2 ^ 12 * b2n mine + 2 ^ 16 * cidx)

/-- ENG.STAT (R297, R300). -/
def execEngStat (p : Bool) (d : SReg) (e : BitVec 3) (s : State) : Result State :=
  .next (if 5 ≤ e.toNat then s.illegal 0x08
    else s.writeS d (s.engStat (engineUnit (coreOf s.cur) e.toNat)) p)

/-! ## The start and the replay of a chain -/

/-- The chain that an engine would start: the first that waits, its release complete, of a sheaf that is not to be pre-empted (R298, R337). -/
def State.startable (s : State) (u : Nat) : Option Chain :=
  let g := s.engine u
  match g.chain, g.waiting with
  | none, c :: _ =>
    if (tfind s.flights c.rel).isSome || !s.chainsGo c || (s.sheaf (c.wg / 4)).st != .resident then none else some c
  | none, [] | some _, _ => none

/-- A chain that its engine has begun or takes up again reads its header: SCOPE, and CIDX and DONE where it goes on from them; another SCOPE, or a nonzero bit above it, stops the chain (R298, R301, R306). -/
def State.loadChain (s : State) (u : Nat) (c : Chain) (resumed : Bool) : State :=
  let m := (s.wg c.wg).bytes
  let w0 := readNat m c.off 4
  let c1 := { c with
    scope := w0 % 8, code := 0, detail := 0, park := none, mig := false
    cidx := if resumed then readNat m (c.off + 8) 2 else 0
    done := if resumed then readNat m (c.off + 12) 4 else 0 }
  let s1 := s.setEngine u { s.engine u with chain := some c1, work := none, read := none, ready := none, walk := none }
  if 1 ≤ w0 ∧ w0 ≤ 4 then s1 else s1.stopChain u 0x11 0

/-- CHAIN_START (R298, R317). -/
def execChainStart (u : Nat) (s : State) : Result State :=
  .next (match s.startable u with
  | none => s
  | some c => (s.setEngine u { s.engine u with waiting := (s.engine u).waiting.drop 1 }.refill).loadChain u c c.resumed)

/-! ## Places -/

/-- Where a byte of a command stands: a virtual address, or an offset in a rank's allocation (R304). -/
inductive Spot where
  | g (va : Nat)
  | s (rank off : Nat)
  deriving DecidableEq, Repr

/-- The spot an address field names (R304). -/
def spotOf (v : Nat) (spad : Bool) : Spot := if spad then .s (bits v 32 2) (v % 2 ^ 32) else .g v

/-- The spot some bytes further; addresses wrap at 2^64 (R304). -/
def Spot.add (p : Spot) (k : Nat) : Spot :=
  match p with
  | .g va => .g ((va + k) % 2 ^ 64)
  | .s r o => .s r (o + k)

/-- The 64-byte line of a spot. -/
def Spot.line (p : Spot) : Spot :=
  match p with
  | .g va => .g (va / 64 * 64)
  | .s r o => .s r (o / 64 * 64)

/-- How an access of a chain ends when it does not go through. -/
inductive EngFail where
  | park (va : Nat) (acc : Access) (mig : Bool)
  | stop (code detail : Nat)
  | bad (pa : Nat)
  deriving DecidableEq, Repr

/-- The stop or the parking of an access fault of a chain (R306, R315). -/
def engFail (f : AccFault) (va : Nat) (acc : Access) : EngFail :=
  match f with
  | .replay mig => .park va acc mig
  | .misaligned => .stop 0x12 0
  | .range => .stop 0x12 1
  | .phys _ _ => .stop 0x12 2
  | .trans _ => .stop 0x12 3
  | .coded => .stop 0x14 0

/-- The end of a step of a chain that does not go through; a data error sends its record (R316, R372). -/
def State.failChain (s : State) (u : Nat) (f : EngFail) : State :=
  match f with
  | .park va acc mig => s.parkChain u va acc mig
  | .stop code detail => s.stopChain u code detail
  | .bad pa =>
    match (s.engine u).chain with
    | some c => (s.postChain u c 0x0003 3 pa).stopChain u 0x16 0
    | none => s

/-! ## Accesses to memory -/

/-- The translated line of a chain's access: through its forking tiller's tables, in the control space never (R294, R304, R368); it waits behind what its core has sent to the same peer (R367). -/
def State.engLine (s : State) (c : Chain) (va : Nat) (acc : Access) : Except EngFail LineRef × State :=
  match s.translate (coreOf c.tid) (slotOf c.tid) (s.tenantOf c.tid) (s.rootOf c.tid) va acc with
  | (.error f, s1) => (.error (engFail f va acc), s1)
  | (.ok r, s1) =>
    if physKind r.pa = .control then (.error (.stop 0x12 2), s1)
    else if s1.linkDown r.pa then (.error (.bad r.pa), s1)
    else (.ok r, if s1.outBehind (coreOf c.tid) r.pa then { s1 with waits := true } else s1)

/-- A chain's read of a line at its home (R254, R259, R304, R366). -/
def State.engTouch (s : State) (c : Chain) (pa hint : Nat) : State :=
  (((s.reach (pa / 64 * 64)).debitLines (coreOf c.tid) 1).homeAccess (s.home pa) pa (s.tenantOf c.tid) (coreOf c.tid) .read (hint == 1) (hint == 3)).2

/-- The 64 bytes of a line as a chain reads them (R294, R105); `job` says that the codec decodes a coded line now, as part of a piece that is a job of its queue; another step that reads one waits for the codec (R111). -/
def State.engRead (s : State) (c : Chain) (va hint : Nat) (acc : Access) (job : Bool) : Except EngFail (List Byte) × State :=
  match s.engLine c va acc with
  | (.error f, s1) => (.error f, s1)
  | (.ok r, s1) =>
    if s1.devBad r then (.error (.bad r.pa), s1)
    else
      let core := coreOf c.tid
      (.ok (s1.devBytes core r),
        if !r.coded then s1.engTouch c r.pa hint
        else if job then s1.debitLines core 1
        else (s1.codecNeed core r.key.base r.key.rate false 2 hint).debitLines core 1)

/-- The clean bytes of a line, or of both lines of a coded block, invalidated in the forking core's L1 (R269, R294). -/
def State.engInvalidate (s : State) (core : Nat) (r : LineRef) : State :=
  let c := s.core core
  s.setCore core { c with l1 := dropCleanLines (fun l => l.key.base == r.key.base && l.key.rate == r.key.rate) c.l1 }

/-- The words of a reduction's piece performed at their home, with their flags (R282, R284, R307). -/
def State.engRed (s : State) (red a : Nat) (bs : List Byte) : Nat → State
  | 0 => s
  | n + 1 =>
    let (new, fl) := atomNew (if red = 1 then .add else .fadd) (if red = 1 then .w else .f32) (readNat s.mem a 4) (natOfBytes (bs.take 4))
    ((s.putNat a 4 new).orAft a fl).engRed red (a + 4) (bs.drop 4) n

/-- An uncorrectable error under the lock of a chain's coded write: the block is held and its bytes are lost (R106, R372). -/
def State.engHold (s : State) (u : Nat) (c : Chain) (r : LineRef) (n : Nat) : State := s.strikeBlock r.key.base r.va n c.tid (engineNo u)

/-- The write of a chain's coded piece waits where another codec holds its block's lock (R103). -/
def State.lockWait (s : State) (core base : Nat) : State :=
  if (s.slice (s.home base)).locks.any fun e => e.1 == base && e.2 != core then { s with waits := true } else s

/-- Bytes of one line, or of one coded block, written by a chain at their home (R102, R105, R294, R307, R315); `o` is their offset in the line or block.
DESIGN CHOICE (log 48): a write to a coded block moves one line out of the core, as one write does, whatever the lines of its backing. -/
def State.engWrite (s : State) (u : Nat) (c : Chain) (r : LineRef) (hint red o : Nat) (bs : List Byte) : Except EngFail State × State :=
  let core := coreOf c.tid
  let tenant := s.tenantOf c.tid
  if r.coded then
    let full := Nat.ble 128 bs.length
    if red ≠ 0 then (.error (.stop 0x14 0), s)
    else if s.blockHeld r.key.base then (.error (.bad r.key.base), s)
    else if !full && s.blockBad r.key.base r.key.rate then (.error (.stop 0x16 0), s.engHold u c r bs.length)
    else
      let w := (s.lockWait core r.key.base).codedWrite tenant core r.key.base r.key.rate r.crid (atOff o bs) (hint == 1) (hint == 3)
      (.ok (((w.1.engInvalidate core r).debitLines core 1).debit core (200 * w.2)), s)
  else if red ≠ 0 && s.bad r.pa then (.error (.bad r.pa), s)
  else
    let line := r.pa / 64 * 64
    let full := Nat.ble 64 bs.length && red == 0
    let s1 := (((s.reach line).recall line).homeAccess (s.home line) line tenant core (if red = 0 then .write full else .atomic none) (hint == 1) (hint == 3)).2
    let s2 := if red = 0 then s1.homePut (cellsAt (line + o) bs) else s1.engRed red (line + o) bs (bs.length / 4)
    let s3 := if full then { s2 with badLines := s2.badLines.filter fun l => l != line / 64 } else s2
    (.ok ((s3.engInvalidate core r).debitLines core 1), s)

/-! ## Landing -/

/-- Bytes that have performed in a rank's allocation land, where the command has LAND (R105, R302, R305). -/
def State.landBytes (s : State) (c : Chain) (cmd : Cmd) (rank n : Nat) : State :=
  if !cmd.flags.getLsbD 6 then s
  else
    let own := rank = c.wg % 4
    let home := cmd.bar = 0xFFFF
    let wid := if home then c.wg else wgOf (c.wg / 4) rank
    let off := if home then c.bar else 16 * cmd.bar.toNat
    s.putWg wid ((s.wg wid).land off (if own then c.scope else Nat.max 2 c.scope) n)

/-- Bytes that the locked sequence of a coded block has written land at the chain's barrier, where the command has LAND and names that (R105, R302).
DEDUCED (log 99): any other BAR names an object of the allocation in which bytes land, and these land in none. -/
def State.landCoded (s : State) (c : Chain) (cmd : Cmd) (n : Nat) : State := if cmd.bar = 0xFFFF then s.landBytes c cmd (c.wg % 4) n else s

end Sys2Proof.Machine
end

