-- ==== Sys2Proof/Machine/Commands.lean ====
section
/-! DEFINITION. The commands of a chain: their common checks (R302 to R304), the data commands cut into pieces (R305 to R310), and select (R311). -/

namespace Sys2Proof.Machine

/-! ## The checks of a command -/

/-- Whether an engine accepts a command (R296, R302). -/
def engAccepts (n op : Nat) : Bool :=
  (Nat.ble 0x10 op && Nat.ble op 0x14) || op == 0x1F ||
  (match n with
  | 0 => Nat.ble 0x20 op && Nat.ble op 0x26
  | 1 | 2 => Nat.ble 0x01 op && Nat.ble op 0x06
  | 3 => op == 0x07
  | _ => Nat.ble 0x09 op && Nat.ble op 0x0C)

/-- The FLAGS bits a command uses (R302). -/
def cmdFlags (op : Nat) : BitVec 8 :=
  match op with
  | 0x01 | 0x02 | 0x06 => 0xFF
  | 0x03 | 0x07 => 0xCF
  | 0x04 => 0xCC
  | 0x05 => 0xCD
  | 0x09 | 0x0A | 0x0B | 0x0C => 0x80
  | 0x11 => 0x03
  | 0x12 | 0x13 | 0x1F => 0x01
  | 0x10 | 0x14 => 0
  | _ => 0xC0

/-- Whether the parts of X, Y and Z that a command gives as 0 are 0 (R302, R313). -/
def cmdZeros (op : Nat) (c : Cmd) : Bool :=
  match op with
  | 0x01 | 0x02 | 0x04 | 0x06 | 0x07 | 0x13 | 0x14 | 0x23 | 0x24 => c.y == 0 && c.z == 0
  | 0x12 => c.y == 0 && c.z == 0 && (c.flags.getLsbD 0 || c.x == 0)
  | 0x03 | 0x09 | 0x0A | 0x0B | 0x0C | 0x20 => c.z == 0
  | 0x05 => c.y.extractLsb' 4 28 == 0 && c.z == 0
  | 0x1F | 0x21 => c.x == 0 && c.y == 0 && c.z == 0
  | 0x22 => c.z.extractLsb' 13 3 == 0 && c.z.extractLsb' 28 4 == 0
  | 0x25 => c.x.extractLsb' 12 4 == 0 && c.x.extractLsb' 29 3 == 0
  | _ => true

/-- The fence points (R303). -/
def cmdFences (op : Nat) : Bool := Nat.ble 0x10 op && Nat.ble op 0x1F

/-- Whether an opcode is a copy queue's. -/
def cmdCopies (op : Nat) : Bool := Nat.ble 1 op && Nat.ble op 6

/-- The commands that an engine has in flight: one at a time, none while its chain is parked (R306, log 41). -/
def Engine.inFlight (g : Engine) : Nat :=
  match g.chain with
  | some c => if c.park.isSome then 0 else b2n g.work.isSome
  | none => 0

/-- The command slots that the two copy queues of a core hold, of the 48 that they share (R8, R14, R296). -/
def State.copySlots (s : State) (core : Nat) : Nat := (s.engine (8 * core + 1)).inFlight + (s.engine (8 * core + 2)).inFlight

/-- Whether a unit is a copy queue (R296). -/
def isCopyUnit (u : Nat) : Bool := u % 8 == 1 || u % 8 == 2

/-- The line trackers that the copy queues of a core hold, of 4,096: a line for each that a piece reads or writes while the codec works on it; any other piece frees its lines as it is written (R8, R14, log 41). -/
def State.copyTrackers (s : State) (core : Nat) : Nat :=
  (s.core core).jobs.foldl (fun n j =>
    match j.kind with
    | .engine u _ _ _ => if isCopyUnit u then (j.blocks.flatMap fun b => linesFrom b.1 (2 * b.2)).foldl (fun k _ => k + 1) n else n
    | .decode .. | .device .. | .busy | .write .. => n) 0

/-- Whether a copy queue's command finds a slot, and trackers for a piece: neither queue holds more than 32 slots (R296). -/
def State.copyRoom (s : State) (u : Nat) : Bool :=
  Nat.blt (s.copySlots (u / 8)) 48 && Nat.blt ((s.engine u).inFlight) 32 && Nat.ble (s.copyTrackers (u / 8) + 256) 4096

/-- The four words of a command. -/
def cmdWords (c : Cmd) (op : Nat) : List Word := [bv 32 (op + 2 ^ 8 * c.flags.toNat + 2 ^ 16 * c.bar.toNat), c.x, c.y, c.z]

/-- A command that has begun and waits keeps the words it was read with (R303). -/
def State.keepCmd (s : State) (u op : Nat) (cmd : Cmd) (ready : Option ArrKind) : State :=
  let g := s.engine u
  s.setEngine u { g with read := g.chain.map fun c => (c.cidx, cmdWords cmd op), ready := ready }

/-- The data command in progress: a range-walker command that waits for accesses is none. -/
def Engine.dataWork (g : Engine) : Option Work := g.work.filter fun w => Nat.blt w.op 8

/-- A command's start: the engine runs an unparked chain with no command in progress, earlier commands are complete where ORD or a fence point asks it, and the command is one the engine accepts (R302, R303). -/
def State.withCmd (s : State) (u op : Nat) (cmd : Cmd) (k : Chain → State) : State :=
  let g := s.engine u
  match g.chain, g.dataWork with
  | some c, none =>
    if c.park.isSome || !s.chainsGo c then s
    else if (cmd.flags.getLsbD 7 || cmdFences op) && s.dispatched u c then s
    else if cmdCopies op && !s.copyRoom u then s
    else if !engAccepts (engineNo u) op || cmd.flags &&& ~~~(cmdFlags op) != 0 || !cmdZeros op cmd then s.stopChain u 0x10 0
    else k c
  | some _, some _ | none, _ => s

/-- The command after one that has completed, at an index (R303, R312). -/
def State.nextCmd (s : State) (u idx : Nat) : State :=
  let g := s.engine u
  match g.chain with
  | some c => s.setEngine u { g with chain := some { c with cidx := idx, done := 0 }, work := none, read := none, ready := none, walk := none }
  | none => s

/-- A scratchpad check of a chain: the KIND of R206 where it fails (R315). -/
def State.engSpad (s : State) (c : Chain) (rank off n al : Nat) : Option Nat :=
  if off % al ≠ 0 then some 1
  else if (s.wg c.wg).spad < off + n then some 0
  else if (s.launchOf c.tid).pkt.wg ≤ rank then some 2
  else none

/-- The ranges of a command, checked as R304 orders them: the scratchpad's first, then the bits 63:56 of the global ones. -/
def State.engRanges (s : State) (c : Chain) (rs : List (Spot × Nat)) : Option (Nat × Nat) :=
  let sp := rs.findSome? fun e =>
    match e.1 with
    | .s r o =>
      if e.2 ≠ 0 ∧ (s.wg c.wg).spad < o + e.2 then some (0x13, 0)
      else if (s.launchOf c.tid).pkt.wg ≤ r then some (0x13, 2)
      else none
    | .g _ => none
  match sp with
  | some x => some x
  | none =>
    rs.findSome? fun e =>
      match e.1 with
      | .g va => if 2 ^ 56 ≤ va ∨ 2 ^ 56 ≤ (va + (e.2 - 1)) % 2 ^ 64 then some (0x12, 1) else none
      | .s _ _ => none

/-- The barrier object that a command's landing names, as ranges in the allocations where its bytes land (R302). -/
def barRanges (c : Chain) (cmd : Cmd) (ranks : List Nat) : List (Spot × Nat) :=
  if !cmd.flags.getLsbD 6 then []
  else if cmd.bar = 0xFFFF then [(.s (c.wg % 4) c.bar, 16)]
  else ranks.map fun r => (.s r (16 * cmd.bar.toNat), 16)

/-- The ranks a spot lands in. -/
def Spot.ranks (p : Spot) : List Nat :=
  match p with
  | .s r _ => [r]
  | .g _ => []

/-! ## Descriptors -/

/-- The fields of the descriptor of R307, as R308 and R309 use it too. -/
structure CopyDesc where
  src : Nat
  dst : Nat
  len : Nat
  rows : Nat
  ss : Nat
  ds : Nat
  deriving DecidableEq, Repr

def copyDesc (d : List Byte) : CopyDesc :=
  ⟨descNat d 0 8, descNat d 8 8, descNat d 16 4, descNat d 20 4, descNat d 24 4, descNat d 28 4⟩

/-- The fields of the descriptor of R310. -/
structure WalkDesc where
  kv : Nat
  bt : Nat
  ind : Nat
  seloff : Nat
  nsel : Nat
  btstride : Nat
  blk : Nat
  blk0 : Nat
  nblk : Nat
  partoff : Nat
  partlen : Nat
  dst : Nat
  dstride : Nat
  deriving DecidableEq, Repr

def walkDesc (d : List Byte) : WalkDesc :=
  ⟨descNat d 0 8, descNat d 8 8, descNat d 16 8, descNat d 24 4, descNat d 28 4, descNat d 32 4, descNat d 36 4, descNat d 40 4,
    descNat d 44 4, descNat d 48 4, descNat d 52 4, descNat d 56 4, descNat d 60 4⟩

/-- The fields of the descriptor of R311. -/
structure SelDesc where
  src : Nat
  dst : Nat
  n : Nat
  k : Nat
  ty : Nat
  segs : Nat
  segoff : Nat
  cntoff : Nat
  deriving DecidableEq, Repr

def selDesc (d : List Byte) : SelDesc :=
  ⟨descNat d 0 8, descNat d 8 8, descNat d 16 4, descNat d 20 2, descNat d 22 1, descNat d 23 1, descNat d 24 4, descNat d 28 4⟩

def SelDesc.size (d : SelDesc) : Nat := if d.ty = 0 then 4 else 2
def SelDesc.groups (d : SelDesc) : Nat := Nat.max d.segs 1

/-- SSP and DSP (R304), HINT, and the RED or ESZ field (R302). -/
def cmdSsp (c : Cmd) : Bool := c.flags.getLsbD 0
def cmdDsp (c : Cmd) : Bool := c.flags.getLsbD 1
def cmdHint (c : Cmd) : Nat := (c.flags.extractLsb' 2 2).toNat
def cmdRed (c : Cmd) : Nat := (c.flags.extractLsb' 4 2).toNat
/-- The bytes of an element of trans (R309). -/
def cmdEsz (c : Cmd) : Nat := 2 ^ (cmdRed c)

/-- Whether bits 63:34 of a field in its scratchpad form are zero (R304). -/
def spotOk (v : Nat) (spad : Bool) : Bool := !spad || Nat.blt v (2 ^ 34)

/-- The ranks that mcast names (R307). -/
def cmdRanks (c : Cmd) : List Nat := (List.range 4).filter fun j => c.y.getLsbD j

/-! ## Field checks of the data commands -/

/-- Whether the fields of copy, copy2d and mcast lie in their ranges (R307); `nwg` is the number of ranks. -/
def copyFieldsOk (op nwg : Nat) (c : Cmd) (d : CopyDesc) : Bool :=
  let one := op == 1
  let red := if op = 5 then 0 else (cmdRed c)
  spotOk d.src (cmdSsp c) && (if op = 5 then Nat.blt d.dst (2 ^ 32) && !(cmdRanks c).isEmpty && ((cmdRanks c).all fun j => Nat.blt j nwg) else spotOk d.dst (cmdDsp c)) &&
  d.len != 0 && (one || Nat.ble d.len 65536) && (one || (d.rows != 0 && Nat.ble d.rows 65536)) &&
  (red == 0 || (red != 3 && !(cmdDsp c) && d.len % 4 == 0 && d.src % 4 == 0 && d.dst % 4 == 0 && (one || (d.ss % 4 == 0 && d.ds % 4 == 0))))

/-- Whether the fields of gather lie in their ranges (R308). -/
def gatherFieldsOk (c : Cmd) (d : CopyDesc) : Bool :=
  spotOk d.src (cmdSsp c) && spotOk d.dst (cmdDsp c) && d.len != 0 && Nat.ble d.len 65536 && d.rows != 0 && Nat.ble d.rows 65536

/-- Whether the fields of trans lie in their ranges (R309). -/
def transFieldsOk (c : Cmd) (d : CopyDesc) : Bool :=
  spotOk d.src (cmdSsp c) && spotOk d.dst (cmdDsp c) && d.len != 0 && Nat.ble d.len 4096 && d.rows != 0 && Nat.ble d.rows 4096

/-- Whether the fields of tgather lie in their ranges (R310). -/
def walkFieldsOk (d : WalkDesc) : Bool :=
  d.seloff % 4 == 0 && d.nsel != 0 && Nat.ble d.nsel 4096 && d.btstride % 4 == 0 && Nat.ble 64 d.blk && Nat.ble d.blk (2 ^ 24) && d.blk % 64 == 0 &&
  d.nblk != 0 && Nat.ble d.nblk 4096 && d.partlen != 0 && Nat.ble (d.partoff + d.partlen) d.blk

/-- Whether the fields of select lie in their ranges (R311). -/
def selFieldsOk (c : Cmd) (d : SelDesc) : Bool :=
  spotOk d.src (cmdSsp c) && spotOk d.dst (cmdDsp c) && d.dst % 8 == 0 && d.n != 0 && Nat.ble d.n (2 ^ 24) && d.k != 0 && Nat.ble d.k 1024 &&
  Nat.ble d.ty 2 && Nat.ble d.segs 64 && (d.segs == 0 || d.segoff % 4 == 0) && d.cntoff % 8 == 0

/-! ## Destination order -/

/-- The rows of a data command and the bytes of each (R305, R307 to R310). -/
def Work.shape (w : Work) : Nat × Nat :=
  let d := copyDesc w.desc
  let k := walkDesc w.desc
  match w.op with
  | 1 => (1, d.len)
  | 4 => (k.nsel * k.nblk, k.partlen)
  | 6 => (d.len, d.rows * (cmdEsz w.cmd))
  | _ => (d.rows, d.len)

/-- The destination of byte k of row r: the ranks of mcast are named apart. -/
def Work.dst (w : Work) (own r k : Nat) : Spot :=
  let d := copyDesc w.desc
  let t := walkDesc w.desc
  match w.op with
  | 1 => (spotOf d.dst (cmdDsp w.cmd)).add k
  | 4 => .s own (t.dst + r / t.nblk * t.dstride + r % t.nblk * t.partlen + k)
  | 5 => .s own (d.dst + r * d.ds + k)
  | _ => (spotOf d.dst (cmdDsp w.cmd)).add (r * d.ds + k)

/-- The source of byte k of row r, `x` being the word that a gather or tgather has read for the row; none where zero bytes are written. -/
def Work.src (w : Work) (x r k : Nat) : Option Spot :=
  let d := copyDesc w.desc
  let t := walkDesc w.desc
  match w.op with
  | 1 => some ((spotOf d.src (cmdSsp w.cmd)).add k)
  | 3 => if x = 0xFFFFFFFF then none else some ((spotOf d.src (cmdSsp w.cmd)).add (x * d.ss + k))
  | 4 => if x = 0xFFFFFFFF then none else some ((Spot.g t.kv).add (x * t.blk + t.partoff + k))
  | 6 => some ((spotOf d.src (cmdSsp w.cmd)).add (k / (cmdEsz w.cmd) * d.ss + r * (cmdEsz w.cmd) + k % (cmdEsz w.cmd)))
  | _ => some ((spotOf d.src (cmdSsp w.cmd)).add (r * d.ss + k))

/-- The offset of byte k of row r in its block of 128 bytes. -/
def Work.blockOff (w : Work) (own r k : Nat) : Nat :=
  match w.dst own r k with
  | .g va => va % 128
  | .s _ o => o % 128

/-- The length of the piece that begins at byte k of row r (R305): within one destination line of `unit` bytes, one row, and, unless the destination is coded, one source line. -/
def Work.pieceLen (w : Work) (own x r k unit len : Nat) : Nat :=
  let at0 : Nat := match w.dst own r k with
    | .g va => va % unit
    | .s _ o => o % unit
  let most := Nat.min (unit - at0) (len - k)
  if unit = 128 then most
  else
    let l0 := (w.src x r k).map Spot.line
    ((List.range most).takeWhile fun i => (w.src x r (k + i)).map Spot.line == l0).length

/-! ## Reading -/

/-- The bytes of a list of spots that a piece reads, each line once; the lines read so far stand in `cache`. The coded ones are read by the codec, as a job of its queue (R105, R111). -/
def State.spotBytes (s : State) (c : Chain) (hint : Nat) (acc : Access) (cache : List (Nat × List Byte)) : List Spot → Except EngFail (List Byte) × State
  | [] => (.ok [], s)
  | .s r o :: rest =>
    let b := readByte (s.wg (wgOf (c.wg / 4) r)).bytes o
    match s.spotBytes c hint acc cache rest with
    | (.ok bs, s1) => (.ok (b :: bs), s1)
    | (.error f, s1) => (.error f, s1)
  | .g va :: rest =>
    match tfind cache (va / 64) with
    | some l =>
      (match s.spotBytes c hint acc cache rest with
      | (.ok bs, s1) => (.ok (lget 0 l (va % 64) :: bs), s1)
      | (.error f, s1) => (.error f, s1))
    | none =>
      match s.engRead c va hint acc true with
      | (.error f, s1) => (.error f, s1)
      | (.ok l, s1) =>
        match s1.spotBytes c hint acc ((va / 64, l) :: cache) rest with
        | (.ok bs, s2) => (.ok (lget 0 l (va % 64) :: bs), s2)
        | (.error f, s2) => (.error f, s2)

/-- A word of a global table: it must be aligned and lie below 2^56 (R310). -/
def State.tableWord (s : State) (c : Chain) (hint va0 : Nat) : Except EngFail Nat × State :=
  let va := va0 % 2 ^ 64
  if va % 4 ≠ 0 then (.error (.stop 0x12 0), s)
  else if 2 ^ 56 ≤ va then (.error (.stop 0x12 1), s)
  else
    match s.engRead c va hint .table false with
    | (.error f, s1) => (.error f, s1)
    | (.ok l, s1) => (.ok (natOfBytes ((l.drop (va % 64)).take 4)), s1)

/-- The word a row of gather or tgather depends on, read once a row, with the work that remembers it (R308, R310). -/
def State.rowWord (s : State) (c : Chain) (w : Work) (r : Nat) : Except EngFail (Nat × Work) × State :=
  let own := (s.wg c.wg).bytes
  let keep (x : Nat) (w1 : Work) : Nat × Work := (x, { w1 with row := some (r, x) })
  match w.row with
  | some (r0, x) => if r0 = r then (.ok (x, w), s) else go own keep
  | none => go own keep
where
  go (own : List Host.Cell) (keep : Nat → Work → Nat × Work) : Except EngFail (Nat × Work) × State :=
    match w.op with
    | 3 => (.ok (keep (readNat own (w.cmd.y.toNat + 4 * r) 4) w), s)
    | 4 =>
      let t := walkDesc w.desc
      let i := r / t.nblk
      let q : Except EngFail Nat × State := match w.sel with
        | some (i0, q) => if i0 = i then (.ok q, s) else s.tableWord c (cmdHint w.cmd) (t.ind + 4 * readNat own (t.seloff + 4 * i) 4)
        | none => s.tableWord c (cmdHint w.cmd) (t.ind + 4 * readNat own (t.seloff + 4 * i) 4)
      (match q with
      | (.error f, s1) => (.error f, s1)
      | (.ok q, s1) =>
        match s1.tableWord c (cmdHint w.cmd) (t.bt + q * t.btstride + 4 * (t.blk0 + r % t.nblk)) with
        | (.error f, s2) => (.error f, s2)
        | (.ok x, s2) => (.ok (keep x { w with sel := some (i, q) }), s2))
    | _ => (.ok (0, w), s)

/-- The check of a row's source that a word has fixed (R304). -/
def State.rowFault (s : State) (c : Chain) (w : Work) (x r len : Nat) : Option (Nat × Nat) :=
  if w.op = 3 ∨ w.op = 4 then
    match w.src x r 0 with
    | some p => s.engRanges c [(p, len)]
    | none => none
  else none

/-! ## Writing a piece -/

/-- The line of a spot in a coded page; a translation that fails is met at the access. -/
def State.codedLine (s : State) (c : Chain) (acc : Access) (p : Spot) : Option LineRef :=
  match p with
  | .s _ _ => none
  | .g va =>
    match (s.translate (coreOf c.tid) (slotOf c.tid) (s.tenantOf c.tid) (s.rootOf c.tid) va acc).1 with
    | .ok r => if r.coded then some r else none
    | .error _ => none

/-- The coded blocks that a list of spots stands in, by base and rate, each once. -/
def State.codedBlocks (s : State) (c : Chain) (acc : Access) (ps : List Spot) : List (Nat × Nat) :=
  ((ps.map Spot.line).eraseReps.filterMap fun p => s.codedLine c acc p).foldl (fun l r => addNew l (r.key.base, r.key.rate)) []

/-- RED of a copy; the other commands have none (R302, R307). -/
def Work.red (w : Work) : Nat := if w.op ≤ 2 then cmdRed w.cmd else 0

/-- What a piece does at its destination: a reduction's is an atomic (R307, R326). -/
def Work.acc (w : Work) : Access := if w.red = 0 then .engWr else .atomic

/-- The bytes of a piece written at their destination, and landed (R305). -/
def State.putPiece (s : State) (u : Nat) (c : Chain) (w : Work) (p : Spot) (bs : List Byte) : Except EngFail State × State :=
  match p with
  | .g va =>
    (match s.engLine c va w.acc with
    | (.error f, s1) => (.error f, s1)
    | (.ok r, s1) =>
      match s1.engWrite u c r (cmdHint w.cmd) w.red (if r.coded then va % 128 else va % 64) bs with
      | (.ok s2, s3) => (.ok (if r.coded then s2.landCoded c w.cmd bs.length else s2), s3)
      | (.error f, s2) => (.error f, s2))
  | .s rank o =>
    let ranks := if w.op = 5 then (cmdRanks w.cmd) else [rank]
    (.ok (ranks.foldl (fun st j => (st.spadWrite (wgOf (c.wg / 4) j) (cellsAt o bs)).landBytes c w.cmd j bs.length) s), s)

/-- A coded block that a piece writes: its line, the bytes written by their offset in the block, and the class-3 cycles of its sequence (R111). -/
structure OutBlock where
  line : LineRef
  n : Nat
  cost : Nat

/-- A piece that reads or writes coded blocks put into the queue of its core's codec (R103, R105, R111). -/
def State.pushPiece (s : State) (u hint : Nat) (reads : List (Nat × Nat)) (outs : List OutBlock) : State :=
  let key (o : OutBlock) : Nat × Nat := (o.line.key.base, o.line.key.rate)
  let kind : CodecKind := .engine u reads (outs.map key) ((outs.filter fun o => Nat.blt o.n 128).map key)
  let job := match outs with
    | o :: _ => CodecJob.of kind o.line.key.base o.line.key.rate o.line.crid o.line.va o.line.attr
    | [] => CodecJob.of kind 0 0 0 0 0
  s.pushJob (u / 8) { job with left := 2 * reads.length + outs.foldl (fun n o => n + o.cost) 0, engine := engineNo u, hint := hint }

/-- Whether a unit's piece is in the codec's queue. -/
def State.pieceQueued (s : State) (u : Nat) : Bool :=
  (s.core (u / 8)).jobs.any fun j =>
    match j.kind with
    | .engine v _ _ _ => v == u
    | .decode .. | .device .. | .busy | .write .. => false

/-- The progress of a data command: its work, or its end (R303, R305). -/
def State.advance (s : State) (u : Nat) (c : Chain) (w : Work) (pos total : Nat) : State :=
  if total ≤ pos then s.nextCmd u (c.cidx + 1)
  else s.setEngine u { s.engine u with chain := some { c with done := c.done + 1 }, work := some { w with pos := pos } }

/-- The next piece of a data command other than select (R305 to R310); `job` says that the codec has come to it. -/
def State.copyPiece (s : State) (u : Nat) (c : Chain) (w : Work) (job : Bool) : State :=
  let own := c.wg % 4
  let (rows, len) := w.shape
  let r := w.pos / len
  let k := w.pos % len
  match s.rowWord c w r with
  | (.error f, s1) => s1.failChain u f
  | (.ok (x, w1), s1) =>
    match s1.rowFault c w1 x r len with
    | some (code, detail) => s1.stopChain u code detail
    | none =>
      let p := w1.dst own r k
      let into := s1.codedLine c w1.acc p
      let n := w1.pieceLen own x r k (if into.isSome then 128 else 64) len
      let srcs := (List.range n).filterMap fun i => w1.src x r (k + i)
      let keep := s1.setEngine u { s1.engine u with work := some w1 }
      let reads := keep.codedBlocks c .engRd srcs
      let bytes := keep.spotBytes c (cmdHint w.cmd) .engRd [] srcs
      if !job && (!reads.isEmpty || (into.isSome && w1.red == 0)) then
        keep.pushPiece u (cmdHint w.cmd) reads (into.toList.map fun q => ⟨q, n, match bytes.1 with
          | .ok bs => keep.codedCost q.key.base q.key.rate (atOff (w1.blockOff own r k) (if srcs.isEmpty then List.replicate n 0 else bs))
          | .error _ => 2⟩)
      else
        match bytes with
        | (.error f, s2) => s2.failChain u f
        | (.ok bs, s2) =>
          match s2.putPiece u c w1 p (if srcs.isEmpty then List.replicate n 0 else bs) with
          | (.error f, s3) => s3.failChain u f
          | (.ok s3, _) => s3.advance u c w1 (w.pos + n) (rows * len)

/-! ## select (R311) -/

/-- The boundaries of a select's segments; a segment table stands after the descriptor's 32 bytes. -/
def Work.bound (w : Work) (g : Nat) : Nat :=
  let d := selDesc w.desc
  if d.segs = 0 then (if g = 0 then 0 else d.n) else descNat w.desc (32 + 4 * g) 4

/-- A score widened to FP32, none for a NaN. -/
def widenScore (ty x : Nat) : Option Nat :=
  let f := match ty with
    | 0 => fp32
    | 1 => fp16
    | _ => bf16
  if (f.num x).isNan then none else if ty = 0 then some x else some (fp32.ofNum .rne (f.num x)).1

/-- Whether one score stands before another: the greater, and of equal ones the lower index. -/
def scoreBefore (a b : Nat × Nat) : Bool :=
  match Num.cmp (fp32.num a.1) (fp32.num b.1) with
  | some .gt => true
  | some .eq => Nat.blt a.2 b.2
  | some .lt | none => false

/-- A score put among scores in order. -/
def insertScore (x : Nat × Nat) : List (Nat × Nat) → List (Nat × Nat)
  | [] => [x]
  | y :: rest => if scoreBefore x y then x :: y :: rest else y :: insertScore x rest

/-- The 8 bytes of a pair. -/
def pairBytes (a b : Nat) : List Byte := bytesOfNat a 4 ++ bytesOfNat b 4

/-- The output of one segment: its K pairs, and its count pair. -/
def selectOut (k ty : Nat) (raw : List Nat) : List Byte × List Byte :=
  let ws := raw.map (widenScore ty)
  let c := (ws.zipIdx.filterMap fun e => e.1.map fun x => (x, e.2)).foldr insertScore []
  let v := Nat.min k c.length
  ((List.range k).flatMap fun t =>
      if t < v then pairBytes (lget (0, 0) c t).1 (lget (0, 0) c t).2 else pairBytes 0xFF800000 0xFFFFFFFF,
    pairBytes (ws.filter fun x => x.isNone).length v)

/-- The lines, or coded blocks, of a range of bytes written, in order; `fuel` bounds them. -/
def State.outLines (s : State) (c : Chain) (p : Spot) (n : Nat) : Nat → Except EngFail (List (LineRef × Nat × Nat)) × State
  | 0 => (.ok [], s)
  | fuel + 1 =>
    if n = 0 then (.ok [], s)
    else
      match p with
      | .s _ _ => (.ok [], s)
      | .g va =>
        match s.engLine c va .engWr with
        | (.error f, s1) => (.error f, s1)
        | (.ok r, s1) =>
          let unit := if r.coded then 128 else 64
          let m := Nat.min n (unit - va % unit)
          match s1.outLines c (.g ((va + m) % 2 ^ 64)) (n - m) fuel with
          | (.error f, s2) => (.error f, s2)
          | (.ok l, s2) => (.ok ((r, va % unit, m) :: l), s2)

/-- The lines that a write of them would wait for, or fail at, before any is written. -/
def State.outBlocked (s : State) (u : Nat) (c : Chain) : List (LineRef × Nat × Nat) → Option (EngFail × State)
  | [] => none
  | (r, o, m) :: rest =>
    match s.engWrite u c r 0 0 o (List.replicate m 0) with
    | (.error f, s1) => some (f, s1)
    | (.ok _, _) => s.outBlocked u c rest

/-- A list of lines written from a list of bytes; those of coded blocks land (R105). -/
def State.outWrite (s : State) (u : Nat) (c : Chain) (cmd : Cmd) (bs : List Byte) : List (LineRef × Nat × Nat) → State
  | [] => s
  | (r, o, m) :: rest =>
    match s.engWrite u c r (cmdHint cmd) 0 o (bs.take m) with
    | (.ok s1, _) => (if r.coded then s1.landCoded c cmd m else s1).outWrite u c cmd (bs.drop m) rest
    | (.error _, s1) => s1.outWrite u c cmd (bs.drop m) rest

/-- The coded blocks that a list of bytes is written to by lines and blocks. -/
def State.outBlocks (s : State) (bs : List Byte) : List (LineRef × Nat × Nat) → List OutBlock
  | [] => []
  | (r, o, m) :: rest =>
    (if r.coded then [⟨r, m, s.codedCost r.key.base r.key.rate (atOff o (bs.take m))⟩] else []) ++ s.outBlocks (bs.drop m) rest

/-- The output of a segment of select, from the bytes of its scores (R311). -/
def segmentOut (d : SelDesc) (n : Nat) (bs : List Byte) : List Byte × List Byte :=
  selectOut d.k d.ty ((List.range n).map fun i => natOfBytes ((bs.drop (d.size * i)).take d.size))

/-- One piece of select: a segment (R311); `job` says that the codec has come to it. -/
def State.selectPiece (s : State) (u : Nat) (c : Chain) (w : Work) (job : Bool) : State :=
  let d := selDesc w.desc
  let g := w.pos
  let lo := w.bound g
  let hi := w.bound (g + 1)
  let src := spotOf d.src (cmdSsp w.cmd)
  let dst := (spotOf d.dst (cmdDsp w.cmd)).add (8 * d.k * g)
  let spots := (List.range (d.size * (hi - lo))).map fun i => src.add (d.size * lo + i)
  let reads := s.codedBlocks c .engRd spots
  let outs : List OutBlock := match (s.spotBytes c (cmdHint w.cmd) .engRd [] spots).1, (s.outLines c dst (8 * d.k) (8 * d.k + 1)).1 with
    | .ok bs, .ok ls => s.outBlocks (segmentOut d (hi - lo) bs).1 ls
    | .ok _, .error _ | .error _, _ => []
  if !job && (!reads.isEmpty || !outs.isEmpty) then s.pushPiece u (cmdHint w.cmd) reads outs
  else
    match s.spotBytes c (cmdHint w.cmd) .engRd [] spots with
    | (.error f, s1) => s1.failChain u f
    | (.ok bs, s1) =>
      let (out, cnt) := segmentOut d (hi - lo) bs
      match s1.outLines c dst out.length (out.length + 1) with
      | (.error f, s2) => s2.failChain u f
      | (.ok ls, s2) =>
        match s2.outBlocked u c ls with
        | some (f, s3) => s3.failChain u f
        | none =>
          let s3 := match dst with
            | .g _ => s2.outWrite u c w.cmd out ls
            | .s r o => (s2.spadWrite (wgOf (c.wg / 4) r) (cellsAt o out)).landBytes c w.cmd r out.length
          let s4 := (s3.spadWrite c.wg (cellsAt (d.cntoff + 8 * g) cnt)).landBytes c w.cmd (c.wg % 4) 8
          s4.advance u c w (g + 1) d.groups

/-- The next piece of the command that an engine has in progress. -/
def State.nextPiece (s : State) (u : Nat) (job : Bool) : State :=
  let g := s.engine u
  match g.chain, g.work with
  | some c, some w => if w.op = 7 then s.selectPiece u c w job else s.copyPiece u c w job
  | some _, none | none, _ => s

/-- PIECE_WRITE (R305); one that needs the codec waits its turn there (R105). -/
def execPieceWrite (u : Nat) (s : State) : Result State :=
  .next (match (s.engine u).chain with
  | some c => if c.park.isSome || !s.chainsGo c || s.pieceQueued u then s else s.nextPiece u false
  | none => s)

/-! ## The start of a data command -/

/-- The unit by which a piece's destination cuts it (R305); a destination that does not translate stops or parks the chain, as it would a piece. -/
def State.cutUnit (s : State) (c : Chain) (w : Work) (p : Spot) : Except EngFail Nat :=
  match p with
  | .s _ _ => .ok 64
  | .g va =>
    match (s.translate (coreOf c.tid) (slotOf c.tid) (s.tenantOf c.tid) (s.rootOf c.tid) va w.acc).1 with
    | .ok r => .ok (if r.coded then 128 else 64)
    | .error f => .error (engFail f va w.acc)

/-- The place a command resumes from: the end of the pieces that DONE counts, cut as they would be cut now (R306); `n` pieces are left to pass. A table word that cannot be read, or a destination that does not translate, stops it as it would stop a piece. -/
def State.resumePos (s : State) (c : Chain) (w : Work) (pos : Nat) : Nat → Except EngFail Nat × State
  | 0 => (.ok pos, s)
  | n + 1 =>
    let (rows, len) := w.shape
    if w.op = 7 then (.ok (pos + n + 1), s)
    else if rows * len ≤ pos then (.ok pos, s)
    else
      let r := pos / len
      let k := pos % len
      match s.rowWord c { w with row := none, sel := none } r with
      | (.error f, s1) => (.error f, s1)
      | (.ok (x, _), s1) =>
        match s1.cutUnit c w (w.dst (c.wg % 4) r k) with
        | .error f => (.error f, s1)
        | .ok unit => s1.resumePos c w (pos + w.pieceLen (c.wg % 4) x r k unit len) n

/-- A data command that goes on from DONE, or from its first piece (R306); where the place cannot be found yet, it begins again once it can. -/
def State.goOn (s : State) (u : Nat) (c : Chain) (w : Work) : State :=
  match s.resumePos c w 0 c.done with
  | (.ok pos, s1) => s1.setEngine u { s1.engine u with work := some { w with pos := pos } }
  | (.error f, s1) => (s1.setEngine u { s1.engine u with work := none }).failChain u f

/-- CHAIN_REPLAY: a parked chain reads its header again and goes on with the same command from piece DONE, with the descriptor that it has copied, from the place that it has kept (R301, R304, R306). -/
def execChainReplay (u : Nat) (s : State) : Result State :=
  let g := s.engine u
  .next (match g.chain with
  | some c =>
    if c.park.isNone then s
    else
      let s1 := s.loadChain u c true
      match (s1.engine u).chain, g.work with
      | some c1, some w =>
        let w1 := { w with row := none, sel := none }
        if c1.cidx ≠ c.cidx then s1
        else if c1.done = c.done then s1.setEngine u { s1.engine u with work := some w1 }
        else s1.goOn u c1 w1
      | some _, none | none, _ => s1
  | none => s)

/-- A data command started: its descriptor copied, its fields and its ranges checked, and the place found where DONE says that pieces are written (R304, R306). -/
def State.startData (s : State) (u op n : Nat) (cmd : Cmd) (fields : List Byte → Chain → Bool) (ranges : List Byte → Chain → List (Spot × Nat)) : State :=
  s.withCmd u op cmd fun c =>
    match s.engSpad c (c.wg % 4) cmd.x.toNat n 16 with
    | some k => s.stopChain u 0x13 k
    | none =>
      let d := readBytes (s.wg c.wg).bytes cmd.x.toNat n
      if !fields d c then s.stopChain u 0x11 0
      else
        match s.engRanges c (ranges d c) with
        | some (code, detail) => s.stopChain u code detail
        | none =>
          s.goOn u c ⟨op, cmd, d, 0, none, none⟩

/-- The ranges of copy, copy2d and mcast (R307). -/
def copyRanges (op : Nat) (cmd : Cmd) (d : List Byte) (c : Chain) : List (Spot × Nat) :=
  let x := copyDesc d
  let far (stride : Nat) : Nat := (if op = 1 then 0 else (x.rows - 1) * stride) + x.len
  let dsts : List Spot := if op = 5 then (cmdRanks cmd).map fun j => .s j x.dst else [spotOf x.dst (cmdDsp cmd)]
  (spotOf x.src (cmdSsp cmd), far x.ss) :: (dsts.map fun p => (p, far x.ds)) ++ barRanges c cmd (dsts.flatMap Spot.ranks)

/-- copy, copy2d and mcast (R307). -/
def State.startCopy (s : State) (u op : Nat) (cmd : Cmd) : State :=
  s.startData u op 32 cmd (fun d c => copyFieldsOk op (s.launchOf c.tid).pkt.wg cmd (copyDesc d)) (copyRanges op cmd)

/-- COPY (R307). -/
def execCopy (u : Nat) (c : Cmd) (s : State) : Result State := .next (s.startCopy u 1 c)
/-- COPY2D (R307). -/
def execCopy2d (u : Nat) (c : Cmd) (s : State) : Result State := .next (s.startCopy u 2 c)
/-- MCAST (R307). -/
def execMcast (u : Nat) (c : Cmd) (s : State) : Result State := .next (s.startCopy u 5 c)

/-- The ranges of gather that its descriptor fixes (R304, R308). -/
def gatherRanges (cmd : Cmd) (d : List Byte) (c : Chain) : List (Spot × Nat) :=
  let x := copyDesc d
  let dst := spotOf x.dst (cmdDsp cmd)
  [(.s (c.wg % 4) cmd.y.toNat, 4 * x.rows), (spotOf x.src (cmdSsp cmd), if (cmdSsp cmd) then 0 else 1), (dst, (x.rows - 1) * x.ds + x.len)] ++
    barRanges c cmd dst.ranks

/-- GATHER (R308). -/
def execGather (u : Nat) (c : Cmd) (s : State) : Result State :=
  .next (s.startData u 3 32 c (fun d _ => gatherFieldsOk c (copyDesc d) && c.y.extractLsb' 0 2 == 0) (gatherRanges c))

/-- TRANS (R309). -/
def execTrans (u : Nat) (c : Cmd) (s : State) : Result State :=
  .next (s.startData u 6 32 c (fun d _ => transFieldsOk c (copyDesc d)) fun d ch =>
    let x := copyDesc d
    let dst := spotOf x.dst (cmdDsp c)
    [(spotOf x.src (cmdSsp c), (x.rows - 1) * x.ss + x.len * (cmdEsz c)), (dst, (x.len - 1) * x.ds + x.rows * (cmdEsz c))] ++ barRanges ch c dst.ranks)

/-- TGATHER (R310). -/
def execTgather (u : Nat) (c : Cmd) (s : State) : Result State :=
  .next (s.startData u 4 64 c (fun d _ => walkFieldsOk (walkDesc d)) fun d ch =>
    let t := walkDesc d
    let own := ch.wg % 4
    [(.s own t.seloff, 4 * t.nsel), (.s own t.dst, (t.nsel - 1) * t.dstride + t.nblk * t.partlen), (.g t.kv, 1), (.g t.bt, 1), (.g t.ind, 1)] ++
      barRanges ch c [own])

/-- Whether the boundaries of a segment table rise and stay within N (R311). -/
def boundsOk (n prev : Nat) : List Nat → Bool
  | [] => true
  | b :: rest => Nat.ble prev b && Nat.ble b n && boundsOk n b rest

/-- SELECT (R311). -/
def execSelect (u : Nat) (c : Cmd) (s : State) : Result State :=
  .next (s.withCmd u 7 c fun ch =>
    let own := ch.wg % 4
    let m := (s.wg ch.wg).bytes
    match s.engSpad ch own c.x.toNat 32 16 with
    | some k => s.stopChain u 0x13 k
    | none =>
      let bs := readBytes m c.x.toNat 32
      let d := selDesc bs
      let dst := spotOf d.dst (cmdDsp c)
      if !selFieldsOk c d then s.stopChain u 0x11 0
      else
        match s.engRanges ch ([(spotOf d.src (cmdSsp c), d.n * d.size), (dst, 8 * d.k * d.groups), (.s own d.cntoff, 8 * d.groups)] ++
            (if d.segs = 0 then [] else [(.s own d.segoff, 4 * (d.segs + 1))]) ++ barRanges ch c (addNew dst.ranks own)) with
        | some (code, detail) => s.stopChain u code detail
        | none =>
          let tab := if d.segs = 0 then [] else readBytes m d.segoff (4 * (d.segs + 1))
          if !boundsOk d.n 0 ((List.range (if d.segs = 0 then 0 else d.segs + 1)).map fun i => descNat tab (4 * i) 4) then s.stopChain u 0x11 0
          else s.goOn u ch ⟨7, c, bs ++ tab, 0, none, none⟩)

/-! ## Control commands (R312) -/

/-- The offset of the command at the chain's index (R301). -/
def Chain.cmdOff (c : Chain) : Nat := c.off + 16 + 16 * c.cidx

/-- The offset a command's BAR names (R302). -/
def Chain.barOff (c : Chain) (cmd : Cmd) : Nat := if cmd.bar = 0xFFFF then c.bar else 16 * cmd.bar.toNat

/-- LOOP (R312). -/
def execLoop (u : Nat) (c : Cmd) (s : State) : Result State :=
  .next (s.withCmd u 0x10 c fun ch =>
    let z := (if c.z = 0 then Nat.max c.y.toNat 1 else c.z.toNat) - 1
    let s1 := s.spadWrite ch.wg (cellsAt (ch.cmdOff + 12) (bytesOfNat z 4))
    s1.nextCmd u (if z = 0 then ch.cidx + 1 else c.x.toNat))

/-- IF (R312). -/
def execIfCmd (u : Nat) (c : Cmd) (s : State) : Result State :=
  .next (s.withCmd u 0x11 c fun ch =>
    match s.engSpad ch (ch.wg % 4) c.x.toNat 4 4 with
    | some k => s.stopChain u 0x13 k
    | none =>
      let w := readWord (s.wg ch.wg).bytes c.x.toNat
      let jump : Bool := match (c.flags.extractLsb' 0 2).toNat with
        | 0 => w == c.y
        | 1 => w != c.y
        | 2 => w.ult c.y
        | _ => c.y.ule w
      s.nextCmd u (if jump then c.z.toNat else ch.cidx + 1))

/-- The release that an engine arrival makes at a scope first: the dirty lines of its core are written back at .sh or wider, and the command waits until they have performed (R213, R217, R221). -/
def State.engRelease (s : State) (u op sc : Nat) (ch : Chain) (cmd : Cmd) (k : State → State) : State :=
  let core := coreOf ch.tid
  if (s.engine u).read.any fun e => e.1 == ch.cidx then (if (tfind s.flights ch.rel).isSome then s else k s)
  else if sc < 2 then k s
  else
    let s1 := s.writeBackAll core (some ch.tid) fun _ => true
    let ws := s1.pendingWrites core sc
    if ws.isEmpty then k s1
    else
      let s2 := (s1.addFlight { Flight.blank with tid := ch.tid, core := core, kind := .fence false sc, waits := ws }).keepCmd u op cmd none
      s2.setEngine u { s2.engine u with chain := some { ch with rel := s1.fresh } }

/-- An engine arrival on BAR in a rank's allocation, with its release, then what follows; an overrun stops the chain (R218, R221, R312). -/
def State.engArrive (s : State) (u op : Nat) (ch : Chain) (cmd : Cmd) (rank : Nat) (k : State → State) : State :=
  let o := ch.barOff cmd
  match s.engSpad ch rank o 16 16 with
  | some d => s.stopChain u 0x13 d
  | none =>
    let sc := if rank = ch.wg % 4 then ch.scope else Nat.max 2 ch.scope
    s.engRelease u op sc ch cmd fun s0 =>
      match s0.arriveAt (wgOf (ch.wg / 4) rank) o sc with
      | none => s0.stopChain u 0x17 0
      | some s1 => k s1

/-- CMD_ARRIVE (R312). -/
def execCmdArrive (u : Nat) (c : Cmd) (s : State) : Result State :=
  .next (s.withCmd u 0x12 c fun ch =>
    s.engArrive u 0x12 ch c (if c.flags.getLsbD 0 then c.x.toNat else ch.wg % 4) fun s1 => s1.nextCmd u (ch.cidx + 1))

/-- WAITB (R219, R312). -/
def execWaitbCmd (u : Nat) (c : Cmd) (s : State) : Result State :=
  .next (s.withCmd u 0x13 c fun ch =>
    let o := ch.barOff c
    match s.engSpad ch (ch.wg % 4) o 16 16 with
    | some k => s.stopChain u 0x13 k
    | none =>
      let w := s.wg ch.wg
      if !phasePassed (barPhase w.bytes o) c.x then s.keepCmd u 0x13 c none
      else
        let s1 := s.acquire (coreOf ch.tid) (w.lScope o)
        let s2 := if c.flags.getLsbD 0 then s1.spadWrite ch.wg (cellsAt (ch.cmdOff + 4) (bytesOfNat (c.x + 1).toNat 4)) else s1
        s2.nextCmd u (ch.cidx + 1))

/-- PPT: the chain is saved where a pre-emption of its sheaf is pending (R312); it has neither ended nor stopped (R300). -/
def execPpt (u : Nat) (c : Cmd) (s : State) : Result State :=
  .next (s.withCmd u 0x14 c fun ch =>
    if (s.sheaf (ch.wg / 4)).st = .pending then
      let c1 := { ch with cidx := c.x.toNat, done := 0, code := 4, detail := 0 }
      let s1 := s.endChain u c1
      let g := s1.engine u
      s1.setEngine u { g with saved := g.saved ++ [c1], last := (s.engine u).last }
    else s.nextCmd u (ch.cidx + 1))

/-- END (R312). -/
def execEndCmd (u : Nat) (c : Cmd) (s : State) : Result State :=
  .next (s.withCmd u 0x1F c fun ch =>
    let fin (st : State) : State := st.endChain u { ch with code := 1, detail := 0 }
    if c.flags.getLsbD 0 then s.engArrive u 0x1F ch c (ch.wg % 4) fin else fin s)

/-! ## Array-sequencer commands (R313) -/

/-- A command that has passed its checks enters the array queue; it waits while the queue is full (R233, R313). -/
def State.dispatchIn (s : State) (u op : Nat) (cmd : Cmd) (ch : Chain) (res : Option Nat) (k : ArrKind) : State :=
  if Nat.ble 16 (s.array (u / 8)).queue.length then s.keepCmd u op cmd (some k)
  else
    (s.enqueue (u / 8) ch.wg k
      (.chain u ch.seq ch.tid ch.scope ch.cidx (if cmd.flags.getLsbD 6 then some (ch.barOff cmd) else none) res)).nextCmd u (ch.cidx + 1)

/-- A command dispatched into the array queue: checked as R313 orders it, then entered. -/
def State.dispatch (s : State) (u op : Nat) (cmd : Cmd) (res : Option Nat) (chk : Wg → ArrCheck) : State :=
  s.withCmd u op cmd fun ch =>
    let own := ch.wg % 4
    let w := s.wg ch.wg
    match (s.engine u).ready with
    | some k => s.dispatchIn u op cmd ch res k
    | none =>
      if w.accRows = 0 then s.stopChain u 0x10 0
      else
        let z : Option Nat := match res with
          | some o => s.engSpad ch own o 4 4
          | none => none
        let b : Option Nat := if cmd.flags.getLsbD 6 then s.engSpad ch own (ch.barOff cmd) 16 16 else none
        match z, b with
        | some k, _ => s.stopChain u 0x13 k
        | none, some k => s.stopChain u 0x13 k
        | none, none =>
          match chk w with
          | .error f => s.stopChain u 0x15 f.kind
          | .ok k => s.dispatchIn u op cmd ch res k

/-- CMD_MLDS (R313). -/
def execCmdMlds (u : Nat) (c : Cmd) (s : State) : Result State :=
  .next (s.dispatch u 0x20 c none fun w => w.mlds c.x.toNat c.y.toNat)
/-- CMD_MSWP (R313). -/
def execCmdMswp (u : Nat) (c : Cmd) (s : State) : Result State := .next (s.dispatch u 0x21 c none fun _ => .ok .mswp)
/-- CMD_MSTR (R313). -/
def execCmdMstr (u : Nat) (c : Cmd) (s : State) : Result State :=
  .next (s.dispatch u 0x22 c none fun w => w.mstr c.x.toNat c.y.toNat (bits c.z.toNat 0 13) (bits c.z.toNat 16 12))
/-- CMD_MGRP (R313). -/
def execCmdMgrp (u : Nat) (c : Cmd) (s : State) : Result State := .next (s.dispatch u 0x23 c none fun w => w.mgrp c.x.toNat)
/-- CMD_MDRN (R313). -/
def execCmdMdrn (u : Nat) (c : Cmd) (s : State) : Result State := .next (s.dispatch u 0x24 c none fun w => w.mdrn c.x.toNat)
/-- CMD_MHIST (R313). -/
def execCmdMhist (u : Nat) (c : Cmd) (s : State) : Result State :=
  .next (s.dispatch u 0x25 c (if c.z = 0xFFFFFFFF then none else some c.z.toNat) fun w =>
    w.mhist (bits c.x.toNat 0 12) (bits c.x.toNat 16 13) c.y.toNat)
/-- CMD_MCLR (R313). -/
def execCmdMclr (u : Nat) (c : Cmd) (s : State) : Result State :=
  .next (s.dispatch u 0x26 c none fun w => w.mclr c.x.toNat c.y.toNat c.z.toNat)

/-! ## KILL (R299) -/

/-- A chain that is not running takes CODE 0x02 in its header, which keeps the rest (R299). -/
def State.killHeaders (s : State) : List Chain → State
  | [] => s
  | c :: rest => (s.spadWrite c.wg [(c.off + 4, 2)]).killHeaders rest

/-- A job of a unit's piece that has performed keeps the codec at work for its time alone. -/
def CodecJob.orphan (j : CodecJob) (u : Nat) : CodecJob :=
  match j.kind with
  | .engine v _ _ _ => if v = u then { j with kind := .busy } else j
  | .decode .. | .device .. | .busy | .write .. => j

/-- The debit of the blocks that a unit's piece decodes as sources (R195). -/
def CodecJob.readDebit (j : CodecJob) (u : Nat) : Nat :=
  match j.kind with
  | .engine v reads _ _ => if v = u then 400 * reads.length else 0
  | .decode .. | .device .. | .busy | .write .. => 0

/-- A piece that the codec works on performs before its chain stops; the codec stays at work for its time (R299). -/
def State.flushPiece (s : State) (u : Nat) : State :=
  if !s.pieceQueued u then s
  else
    let s1 := s.nextPiece u true
    let c := s1.core (u / 8)
    (s1.setCore (u / 8) { c with jobs := c.jobs.map fun j => j.orphan u }).debit (u / 8) (c.jobs.foldl (fun n j => n + j.readDebit u) 0)

/-- Whether an engine is in the middle of a range-walker command, which runs to its end (R299, R314). -/
def Engine.walking (g : Engine) : Bool := g.work.isSome && g.dataWork.isNone

/-- The running or parked chain of a tiller on an engine stopped by KILL: its piece in flight performs, and its header is written back with CODE 0x02 (R299, R318). -/
def State.killRunning (s : State) (u tid : Nat) : State :=
  match (s.engine u).chain with
  | none => s
  | some c =>
    if c.tid ≠ tid then s
    else
      let s1 := s.flushPiece u
      match (s1.engine u).chain with
      | none => s1
      | some c1 => s1.endChain u { c1 with code := 2, detail := 0 }

/-- ENG.KILL (R297, R299, R318); the tiller waits while a range-walker command of its chain runs to its end. -/
def execEngKill (p : Bool) (e : BitVec 3) (s : State) : Result State :=
  let t := s.tl
  let n := e.toNat
  let u := engineUnit (coreOf s.cur) n
  let mine (c : Chain) : Bool := c.tid == s.cur
  .next (if 5 ≤ n then s.illegal 0x08
    else if n = 4 ∧ !t.steward then s.illegal 0x09
    else if (s.engine u).walking ∧ (s.engine u).chain.any mine then s
    else
      let s1 := s.killRunning u s.cur
      let g := s1.engine u
      let hit := (g.saved ++ g.waiting ++ g.reforks).filter mine
      ((s1.setEngine u { g with
        waiting := g.waiting.filter fun c => !mine c
        reforks := g.reforks.filter fun c => !mine c
        saved := g.saved.filter fun c => !mine c
        last := if hit.isEmpty then g.last else 2 }.refill).killHeaders hit).finish p)

end Sys2Proof.Machine
end

