-- ==== Sys2Proof/Machine/ArrayRun.lean ====
section
/-! DEFINITION. The array at work: the start of an operation (R234), its steps (R237, R242 to R248), its implicit swaps (R245), its completion (R239) and its stop on an uncorrectable error (R240). -/

namespace Sys2Proof.Machine

/-! ## What starts when (R234) -/

/-- Whether an operation runs on the streamer. -/
def ArrKind.streamer : ArrKind → Bool
  | .mstr .. | .mgrp .. | .mclr .. | .mhist .. | .mdrn _ => true
  | .mlds .. | .mswp => false

def ArrKind.isMlds : ArrKind → Bool
  | .mlds .. => true
  | .mswp | .mstr .. | .mgrp .. | .mclr .. | .mhist .. | .mdrn _ => false

def ArrKind.isMswp : ArrKind → Bool
  | .mswp => true
  | .mlds .. | .mstr .. | .mgrp .. | .mclr .. | .mhist .. | .mdrn _ => false

/-- Whether an operation holds back an MLDS behind it. -/
def ArrKind.holdsMlds : ArrKind → Bool
  | .mswp | .mdrn _ => true
  | .mlds .. | .mstr .. | .mgrp .. | .mclr .. | .mhist .. => false

/-- Whether an operation streams activations. -/
def ArrKind.streams : ArrKind → Bool
  | .mstr .. | .mgrp .. => true
  | .mlds .. | .mswp | .mclr .. | .mhist .. | .mdrn _ => false

/-- The groups of a grouped product (R245). -/
def ArrKind.groups : ArrKind → Nat
  | .mgrp _ _ es => es.length
  | .mlds .. | .mswp | .mstr .. | .mclr .. | .mhist .. | .mdrn _ => 0

/-- Whether the loader runs. -/
def ArrayUnit.loading (u : ArrayUnit) : Bool := u.queue.any fun o => o.started && o.kind.isMlds

/-- Whether some MLDS of a list has an operation ahead of it that holds it back; `seen` says that one stood before the list. -/
def mldsHeld (seen : Bool) : List ArrOp → Bool
  | [] => false
  | o :: rest => (o.kind.isMlds && seen) || mldsHeld (seen || o.kind.holdsMlds) rest

/-- Whether an operation may start behind those ahead of it (R234). -/
def ArrayUnit.mayStart (u : ArrayUnit) (ahead : List ArrOp) (o : ArrOp) : Bool :=
  !o.started &&
  (if o.kind.isMlds then !u.loading && !u.full && !(ahead.any fun x => x.kind.isMlds || x.kind.holdsMlds)
   else if o.kind.isMswp then
    !(ahead.any fun x => x.kind.streams || x.kind.isMswp) &&
      (!(ahead.any fun x => x.kind.isMlds) || (!u.loading && u.full && !mldsHeld false ahead))
   else !(ahead.any fun x => x.kind.streamer || x.kind.isMswp))

/-- Whether the operation at a place of a core's queue may start: its issuer's earlier scratchpad accesses have performed too (R234, R235). -/
def State.arrayMayStart (s : State) (core k : Nat) : Bool :=
  let u := s.array core
  match u.queue.drop k with
  | [] => false
  | o :: _ => u.mayStart (u.queue.take k) o && !(o.after.any fun i => (tfind s.flights i).isSome)

/-- The planes exchanged, the shadow EMPTY (R234, R243). -/
def ArrayUnit.exchange (u : ArrayUnit) : ArrayUnit := { u with active := u.shadow, shadow := u.active, full := false }

/-! ## Completion (R74, R239, R313) -/

/-- Bytes that an operation of a chain writes land on its barrier object, at its own scope (R313). -/
def State.arrLand (s : State) (o : ArrOp) (n : Nat) : State :=
  match o.who with
  | .chain _ _ _ sc _ (some b) _ => s.putWg o.wg ((s.wg o.wg).land b sc n)
  | .chain _ _ _ _ _ none _ | .tiller .. => s

/-- Bytes that an operation writes in its allocation, performed and landed (R235). -/
def State.arrPut (s : State) (o : ArrOp) (cells : List Host.Cell) : State := (s.spadWrite o.wg cells).arrLand o cells.length

/-- The result of an MHIST where it is asked for (R239, R247, R313). -/
def State.arrResult (s : State) (o : ArrOp) (x : Word) : State :=
  match o.who with
  | .tiller t _ (some d) => s.setTiller t (((s.tiller t).putReg (.s d x)).delPend (us d))
  | .chain _ _ _ _ _ _ (some z) => s.arrPut o (cellsAt z (bytesOfNat x.toNat 4))
  | .tiller _ _ none | .chain _ _ _ _ _ _ none => s

/-- The flags and the counter of an operation that has ended (R74, R239). -/
def State.arrDone (s : State) (o : ArrOp) (fl : Flags) : State :=
  match o.who with
  | .tiller t c _ =>
    let x := (s.tiller t).orFlags fl
    (s.setTiller t (match c with
      | some n => x.dropCtr n
      | none => x)).goesOn t
  | .chain _ _ t _ _ _ _ => s.setTiller t ((s.tiller t).orFlags fl)

/-- ARRAY_OP_START (R234): an MSWP exchanges the planes and completes at once. -/
def execArrayOpStart (core k : Nat) (s : State) : Result State :=
  let u := s.array core
  .next (match u.queue.drop k with
  | [] => s
  | o :: rest =>
    if !s.arrayMayStart core k then s
    else if o.kind.isMswp then (s.setArray core { u.exchange with queue := u.queue.take k ++ rest }).arrDone o 0
    else
      let u1 := if o.kind.isMlds then { u with shadow := ⟨[], []⟩ } else u
      s.setArray core { u1 with queue := lset u1.queue k { o with
        started := true, segs := (s.wg o.wg).segs, planes := if o.kind.isMlds then some (u.active, u.shadow, u.full) else none } })

/-- Whether the implicit swap that an operation waits for may take place: the shadow is FULL, or, after the last group, no MLDS runs (R245). -/
def ArrayUnit.swapReady (u : ArrayUnit) (o : ArrOp) : Bool := if Nat.ble o.kind.groups (o.grp + 1) then !u.loading else u.full

/-- MGRP_IMPLICIT_SWAP (R245): after a group the planes exchange, the shadow being FULL; after the last, once no MLDS runs, and the operation ends eight steps on. -/
def execMgrpImplicitSwap (core : Nat) (s : State) : Result State :=
  let u := s.array core
  .next (match u.queue.findIdx? fun o => o.swap with
  | none => s
  | some k =>
    match u.queue.drop k with
    | [] => s
    | o :: _ =>
      let last := Nat.ble o.kind.groups (o.grp + 1)
      if !u.swapReady o then s
      else
        let o1 := { o with grp := o.grp + 1, row := 0, swap := false, planes := some (o.planes.getD (u.active, u.shadow, u.full)), due := if last then o.due ++ [(o.step + 7, .spad [])] else o.due }
        s.setArray core { u.exchange with queue := lset u.queue k o1 })

/-! ## Accumulator rows (R232) -/

/-- An entry of the accumulator store. -/
def Wg.accAt (w : Wg) (r c : Nat) : Word := tget 0 w.acc (256 * r + c)

/-- A row's entries as a table, those that are 0 unlisted. -/
def rowEntries (r : Nat) (vals : List Word) : Table Word := (vals.zipIdx.filter fun e => e.1 != 0).map fun e => (256 * r + e.2, e.1)

/-- A row replaced. -/
def Wg.putRow (w : Wg) (r : Nat) (vals : List Word) : Wg :=
  { w with acc := (w.acc.filter fun e => Nat.blt e.1 (256 * r)) ++ rowEntries r (vals.take 256) ++ w.acc.filter fun e => Nat.ble (256 * (r + 1)) e.1 }

/-! ## The steps -/

/-- What a step of an operation does: the operation after it, the shadow's bytes an MLDS has added, and what is written at once;
`pays` marks a step that streams, fills or drains (R195); and the places it reads, for their errors (R240). -/
structure StepOut where
  op : ArrOp
  load : List Byte × List Byte
  put : List ArrOut
  pays : Bool
  reads : List (Nat × Nat)
  rows : List Nat

/-- A step that reads and writes nothing. -/
def ArrOp.idle (o : ArrOp) : StepOut := ⟨o, ([], []), [], false, [], []⟩

/-- One activation row through the active plane into an accumulator row; results that are still due count as written (R236, R244). -/
def ArrOp.stream (o : ArrOp) (u : ArrayUnit) (w : Wg) (aoff asoff j crow : Nat) : StepOut :=
  let m := arrMode (cfgMode o.cfg)
  let ra := (aoff + j * m.row, m.row)
  let rs := (asoff + j * m.groups, m.groups)
  let sc := cfgScale o.cfg
  let sa := if sc then (readBytes w.bytes rs.1 rs.2).map BitVec.toNat else []
  let own := o.due.findSome? fun d =>
    match d.2 with
    | .row r vals => if r = crow then some vals else none
    | .spad _ => none
  let acc : Nat → Word := match own with
    | some vals => fun c => lget 0 vals c
    | none => fun c => w.accAt crow c
  let (vals, fl) := passRow o.cfg (u.active.elems, u.active.scales) acc (readBytes w.bytes ra.1 ra.2) sa
  ⟨{ o with flags := o.flags ||| fl, due := (o.step + 8, .row crow vals) :: o.due }, ([], []), [], true, if sc then [ra, rs] else [ra], [crow]⟩

/-- A step of MLDS: up to 2,048 bytes of elements, then of scales (R237, R242). -/
def ArrOp.loadStep (o : ArrOp) (w : Wg) (plane ws : Nat) : StepOut :=
  let m := arrMode (cfgMode o.cfg)
  let ne := (m.plane + 2047) / 2048
  if o.step < ne then
    let at0 := 2048 * o.step
    let n := Nat.min 2048 (m.plane - at0)
    { o.idle with load := (readBytes w.bytes (plane + at0) n, []), pays := true, reads := [(plane + at0, n)] }
  else
    let at0 := 2048 * (o.step - ne)
    let n := Nat.min 2048 (m.scales - at0)
    { o.idle with load := ([], readBytes w.bytes (ws + at0) n), pays := true, reads := [(ws + at0, n)] }

/-- A step of MGRP: a row of the group, or the one step of an empty group; after a group's last step an implicit swap is due (R245). -/
def ArrOp.groupStep (o : ArrOp) (u : ArrayUnit) (w : Wg) (tb ts : Nat) (es : List (Nat × Nat × Nat)) : StepOut :=
  match es.drop o.grp with
  | [] => o.idle
  | (rows, arow, crow) :: _ =>
    if o.swap then o.idle
    else if rows = 0 then { o.idle with op := { o with swap := true } }
    else
      let x := o.stream u w tb ts (arow + o.row) (crow + o.row)
      { x with op := { x.op with row := o.row + 1, swap := Nat.ble rows (o.row + 1) } }

/-- A step of MCLR: four rows cleared, or two filled (R246). -/
def ArrOp.clearStep (o : ArrOp) (w : Wg) (row0 count : Nat) (load : Bool) (src : Nat) : StepOut :=
  let per := if load then 2 else 4
  let js := (List.range per).map (fun i => per * o.step + i) |>.filter fun j => Nat.blt j count
  { o.idle with
    pays := load
    put := js.map fun j => .row (row0 + j)
      (if load then (List.range 256).map fun c => readWord w.bytes (src + 1024 * j + 4 * c) else [])
    reads := if load then js.map fun j => (src + 1024 * j, 1024) else [] }

/-- A step of MDRN: one row converted, written eight steps on (R248). -/
def ArrOp.drainStep (o : ArrOp) (w : Wg) (d : Drain) : StepOut :=
  if d.rows ≤ o.step then o.idle
  else
    let j := o.step
    let bs := (d.biasoff + 4 * d.col0, 4 * d.ncols)
    let v := (List.range d.ncols).map fun i => (w.accAt (d.row0 + j) (d.col0 + i)).toNat
    let biased := d.bias && d.fmt != 0
    let bias := (List.range d.ncols).map fun i => if biased then readNat w.bytes (bs.1 + 4 * i) 4 else 0
    let (out, sc, fl) := d.row o.segs w.hclip v bias
    let cells := cellsAt (d.dst + j * d.dstride) out ++ cellsAt (d.sdst + j * d.sstride) sc
    ⟨{ o with flags := o.flags ||| fl, due := (o.step + 8, .spad cells) :: o.due }, ([], []), [], true, if biased then [bs] else [], [d.row0 + j]⟩

/-- A step of a running operation (R237). -/
def ArrOp.run (o : ArrOp) (u : ArrayUnit) (w : Wg) : StepOut :=
  match o.kind with
  | .mlds plane ws => o.loadStep w plane ws
  | .mswp => o.idle
  | .mstr a sa m row0 => if m ≤ o.step then o.idle else o.stream u w a sa o.step (row0 + o.step)
  | .mgrp tb ts es => o.groupStep u w tb ts es
  | .mclr row0 count load src => o.clearStep w row0 count load src
  | .mhist row0 count _ => { o.idle with rows := if o.step < count then [row0 + o.step] else [] }
  | .mdrn desc => o.drainStep w (drainOf desc)

/-- Whether an operation is over after the steps it has taken (R237). -/
def ArrOp.isOver (o : ArrOp) : Bool :=
  let m := arrMode (cfgMode o.cfg)
  match o.kind with
  | .mlds .. => Nat.ble ((m.plane + 2047) / 2048 + (if cfgScale o.cfg then (m.scales + 2047) / 2048 else 0)) o.step
  | .mswp => true
  | .mstr _ _ n _ => Nat.ble (n + 8) o.step
  | .mgrp _ _ es => Nat.ble es.length o.grp && o.due.isEmpty
  | .mclr _ count load _ => Nat.ble ((count + (if load then 1 else 3)) / (if load then 2 else 4)) o.step
  | .mhist _ count _ => Nat.ble (count + 4) o.step
  | .mdrn desc => Nat.ble ((drainOf desc).rows + 8) o.step

/-- A result of a step written: an accumulator row, or bytes of the allocation. -/
def State.arrWrite (s : State) (o : ArrOp) (x : ArrOut) : State :=
  match x with
  | .row r vals => s.setWg o.wg ((s.wg o.wg).putRow r vals)
  | .spad cells => if cells.isEmpty then s else s.arrPut o cells

/-- What a result replaces (R240). -/
def State.arrPrior (s : State) (o : ArrOp) (x : ArrOut) : ArrOut :=
  let w := s.wg o.wg
  match x with
  | .row r _ => .row r ((List.range 256).map fun c => w.accAt r c)
  | .spad cells => .spad (cells.map fun e => (e.1, readByte w.bytes e.1))

/-- Results written in order. -/
def State.arrWrites (s : State) (o : ArrOp) : List ArrOut → State
  | [] => s
  | x :: rest => (s.arrWrite o x).arrWrites o rest

/-! ## Data errors (R240) -/

/-- The 16-byte units of the ranges that a step reads. -/
def unitsOf (rs : List (Nat × Nat)) : List Nat := rs.flatMap fun e => (List.range ((e.1 % 16 + e.2 + 15) / 16)).map fun i => e.1 / 16 + i

/-- Whether a step reads anything under an uncorrectable error. -/
def Wg.stepBad (w : Wg) (x : StepOut) : Bool :=
  (!w.badUnits.isEmpty && (unitsOf x.reads).any fun i => w.badUnits.contains i) || x.rows.any fun r => w.badRows.contains r

/-- An operation that failed or was discarded: its counter drops, an MHIST lands all ones, and its tiller or its chain is told (R240); a chain's mhist has no effect any more (R316).
DESIGN CHOICE (log 87): the MHIST that itself fails lands all ones, as a discarded one does. -/
def State.arrFail (s : State) (o : ArrOp) : State :=
  let s1 := (match o.kind, o.who with
    | .mhist .., .tiller .. => s.arrResult o (BitVec.allOnes 32)
    | .mhist .., .chain .. | .mlds .., _ | .mswp, _ | .mstr .., _ | .mgrp .., _ | .mclr .., _ | .mdrn _, _ => s).arrDone o 0
  match o.who with
  | .tiller t _ _ =>
    let x := s1.tiller t
    s1.setTiller t { x with errs := x.errs ++ [⟨[], none, 0, 0, 0, false⟩] }
  | .chain u q _ _ cidx _ _ =>
    match (s1.engine u).chain with
    | some c => if c.seq = q then (s1.setEngine u { s1.engine u with chain := some { c with cidx := cidx, done := 0 } }).stopChain u 0x16 0 else s1
    | none => s1

/-- Operations that failed or were discarded, in order. -/
def State.arrFails (s : State) : List ArrOp → State
  | [] => s
  | o :: rest => (s.arrFail o).arrFails rest

/-- What an operation has written put back as it was, the latest write first (R240). -/
def State.arrUndos (s : State) (o : ArrOp) : List ArrOut → State
  | [] => s
  | .row r vals :: rest => (s.setWg o.wg ((s.wg o.wg).putRow r vals)).arrUndos o rest
  | .spad cells :: rest => (s.spadWrite o.wg cells).arrUndos o rest

/-- An operation that runs behind the one that fails, discarded without effect: its rows, its bytes and the planes are as they were before it; bytes that have landed stay counted (R240, log 87). -/
def State.arrUndo (s : State) (core : Nat) (o : ArrOp) : State :=
  let s1 := s.arrUndos o o.undo
  match o.planes with
  | some (a, sh, f) => s1.setArray core { s1.array core with active := a, shadow := sh, full := f }
  | none => s1

/-- The array stops at the operation at a place of its queue: those behind it are undone, the last first, the queue is emptied, and a record is sent (R240). The failing operation is told first, so that its chain stops at its command (R316).
DESIGN CHOICE (log 87): an operation ahead that still runs ends where it stands, its results that are due are dropped, and it counts as failed. -/
def State.arrStop (s : State) (core k : Nat) (o : ArrOp) : State :=
  let u := s.array core
  let tid := match o.who with
    | .tiller t _ _ => t
    | .chain _ _ t _ _ _ _ => t
  let s1 := (u.queue.drop (k + 1)).foldr (fun x st => st.arrUndo core x) s
  ((s1.setArray core { s1.array core with queue := [] }).postTiller tid 0x0003 2 0).arrFails (o :: (u.queue.take k ++ u.queue.drop (k + 1)))

/-! ## One step of the array (R184, R237) -/

/-- The step of the operation at a place of a core's queue; what the first of the queue has written is never undone.
DESIGN CHOICE (log 48): a step of the loader and a step of the streamer in one cycle are two steps, each with its debit (R195). -/
def State.arrStep (s : State) (core k : Nat) : State :=
  let u := s.array core
  match u.queue.drop k with
  | [] => s
  | o :: rest =>
    if !o.started then s
    else
      let now := (o.due.filter fun d => d.1 == o.step).map (·.2)
      let s0 := s.arrWrites o now
      let o0 := { o with due := o.due.filter fun d => d.1 != o.step, undo := if k = 0 then [] else (now.map (s.arrPrior o)).reverse ++ o.undo }
      let x := o0.run u (s0.wg o.wg)
      if (s0.wg o.wg).stepBad x then s0.arrStop core k o
      else
        let o1 := { x.op with step := o.step + 1, undo := if k = 0 then [] else (x.put.map (s0.arrPrior o)).reverse ++ x.op.undo }
        let s1 := s0.arrWrites o x.put
        let s2 := if x.pays then s1.debit core 36000 else s1
        let v := s2.array core
        let v1 := { v with shadow := ⟨v.shadow.elems ++ x.load.1, v.shadow.scales ++ x.load.2⟩ }
        if o1.isOver then
          let s3 := s2.setArray core { v1 with queue := u.queue.take k ++ rest, full := v1.full || o1.kind.isMlds }
          let s4 := match o1.kind with
            | .mhist row0 count q =>
              let w := s3.wg o.wg
              let c := histClip ((List.range count).flatMap fun j => (List.range 256).map fun i => w.accAt (row0 + j) i) q
              (s3.setWg o.wg { w with hclip := c }).arrResult o1 (bv 32 c)
            | .mlds .. | .mswp | .mstr .. | .mgrp .. | .mclr .. | .mdrn _ => s3
          s4.arrDone o1 o1.flags
        else s2.setArray core { v1 with queue := lset u.queue k o1 }

/-- A step of each of a number of a core's operations, the last first. -/
def State.arrSteps (s : State) (core : Nat) : Nat → State
  | 0 => s
  | k + 1 => (s.arrStep core k).arrSteps core k

/-- ARRAY_STEP: one step of each running operation of a core (R184, R237). -/
def State.arrayStep (s : State) (core : Nat) : State := s.arrSteps core (s.array core).queue.length

end Sys2Proof.Machine
end

