-- ==== Sys2Proof/Machine/CodecRun.lean ====
section
/-! DEFINITION. The codec's own steps (R101 to R106, R111): the end of a decode, of a locked sequence, and of the piece of a chain that reads or writes coded blocks. -/

namespace Sys2Proof.Machine

/-- The job at the head of a core's codec, once its class-3 cycles are over (R111). -/
def Core.doneJob (c : Core) : Option CodecJob := c.jobs.head?.filter fun j => j.started && j.left == 0

/-- A chain's piece whose turn in the codec has come; one whose chain has stopped, or waits, meanwhile is left for later (R105). -/
def State.pieceNow (s : State) (u : Nat) : State :=
  match (s.engine u).chain with
  | some c => if c.park.isSome || !s.chainsGo c then s else s.nextPiece u true
  | none => s

/-- The bytes of the piece that a data command is at; of a segment of select, those in its first block. -/
def Work.pieceBytes (w : Work) (own : Nat) : Nat :=
  let len := w.shape.2
  if w.op = 7 then
    let d := selDesc w.desc
    Nat.min (128 - (d.dst + 8 * d.k * w.pos) % 128) (8 * d.k)
  else w.pieceLen own ((w.row.map fun e => e.2).getD 0) (w.pos / len) (w.pos % len) 128 len

/-- An uncorrectable error under the lock of a chain's piece: its block is held, and the chain stops (R106, R315). -/
def State.pieceStruck (s : State) (u : Nat) (j : CodecJob) : State :=
  let g := s.engine u
  match g.chain, g.work with
  | some c, some w =>
    (s.engHold u c ⟨⟨j.base, 0, j.rate⟩, j.base, j.attr, true, j.crid, j.va, 0⟩ (w.pieceBytes (c.wg % 4))).stopChain u 0x16 0
  | some _, none | none, _ => s

/-- The codec has come to a step of the device that needs it: the step's turn is next, and the job, which keeps its locks, leaves the queue with it; a tiller that no longer issues gives it up (R103, R111). -/
def State.grantTurn (s : State) (core : Nat) (u : Turn) : State :=
  match u with
  | .tiller tid => if s.blocked tid || (s.tiller tid).run.isNone then s.popJob core else { s with grant := some core }.pushTurn u
  | .ev _ | .engine _ | .record .. => { s with grant := some core }.pushTurn u

/-- CODEC_DECODE: a decode ends and delivers its block, a chain's piece that only reads coded blocks is done, or a step that reads some may run (R101, R105, R110, R195). -/
def execCodecDecode (core : Nat) (s : State) : Result State :=
  .next (match (s.core core).doneJob with
  | none => s
  | some j =>
    match j.kind with
    | .decode fs install => ((s.decodeDone core j fs install).debit core 400).popJob core
    | .busy => s.popJob core
    | .engine u _ writes _ => if writes.isEmpty then ((s.pieceNow u).debit core (j.readDebit u)).popJob core else s
    | .device turn _ writes => if writes.isEmpty then s.grantTurn core turn else s
    | .write .. => s)

/-- CODEC_WRITE_BACK: a locked sequence ends, `err` being an uncorrectable error under its lock, which a step of the device that writes blocks meets in them (R102 to R106, R110). -/
def execCodecWriteBack (core : Nat) (err : Bool) (s : State) : Result State :=
  .next (match (s.core core).doneJob with
  | none => s
  | some j =>
    match j.kind with
    | .write id fl dirty cause => (s.sequenceDone core j id fl dirty cause err).popJob core
    | .engine u _ writes _ => if writes.isEmpty then s else ((if err then s.pieceStruck u j else s.pieceNow u).debit core (j.readDebit u)).popJob core
    | .device turn _ writes =>
      if writes.isEmpty then s
      else (if err then { s with badLines := writes.foldl (fun l b => addNew l (b.1 / 64)) s.badLines } else s).grantTurn core turn
    | .decode .. | .busy => s)

end Sys2Proof.Machine
end

