-- ==== Sys2Proof/Machine/Walker.lean ====
section
/-! DEFINITION. The range walker (R295, R314): flush, inval, setattr and unlock. -/

namespace Sys2Proof.Machine

/-! ## Descriptors -/

/-- The descriptor of R314. -/
structure RangeDesc where
  base : Nat
  size : Nat
  ptroot : Nat
  attr : Nat
  zeros : Bool
  deriving DecidableEq, Repr

def rangeDesc (d : List Byte) : RangeDesc :=
  { base := descNat d 0 8 % 2 ^ 52, size := descNat d 8 8, ptroot := descNat d 16 8 % 2 ^ 52, attr := descNat d 24 1 % 4, zeros := descNat d 24 8 / 4 == 0 }

/-- Whether the fields of a descriptor lie in their ranges (R314). -/
def RangeDesc.ok (d : RangeDesc) (op : Nat) : Bool :=
  d.zeros &&
  (match op with
  | 0x0B => d.size % 65536 == 0
  | 0x0C => d.size == 128 && d.ptroot == 0
  | _ => d.size % 64 == 0 && d.ptroot == 0)

/-- A range-walker command: its descriptor, of which one that has begun keeps a copy, and the place of its record checked, then its effect (R314). -/
def State.walkerCmd (s : State) (u op : Nat) (cmd : Cmd) (k : Chain → RangeDesc → State) : State :=
  s.withCmd u op cmd fun c =>
    let own := c.wg % 4
    match s.engSpad c own cmd.x.toNat 32 16 with
    | some f => s.stopChain u 0x13 f
    | none =>
      let d := match (s.engine u).work with
        | some w => rangeDesc w.desc
        | none => rangeDesc (readBytes (s.wg c.wg).bytes cmd.x.toNat 32)
      if !d.ok op then s.stopChain u 0x11 0
      else
        match s.engSpad c own cmd.y.toNat 16 16 with
        | some f => s.stopChain u 0x13 f
        | none => k c d

/-- The completion record written, and the command complete (R314). -/
def State.walkerDone (s : State) (u : Nat) (c : Chain) (cmd : Cmd) (count overlap line : Nat) : State :=
  (s.spadWrite c.wg (cellsAt cmd.y.toNat
    (bytesOfNat count 4 ++ bytesOfNat overlap 4 ++ bytesOfNat (if overlap = 0 then 0 else line) 8))).nextCmd u (c.cidx + 1)

/-! ## Lines of a range -/

/-- Whether the bytes of a line at its home, or of a coded line's block, lie in some of a list of physical ranges. -/
def LKey.within (k : LKey) (rs : List (Nat × Nat)) : Bool :=
  let n := if k.rate = 0 then 64 else 2 * k.rate
  rs.any fun r => Nat.blt k.base (r.1 + r.2) && Nat.blt r.1 (k.base + n)

/-- Whether a request writes a line that satisfies a test. -/
def Req.writesIn (r : Req) (p : LKey → Bool) : Bool :=
  p r.key &&
  (match r.op with
  | .write .. => true
  | .read .. | .param _ | .atomic .. | .watch _ | .prefGr => false)

/-- Whether a write-back or store of such a line is still on its way to its home (R295). -/
def State.writesPending (s : State) (p : LKey → Bool) : Bool :=
  (s.transit.any fun r => r.writesIn p) || (s.slices.any fun e => e.2.queue.any fun r => r.writesIn p) ||
    (s.links.any fun l => l.req.writesIn p) ||
    s.cores.any fun e => e.2.jobs.any fun j => j.writes.any fun b => p ⟨b.1, 0, b.2⟩

/-- Whether an access of such a line is outstanding (R295). -/
def State.accessPending (s : State) (p : LKey → Bool) : Bool :=
  s.writesPending p || (s.flights.any fun e => e.2.parts.any fun x => x.st != .done && p x.key) ||
    s.cores.any fun e => e.2.jobs.any fun j => j.blocks.any fun b => p ⟨b.1, 0, b.2⟩

/-- The dirty lines of a core that satisfy a test. -/
def Core.dirtyLines (c : Core) (p : LKey → Bool) : List L1Line := c.l1.filter fun l => p l.key && !l.dirtyBytes.isEmpty

/-- The write-backs of a core to lines that satisfy a test, that have not performed at their homes, by number. -/
def State.writesOf (s : State) (core : Nat) (p : LKey → Bool) : List Nat :=
  let mine (r : Req) : Bool := r.backOf core && p r.key
  (s.transit.filter mine).map (·.id) ++ s.slices.flatMap (fun e => (e.2.queue.filter mine).map (·.id)) ++
  (s.links.filter fun l => mine l.req && !l.atHome).map (·.req.id) ++
  (s.core core).jobs.filterMap fun j =>
    match j.kind with
    | .write id none _ _ => if p ⟨j.base, 0, j.rate⟩ then some id else none
    | .write _ (some _) _ _ | .decode .. | .engine .. | .device .. | .busy => none

/-- A dirty line of a core sent home by a range walker: a plain line, or a coded block with the dirty bytes of both its lines, as a job of the core's codec, for the chain's tiller (R102, R106, R111, R295). -/
def State.walkerBack (s : State) (core : Nat) (ch : Chain) (u : Nat) (k : LKey) : State :=
  match (s.core core).l1find k with
  | some l => if l.dirtyBytes.isEmpty then s else s.writeBack core ch.tid (engineNo u) l
  | none => s

/-- A core's lines of a range leave its L1. -/
def State.dropLines (s : State) (core : Nat) (p : LKey → Bool) : State :=
  let c := s.core core
  s.setCore core { c with l1 := c.l1.filter fun l => !p l.key }

/-- A range walker that has not begun to write back. -/
def Flushing.start : Flushing := ⟨0, 0, [], [], []⟩

/-- The dirty bytes of a core's lines of a range, by line and offset. -/
def Core.dirtyPlaces (c : Core) (p : LKey → Bool) : List (LKey × Nat) := (c.dirtyLines p).flatMap fun l => l.dirtyBytes.map fun e => (l.key, e.1)

/-- Step 3 of R295 for one core: its dirty lines of the range are counted and sent home, and its lines leave its L1; a line with a byte that was dirty in a core before is a dirty-overlap event. -/
def State.flushCore (s : State) (u : Nat) (ch : Chain) (p : LKey → Bool) (n : Nat) (f : Flushing) : State × Flushing :=
  let c := s.core n
  let mine := c.dirtyPlaces p
  let s1 := ((c.dirtyLines p).foldl (fun st l => st.walkerBack n ch u l.key) s).dropLines n p
  (s1, { core := n + 1, count := f.count + (c.dirtyLines p).length, seen := mine ++ f.seen
         laps := ((mine.filter fun e => f.seen.contains e).map (·.1)).foldl (fun l k => addNew l k) f.laps, waits := s1.writesOf n p })

/-- Step 3 of R295 for cores in ascending order, up to one whose write-backs have to perform first; whether all cores are passed. -/
def State.flushCores (s : State) (u : Nat) (ch : Chain) (p : LKey → Bool) (f : Flushing) : List Nat → State × Flushing × Bool
  | [] => (s, f, true)
  | n :: rest =>
    let (s1, f1) := s.flushCore u ch p n f
    if f1.waits.isEmpty then s1.flushCores u ch p f1 rest else (s1, f1, false)

/-- Whether a write-back that a range walker waits for has yet to perform. -/
def State.flushWaits (s : State) (p : LKey → Bool) (f : Flushing) : Bool := f.waits.any fun id => (s.writesOf (f.core - 1) p).contains id

/-- The dirty-overlap events of a range, and the lowest line of them (R295). -/
def Flushing.overlap (f : Flushing) : Nat × Nat :=
  match f.laps with
  | [] => (0, 0)
  | k :: rest => (f.laps.length, rest.foldl (fun n x => Nat.min n x.base) k.base)

/-- The cores from one on, in ascending order. -/
def State.coresFrom (s : State) (n : Nat) : List Nat := (s.cores.map (·.1)).filter fun c => Nat.ble n c

/-- Step 3 of R295 taken up from where a range walker stands: what it has come to, and whether it has passed every core and each write-back has performed; it keeps its command and a copy of its descriptor meanwhile (R303, R304). -/
def State.flushOn (s : State) (u : Nat) (ch : Chain) (p : LKey → Bool) (k : State → Flushing → State) : State :=
  let f := (s.engine u).walk.getD Flushing.start
  if s.flushWaits p f then s
  else
    let (s1, f1, fin) := s.flushCores u ch p f (s.coresFrom f.core)
    if fin then k s1 f1 else s1.setEngine u { s1.engine u with walk := some f1 }

/-- A range-walker command that has begun, with a copy of its descriptor. -/
def State.walkerStart (s : State) (u op : Nat) (cmd : Cmd) (ch : Chain) : State :=
  if (s.engine u).work.isSome then s
  else
    let s1 := s.keepCmd u op cmd none
    s1.setEngine u { s1.engine u with work := some ⟨op, cmd, readBytes (s.wg ch.wg).bytes cmd.x.toNat 32, 0, none, none⟩ }

/-- The lines of all cores that hold dirty bytes of a range. -/
def State.dirtyCount (s : State) (p : LKey → Bool) : Nat := s.cores.foldl (fun n e => n + (e.2.dirtyLines p).length) 0

/-- FLUSH (R295, R314): core by core in ascending order, each core's dirty bytes performing at their homes before the next core's are sent. -/
def execFlush (u : Nat) (c : Cmd) (s : State) : Result State :=
  .next (s.walkerCmd u 0x09 c fun ch d =>
    (s.walkerStart u 0x09 c ch).flushOn u ch (fun k => k.within [(d.base, d.size)]) fun s1 f => s1.walkerDone u ch c f.count f.overlap.1 f.overlap.2)

/-- INVAL (R314): the lines of the parameter cache are those that were filled from the range. -/
def execInval (u : Nat) (c : Cmd) (s : State) : Result State :=
  .next (s.walkerCmd u 0x0A c fun ch d =>
    let p (k : LKey) : Bool := k.within [(d.base, d.size)]
    let drop (x : Core) : Core := { x with
      l1 := x.l1.filter fun l => !p l.key
      pcache := x.pcache.filter fun l => !p l.key }
    ({ s with cores := s.cores.map fun (e : Nat × Core) => (e.1, drop e.2) } : State).walkerDone u ch c (s.dirtyCount p) 0 0)

/-! ## setattr -/

/-- The leaf that maps an address: where its entry stands, the entry and the size of its page; or the size of the span that no valid entry maps. -/
def State.leafFrom (s : State) (t va : Nat) : Nat → Except Nat (Nat × DWord × Nat)
  | 0 => .error 65536
  | fuel + 1 =>
    let level := 4 - fuel
    let (sh, n) := levelBits level
    let ea := t + 8 * bits va sh n
    if !s.tableOk ea then .error (2 ^ sh)
    else
      let e : DWord := bv 64 (readNat s.mem ea 8)
      if !pteV e || pteBadZero e || (pteLeaf e && level < 2) || (!pteLeaf e && level == 4) then .error (2 ^ sh)
      else if pteLeaf e then .ok (ea, e, 2 ^ sh)
      else s.leafFrom (pteAddr e) va fuel

/-- The leaves that tables map from an address to an end; `fuel` bounds them. -/
def State.leavesOf (s : State) (root va stop : Nat) : Nat → List (Nat × DWord × Nat)
  | 0 => []
  | fuel + 1 =>
    if stop ≤ va then []
    else
      match s.leafFrom root va 5 with
      | .ok (ea, e, size) => (ea, e, size) :: s.leavesOf root ((va / size + 1) * size) stop fuel
      | .error size => s.leavesOf root ((va / size + 1) * size) stop fuel

/-- The physical bytes behind a leaf. -/
def leafSpan (e : DWord) (size : Nat) : Nat × Nat := (pteAddr e, if pteCoded e then size * rateBits (pteCrate e) / 64 else size)

/-- The attribute of an entry replaced. -/
def withAttr (e : DWord) (attr : Nat) : Nat := e.toNat - 16 * pteAttr e + 16 * attr

/-- The translations of a range under a root leave every core (R295, R322). -/
def State.dropTlb (s : State) (p : TlbEntry → Bool) : State :=
  { s with cores := s.cores.map fun (e : Nat × Core) => (e.1, { e.2 with
      tlb1 := e.2.tlb1.map fun t => (t.1, t.2.filter fun x => !p x)
      tlb2 := e.2.tlb2.filter fun x => !p x }) }

/-- Whether a translation overlaps a range of addresses under a root. -/
def TlbEntry.overlaps (e : TlbEntry) (root va size : Nat) : Bool := e.root == root && Nat.blt e.va (va + size) && Nat.blt va (e.va + e.size)

/-- The new attribute written into leaves. -/
def State.writeAttrs (s : State) (attr : Nat) : List (Nat × DWord × Nat) → State
  | [] => s
  | (ea, e, _) :: rest => (s.homeNat ea 8 (withAttr e attr)).writeAttrs attr rest

/-- A tiller released to walk again. -/
def Tiller.freed (t : Tiller) : Tiller :=
  match t.block with
  | .fault page acc mig _ => { t with block := .fault page acc mig true }
  | .none | .waitA .. | .waitB .. => t

/-- What waits on pages that satisfy a test of their root and number walks again: tillers, and chains; with `moved`, only what a page in motion holds up (R295, R323, R324, R328). -/
def State.freeWaiting (s : State) (moved : Bool) (p : Nat → Nat → Bool) : State :=
  let ts := s.tillers.filterMap fun e =>
    match e.2.block with
    | .fault page _ mig _ => if e.2.live && (mig || !moved) && p (s.rootOf e.1) page then some e.1 else none
    | .none | .waitA .. | .waitB .. => none
  let us := s.engines.filterMap fun e =>
    match e.2.chain with
    | some c =>
      (match c.park with
      | some page => if (c.mig || !moved) && p (s.rootOf c.tid) page then some e.1 else none
      | none => none)
    | none => none
  let s1 : State := { s with tillers := s.tillers.map fun (e : Nat × Tiller) => if ts.contains e.1 then (e.1, e.2.freed) else e }
  s1.pushTurns (ts.map (fun t => .ev (.translationReplay t)) ++ us.map (fun u => .ev (.chainReplay u)))

/-- SETATTR (R295, R314): its translations go and accesses to its pages wait; once no access translated before is outstanding, the dirty bytes are written back core by core, the attribute is written, and what waits walks again. -/
def execSetattr (u : Nat) (c : Cmd) (s : State) : Result State :=
  .next (s.walkerCmd u 0x0B c fun ch d =>
    let ls := s.leavesOf d.ptroot d.base (d.base + d.size) (d.size / 65536 + 1)
    let spans := ls.map fun l => leafSpan l.2.1 l.2.2
    let p (k : LKey) : Bool := k.within spans
    let m := (d.ptroot, d.base, d.size)
    let s0 : State := if (s.engine u).work.isSome then s
      else ({ (s.dropTlb fun e => e.overlaps d.ptroot d.base d.size) with moving := s.moving ++ [m] } : State).walkerStart u 0x0B c ch
    if (s0.engine u).walk.isNone && s0.accessPending p then s0
    else
      s0.flushOn u ch p fun s1 f =>
        let s2 := (s1.writeAttrs d.attr ls).walkerDone u ch c ls.length f.overlap.1 f.overlap.2
        ({ s2 with moving := s2.moving.erase m } : State).freeWaiting true fun root page =>
          root == d.ptroot && Nat.ble (d.base / 65536) page && Nat.blt page ((d.base + d.size + 65535) / 65536))

/-- UNLOCK (R106, R314). -/
def execUnlock (u : Nat) (c : Cmd) (s : State) : Result State :=
  .next (s.walkerCmd u 0x0C c fun ch d =>
    let free (x : Nat × Slice) : Nat × Slice := (x.1, { x.2 with held := x.2.held.filter fun b => b != d.base })
    ({ s with slices := s.slices.map free } : State).walkerDone u ch c (b2n (s.blockHeld d.base)) 0 0)

end Sys2Proof.Machine
end

