-- ==== Sys2Proof/Machine/Trans.lean ====
section
/-! DEFINITION. Translation and residency as events: the page walk (R321), TLBINV (R323), the replay of what a missing translation parked (R324, R328), and the residency map's writes and changes (R256 to R259). -/

namespace Sys2Proof.Machine

/-- The tenant whose walk a page-table root stands for: that of the first region that has it (R262, R346). -/
def State.rootTenant (s : State) (root : Nat) : Nat :=
  match s.rcbs.find? fun e => s.effRoot e.1 == root with
  | some e => s.effTenant e.1
  | none => 0

/-- PAGE_WALK: the translation of an access, with the TLBs filled where it finds a leaf (R321, R322). -/
def execPageWalk (core slot root va : Nat) (acc : Access) (s : State) : Result State := .next (s.lookup core slot (s.rootTenant root) root va acc).2

/-! ## TLBINV (R323) -/

/-- Whether the invalidation under way covers a page of a root; COUNT 0 covers every page and ROOT 0 every root. -/
def Pkg.covers (k : Pkg) (root page : Nat) : Bool :=
  (k.tlbRoot == 0 || k.tlbRoot == root) && (k.tlbCount == 0 || (Nat.ble k.tlbVpn page && Nat.blt page (k.tlbVpn + k.tlbCount)))

/-- Whether the invalidation under way covers some page that a TLB entry maps. -/
def Pkg.coversEntry (k : Pkg) (e : TlbEntry) : Bool :=
  (k.tlbRoot == 0 || k.tlbRoot == e.root) &&
    (k.tlbCount == 0 || (Nat.blt (e.va / 65536) (k.tlbVpn + k.tlbCount) && Nat.blt k.tlbVpn ((e.va + e.size + 65535) / 65536)))

/-- Whether a line of an operation is translated through an entry that maps a page the invalidation covers, and has not performed. -/
def State.waitsOn (s : State) (f : Flight) : Bool :=
  f.parts.any fun p => p.st != .done && s.pkg.coversEntry ⟨s.rootOf f.tid, p.va / (Nat.max 65536 p.page) * Nat.max 65536 p.page, Nat.max 65536 p.page, 0⟩

/-- TLBINV_GO: the entries of the covered pages are dropped on every core, and the accesses translated through them are noted (R323); nothing where the control space is not served (R371). -/
def execTlbinvGo (s : State) : Result State :=
  let k := s.pkg
  .next (if k.tlbGo || !s.ctlOpen 0x20010 then s
    else
      let ws := (s.flights.filter fun e => s.waitsOn e.2).map (·.1)
      ({ s with pkg := { k with tlbGo := true, tlbWaits := ws } } : State).dropTlb fun e => k.coversEntry e)

/-- Whether every access translated before has performed at its home. -/
def State.tlbinvReady (s : State) : Bool :=
  s.pkg.tlbGo && !(s.pkg.tlbWaits.any fun i =>
    match tfind s.flights i with
    | some f => s.waitsOn f
    | none => false)

/-- TLBINV_COMPLETE: GO falls, and what was parked on a covered page walks again (R323, R324, R328); the scheduler looks again at what waited for a translation (R345). -/
def execTlbinvComplete (s : State) : Result State :=
  .next (if !s.tlbinvReady then s
    else
      (({ s with pkg := { s.pkg with tlbGo := false, tlbWaits := [] } } : State).pushTurn (.ev .decide)).freeWaiting false s.pkg.covers)

/-- Whether what a tiller is parked on is a word that has issued: an access of its own, or the Settle that the word makes before it goes on (R175, R324). A Settle that follows an instruction issues nothing again. -/
def Tiller.replaysWord (t : Tiller) (acc : Access) : Bool :=
  match t.step with
  | none => acc != .fetch
  | some (.settle _ _ _ pc) => t.run.any fun r => !r.words.isEmpty && pc == t.wordPc
  | some (.fetch _) | some (.trap ..) => false

/-- TRANSLATION_REPLAY: a parked word issues again whole, or a parked list step is taken up again from where it stopped (R175, R324, R325). A tiller that has halted at the fault for a pre-emption stays as it is (R327); one whose list is being written halts anew, and the writing resumes. -/
def execTranslationReplay (tid : Nat) (s : State) : Result State :=
  let t := s.tiller tid
  .next (match t.block with
  | .fault _ acc _ true =>
    let core := coreOf tid
    let c := s.core core
    let s1 := s.setCore core { c with faultBuf := c.faultBuf.filter fun x => x != tid }
    (match t.halt with
    | .halted => s
    | .listing was => s1.setTiller tid { t with block := was, halt := .halted }
    | .running | .saving | .ctxdone | .resuming | .waiting =>
      let s2 := s1.setTiller tid { t with block := .none, step := none, again := t.again || t.replaysWord acc }
      match t.step with
      | some (.settle skip ph ch pc) => (s2.settled tid skip pc (s2.settleFrom tid skip ph ch (settleFuel t.count))).goesOn tid
      | some (.trap kind i0 i1 tpc widx hdr n k b) => s2.enterTrap tid kind i0 i1 tpc widx ⟨hdr, n, k, b⟩
      | some (.fetch _) | none => s2.goesOn tid)
  | .fault _ _ _ false | .none | .waitA .. | .waitB .. => s)

/-! ## The residency map -/

/-- RESIDENCY_MAP_WRITE (R256 to R259); nothing where the control space is not served (R371). -/
def execResidencyMapWrite (n off size : Nat) (v : DWord) (s : State) : Result State :=
  .next (if s.ctlOpen (0x10000 + 64 * n + off) then s.resWrite n off size v.toNat else s)

/-- RESIDENCY_CHANGE_COMPLETE (R259). -/
def execResidencyChangeComplete (n : Nat) (s : State) : Result State := .next (s.finishChange n)

end Sys2Proof.Machine
end

