-- ==== Sys2Proof/Machine/Launch.lean ====
section
/-! DEFINITION. Regions read (R346 to R348), launch packets checked and admitted (R350 to R353, R358), graph objects (R360, R361), and the status of a SYS operation (R352). -/

namespace Sys2Proof.Machine

/-! ## Region control blocks -/

/-- An RCB as its bytes stand in physical memory (R346). -/
def State.readRcb (s : State) (a : Nat) : Rcb :=
  let n (o k : Nat) : Nat := readNat s.mem (a + o) k
  { parent := n 0 8, id := n 8 4, ovr := n 12 4 % 128, prio := n 16 4 % 16, preempt := (n 16 4).testBit 4, budget := n 20 2, tenant := n 24 2
    fmincap := n 26 2, grant := n 28 2, bgrant := n 30 2, fdq := n 32 8, ptroot := n 40 8, runlim := n 48 4, stalllim := n 52 4
    zeroOk := n 12 4 / 128 == 0 && n 16 4 / 32 == 0 }

/-- The copies of an RCB and of those above it, read where the scheduler holds none (R348); `fuel` bounds the path. -/
def State.loadRcbs (s : State) (a : Nat) : Nat → State
  | 0 => s
  | fuel + 1 =>
    if a % 64 ≠ 0 then s
    else
      match tfind s.rcbs a with
      | some r => if r.parent = 0 then s else s.loadRcbs r.parent fuel
      | none =>
        let r := s.readRcb a
        let s1 := { s with rcbs := tput s.rcbs a r }
        if r.parent = 0 then s1 else s1.loadRcbs r.parent fuel

/-- Whether a region is another or a descendant of it; `fuel` bounds the path (R352). -/
def State.inSubtree (s : State) (a top : Nat) : Nat → Bool
  | 0 => false
  | fuel + 1 =>
    if a = top then true
    else
      match tfind s.rcbs a with
      | some r => r.parent != 0 && s.inSubtree r.parent top fuel
      | none => false

/-- SERVED restarts for regions whose effective priority has changed (R355). -/
def State.keepServed (s old : State) : State :=
  { s with served := s.served.filter fun e => s.effPrio e.1 == old.effPrio e.1 }

/-- Whether a region lies within that of an issuer. The steward's region is the root, which holds every region, be its path well formed or not (R352). -/
def State.inOwn (s : State) (a issuer : Nat) : Bool :=
  (match tfind s.rcbs issuer with
  | some r => r.parent == 0
  | none => false) || s.inSubtree a issuer 17

/-- RCBSYNC of an RCB: its status, and the copies read again (R348, R352). -/
def State.rcbSync (s : State) (issuer a : Nat) : Nat × State :=
  let s0 := s.loadRcbs a 17
  if !s0.inOwn a issuer then (0x17, s)
  else
    let below := (s0.rcbs.filter fun e => s0.inSubtree e.1 a 17).map (·.1)
    let s1 := below.foldl (fun (st : State) k => { st with rcbs := tput st.rcbs k (s.readRcb k) }) s0
    let s2 := below.foldl (fun (st : State) k => st.loadRcbs k 17) s1
    if (a :: below).any s2.malformed then (0x14, s)
    else (0x01, (s2.keepServed s).pushTurn (.ev .decide))

/-! ## Virtual memory of a launch -/

/-- Pages of virtual memory cleared, as writes at their homes (R353). -/
def State.clearSpans (s : State) (root : Nat) : List (Nat × Nat) → State
  | [] => s
  | (va, n) :: rest => (s.vwrite 256 root va (List.replicate n 0) (n / 64 + 2)).clearSpans root rest

/-! ## Packets -/

/-- A launch packet from its 128 bytes (R350). -/
def packetOf (d : List Byte) : Packet :=
  let n := descNat d
  { codeBase := n 0 8, recAddr := n 8 8, region := n 16 8, entry := n 24 4, trapv := (List.range 7).map fun v => n (28 + 4 * v) 4
    wg := n 56 1, tillers := n 57 1, ng := n 58 1, spadg := n 60 2, accg := n 62 2, spill := n 64 2, nframes := n 66 2, minFreq := n 68 2
    maxPower := n 70 2, boost := (n 72 1).testBit 0, gx := n 76 4, gy := n 80 4, gz := n 84 4, cmask := n 88 8, wintab := n 96 8
    spillBase := n 104 8, frameBase := n 112 8, deptab := n 120 8, mustZero := n 59 1 == 0 && n 72 4 / 2 == 0 }

/-- The sheaves of a launch. -/
def Packet.total (p : Packet) : Nat := p.gx * p.gy * p.gz

/-- F of R350: the bytes that a workgroup's frames take in a frame set. -/
def Packet.frameBytes (p : Packet) : Nat := 17408 * p.tillers + 0xF0800 + 65536 * p.accg

/-- A check of LAUNCH: its status, its FIELD, and whether it passes. -/
abbrev LaunchCheck := Nat × Nat × Bool

/-- A virtual address that a packet names: aligned, and below 2^56. -/
def addrOk (va al : Nat) : Bool := va % al == 0 && Nat.blt va (2 ^ 56)

/-- The shape and grid checks (0x10, 0x11). -/
def Packet.shapeChecks (p : Packet) (d : List Byte) : List LaunchCheck :=
  [(0x10, 56, Nat.ble 1 p.wg && Nat.ble p.wg 4), (0x10, 57, Nat.ble 1 p.tillers && Nat.ble p.tillers 16),
   (0x10, 58, Nat.ble 1 p.ng && Nat.ble p.ng 128 && Nat.ble (p.tillers * p.ng) 2048), (0x10, 60, Nat.ble p.spadg 192), (0x10, 62, Nat.ble p.accg 64),
   (0x10, 64, Nat.ble p.spill 4096), (0x10, 70, Nat.ble 1 p.maxPower && Nat.ble p.maxPower 1000), (0x10, 59, descNat d 59 1 == 0),
   (0x10, 72, descNat d 72 4 / 2 == 0), (0x11, 76, p.gx != 0), (0x11, 80, p.gy != 0), (0x11, 84, p.gz != 0), (0x11, 76, Nat.ble p.total (2 ^ 32))]

/-- The windows of a window table (R225, R350). -/
def windowsOf (t : List Byte) : List Window :=
  (List.range 8).map fun n => let size := descNat t (16 * n + 8) 4; if size = 0 then ⟨0, 0⟩ else ⟨descNat t (16 * n) 8, size⟩

/-- The window checks (0x12), where the table could be read. -/
def windowChecks (t : Option (List Byte)) : List LaunchCheck :=
  match t with
  | none => []
  | some t => (windowsOf t).zipIdx.map fun e => (0x12, 96 + e.2, e.1.size == 0 || addrOk e.1.base 16)

/-- The power checks (0x13), which a malformed region passes over. -/
def State.powerChecks (s : State) (p : Packet) : List LaunchCheck :=
  if s.malformed p.region then []
  else
    [(0x13, 70, Nat.ble p.maxPower (s.effGrant p.region)), (0x13, 68, Nat.ble p.minMhz (s.effFmincap p.region)),
     (0x13, 72, !p.boost || s.effBgrant p.region != 0)]

/-- The dependency specification of a packet as its bytes stand, with the producer's record where it names one (R358). -/
structure DepRead where
  kind : Nat
  k : Nat
  prec : Nat
  table : Nat
  list : Nat
  prod : Option (List Byte)

def depRead (d : List Byte) (read : Nat → Option (List Byte)) : DepRead :=
  let kind := descNat d 0 1
  { kind := kind, k := descNat d 1 3, prec := descNat d 8 8, table := descNat d 16 8, list := descNat d 24 8
    prod := if 1 ≤ kind ∧ kind ≤ 4 then read (descNat d 8 8) else none }

/-- Whether a dependency specification passes (0x15); what cannot be read is passed over. -/
def DepRead.ok (d : DepRead) (total : Nat) : Bool :=
  Nat.ble d.kind 4 && !(d.kind == 2 && d.k == 0) &&
  (match d.prod with
  | none => true
  | some r =>
    let st := descNat r 0 1
    (st == 1 || st == 2) && !(d.kind == 1 && Nat.blt (descNat r 4 4 * descNat r 8 4 * descNat r 12 4) total))

/-- The address checks (0x16); `here` is whether an address has a translation, asked of the code, and of the spill areas and frame sets where the packet has some (log 61). -/
def Packet.addrChecks (p : Packet) (here : Nat → Bool) (bitmap wins dep : Bool) : List LaunchCheck :=
  let n := p.total
  [(0x16, 0, addrOk p.codeBase 4096 && here p.codeBase), (0x16, 8, bitmap), (0x16, 24, p.entry % 4 == 0)] ++
  (p.trapv.zipIdx.map fun e => (0x16, 28 + 4 * e.2, e.1 % 2 == 1 || e.1 % 4 == 0)) ++
  [(0x16, 96, wins),
   (0x16, 104, addrOk p.spillBase 64 && (p.spill == 0 || here p.spillBase) && Nat.ble (p.spillBase + 16 * p.spill * (64 * (n - 1) + 16 * (p.wg - 1) + p.tillers)) (2 ^ 56)),
   (0x16, 112, addrOk p.frameBase 64 && (p.nframes == 0 || here p.frameBase) && Nat.ble (p.frameBase + p.nframes * p.wg * p.frameBytes) (2 ^ 56)), (0x16, 120, dep)]

/-- The first check that fails: its status and FIELD, or 0x01 and 0. -/
def firstFailing : List LaunchCheck → Nat × Nat
  | [] => (1, 0)
  | (st, f, ok) :: rest => if ok then firstFailing rest else (st, f)

/-- The 64 bytes of a launch record at its admission or rejection (R353). -/
def recordBytes (status field : Nat) (p : Packet) : List Byte :=
  bytesOfNat (status + 2 ^ 8 * field) 4 ++ bytesOfNat p.gx 4 ++ bytesOfNat p.gy 4 ++ bytesOfNat p.gz 4 ++ List.replicate 48 0

/-- LAUNCH of a packet for an issuer's region: the status, and the state with the launch admitted or its rejection recorded (R353). `g` is the graph instance it belongs to. -/
def State.admitPacket (s : State) (issuer : Nat) (d : List Byte) (g : Option Nat) : Nat × State :=
  let p := packetOf d
  let s0 := s.loadRcbs p.region 17
  let root := s0.effRoot p.region
  let known := (s0.rcbPath p.region 16).any fun r => r.ovr.testBit 5
  if !addrOk p.recAddr 64 ∨ (known ∧ (s0.lineAt root p.recAddr .store).isNone) then (0x16, s0)
  else if !s0.inOwn p.region issuer then (0x17, s)
  else
    let n := p.total
    let pages := n / 8 / 65536 + 2
    let bm := s0.vspan root (p.recAddr + 64) ((n + 7) / 8) .store pages
    let wt := if addrOk p.wintab 16 then s0.vread root p.wintab 128 4 else none
    let dt := if p.deptab = 0 then none else if addrOk p.deptab 32 then s0.vread root p.deptab 32 2 else none
    let dep := dt.map fun b => depRead b fun va => if Nat.blt va (2 ^ 56) then s0.vread root va 16 2 else none
    let depOk := p.deptab == 0 || (match dep with
      | none => false
      | some x => x.prod.isSome || x.kind == 0 || Nat.blt 4 x.kind)
    let checks := p.shapeChecks d ++ windowChecks wt ++ s0.powerChecks p ++ [(0x14, 16, !s0.malformed p.region)] ++
      (match dep with
      | some x => [(0x15, 120, x.ok n)]
      | none => []) ++ p.addrChecks (fun va => (s0.lineAt root va .load).isSome) bm.isSome wt.isSome depOk
    let (st, f) := firstFailing checks
    let s9 := if wt.isSome then s0.vtouch 256 root p.wintab 128 4 else s0
    let s8 := if dt.isSome then s9.vtouch 256 root p.deptab 32 2 else s9
    if st ≠ 1 then (st, s8.vwrite 256 root p.recAddr (recordBytes st f p) 1)
    else
      let s1 := (s8.clearSpans root (bm.getD [])).vwrite 256 root p.recAddr (recordBytes 1 0 p) 1
      let ds : DepSpec := match dep with
        | some x =>
          let r := x.prod.getD []
          ⟨x.kind, x.k, x.prec, x.table, x.list, descNat r 4 4, descNat r 8 4, descNat r 12 4⟩
        | none => ⟨0, 0, 0, 0, 0, 0, 0, 0⟩
      let l : Launch := { Launch.blank with
        pkt := p, wins := windowsOf (wt.getD []), dep := ds, status := 1, free := List.range p.nframes, order := s1.fresh, issuer := issuer, graph := g }
      (1, ({ s1 with launches := tput s1.launches s1.launches.length l, fresh := s1.fresh + 1 } : State).pushTurn (.ev .decide))

/-! ## Graph objects (R360, R361) -/

/-- The instances of a graph object that are queued or running. -/
def State.instances (s : State) (obj root : Nat) : List (Nat × GraphInst) := s.graphs.filter fun e => e.2.obj == obj && e.2.root == root

/-- QUEUED written (R360). -/
def State.writeQueued (s : State) (obj root : Nat) : State := s.vwrite 256 root (obj + 24) (bytesOfNat (s.instances obj root).length 4) 1

/-- Patches applied in order to the bytes of a list of packets; none where one is out of range. -/
def applyPatches (npkt : Nat) (pk : List (List Byte)) (t : List Byte) : Nat → Option (List (List Byte))
  | 0 => some pk
  | n + 1 =>
    let i := descNat t 0 2
    let o := descNat t 2 1
    let len := descNat t 3 1
    if npkt ≤ i ∨ len = 0 ∨ 8 < len ∨ 128 < o + len then none
    else
      let b := lget [] pk i
      applyPatches npkt (lset pk i (b.take o ++ (t.drop 8).take len ++ b.drop (o + len))) (t.drop 16) n

/-- A list of bytes cut into packets. -/
def cutPackets (bs : List Byte) : Nat → List (List Byte)
  | 0 => []
  | n + 1 => bs.take 128 :: cutPackets (bs.drop 128) n

/-- The snapshot of a graph object, or none where a field, an address or a patch is out of range. -/
def State.snapshot (s : State) (root obj : Nat) : Option (List (List Byte)) :=
  match s.vread root obj 64 1 with
  | none => none
  | some h =>
    let npkt := descNat h 0 4 % 512
    let npat := descNat h 4 2
    let pa := descNat h 8 8
    let ta := descNat h 16 8
    if npkt = 0 ∨ 256 < npkt ∨ 4096 < npat ∨ !addrOk pa 64 ∨ !addrOk ta 16 then none
    else
      match s.vread root pa (128 * npkt) (2 * npkt), s.vread root ta (16 * npat) (npat + 1) with
      | some bs, some t => applyPatches npkt (cutPackets bs npkt) t npat
      | some _, none | none, _ => none

/-- GRUN of a graph object: its status, and the new instance (R361). -/
def State.grun (s : State) (issuer root obj : Nat) : Nat × State :=
  if Nat.ble 8 (s.instances obj root).length then (0x20, s)
  else
    match s.snapshot root obj with
    | none => (0x21, s)
    | some pk =>
      let key := obj + 2 ^ 56 * root
      let seq := tget 0 s.graphSeq key + 1
      let g : GraphInst := ⟨obj, root, issuer, seq, pk, false, []⟩
      let s1 : State := { s with graphs := tput s.graphs s.fresh g, graphSeq := tput s.graphSeq key seq, fresh := s.fresh + 1 }
      (1 + 2 ^ 8 * (seq % 256), (s1.writeQueued obj root).pushTurn (.ev (.graphInstanceAdmit s.fresh)))

/-- The packets of an instance admitted in order, with the launches that are admitted (R361). -/
def State.admitAll (s : State) (g issuer : Nat) (ls : List Nat) : List (List Byte) → State × List Nat
  | [] => (s, ls)
  | d :: rest =>
    let (st, s1) := s.admitPacket issuer d (some g)
    s1.admitAll g issuer (if st = 1 then ls ++ [s.launches.length] else ls) rest

/-- Whether an instance that runs is done: each of its launches is complete or abandoned. -/
def State.instanceDone (s : State) (x : GraphInst) : Bool := x.running && x.launches.all fun l => Nat.ble 2 (s.launch l).status

/-- GRAPH_INSTANCE_ADMIT: an instance that is done leaves, and the first instance of its object that waits is admitted (R361). -/
def execGraphInstanceAdmit (g : Nat) (s : State) : Result State :=
  .next (match tfind s.graphs g with
  | none => s
  | some x =>
    if s.instanceDone x then
      let s1 := ({ s with graphs := tdel s.graphs g } : State).writeQueued x.obj x.root
      match s1.instances x.obj x.root with
      | [] => s1
      | e :: _ => s1.pushTurn (.ev (.graphInstanceAdmit e.1))
    else if x.running || !((s.instances x.obj x.root).head?.any fun e => e.1 == g) then s
    else
      let (s1, ls) := s.admitAll g x.issuer [] x.pkts
      let s2 : State := { s1 with graphs := tput s1.graphs g { x with running := true, launches := ls } }
      if ls.isEmpty then s2.pushTurn (.ev (.graphInstanceAdmit g)) else s2)

/-! ## SYS_STATUS_LAND (R352) -/

/-- A SYS operation parked for the translation of its structure: it issues again whole (R324, R352). -/
def State.sysPark (s : State) (id va : Nat) (mig : Bool) : State :=
  let f := s.flight id
  let t := s.tiller f.tid
  ((s.delFlight id).setTiller f.tid (t.delPend f.regs)).parkFault f.tid va .load mig

/-- The first page of a structure of `n` lines that waits for a translation, and whether a migrating leaf is met (R324, R352). -/
def State.sysWaits (s : State) (root va : Nat) : Nat → Option (Nat × Bool)
  | 0 => none
  | n + 1 =>
    if 2 ^ 56 ≤ va then none
    else
      match s.walk root va .load with
      | .notPresent => some (va, false)
      | .migrating => some (va, true)
      | .leaf .. | .malformed | .protection | .phys _ => s.sysWaits root (va + 64) n

/-- How the read of the structures of a SYS operation ends: it waits for a translation at an address, met a migrating leaf or not; it meets a held block, or a link that is down, at an address; it meets an uncorrectable error in a line; or it gives a status. -/
inductive SysEnd where
  | wait (va : Nat) (mig : Bool)
  | data (va : Nat) (held : Bool)
  | bad (r : LineRef)
  | done (st : Nat) (s : State)

/-- The first line of a structure of `n` lines that cannot be read as a load would read it (R106, R278, R352, R365). -/
def State.sysBad (s : State) (root va : Nat) : Nat → Option SysEnd
  | 0 => none
  | n + 1 =>
    match s.lineAt root va .load with
    | none => s.sysBad root (va + 64) n
    | some r =>
      if s.linkDown r.pa then some (.data va false)
      else if r.coded && s.blockHeld r.key.base then some (.data va true)
      else if s.devBad r then some (.bad r)
      else s.sysBad root (va + 64) n

/-- What comes of a SYS operation of a tiller (R352). -/
def State.sysStatus (s : State) (tid op a : Nat) : SysEnd :=
  let issuer := s.regionOf tid
  let root := s.rootOf tid
  let fin (x : Nat × State) : SysEnd := .done x.1 x.2
  if op = 2 then fin (s.rcbSync issuer a)
  else
    let bad := if op = 0 then 0x16 else 0x21
    let n := if op = 0 then 2 else 1
    if !addrOk a 64 then .done bad s
    else
      match s.sysWaits root a n with
      | some w => .wait w.1 w.2
      | none =>
        match s.sysBad root a n with
        | some e => e
        | none =>
          if op = 0 then
            match s.vread root a 128 2 with
            | none => .done bad s
            | some d => fin ((s.vtouch (coreOf tid) root a 128 2).admitPacket issuer d none)
          else fin ((s.vtouch (coreOf tid) root a 64 1).grun issuer root a)

/-- A SYS operation whose structure stands in a held block, or behind a link that is down: a precise fault of its word (R110, R352, R365). -/
def State.sysData (s : State) (id va : Nat) (held : Bool) : State :=
  let f := s.flight id
  let t := s.tiller f.tid
  (({ s with cur := f.tid } : State).delFlight id |>.setTiller f.tid (t.delPend f.regs)).dataHere va 0 held

/-- A SYS operation that meets an uncorrectable error in its structure: d lands unchanged, and the first instruction that touches it faults, as for a load (R278, R352). -/
def State.sysError (s : State) (id : Nat) (r : LineRef) (p : Bool) : State :=
  let f := s.flight id
  let s1 := ({ s with cur := f.tid } : State).land id [] 0
  (s1.modTl fun t => { t with errs := t.errs ++ [⟨f.regs, none, r.pa, info0Of r.va, info1Of r.va 0 0, false⟩] }).finish p

/-- SYS_STATUS_LAND (R352, R353). -/
def execSysStatusLand (id : Nat) (s : State) : Result State :=
  .next (match tfind s.flights id with
  | none => s
  | some f =>
    match f.kind with
    | .sys op d a p =>
      (match s.sysStatus f.tid op a with
      | .wait va mig => s.sysPark id va mig
      | .data va held => s.sysData id va held
      | .bad r => s.sysError id r p
      | .done st s1 => (({ s1 with cur := f.tid } : State).land id [.s d (bv 32 st)] 0).finish p)
    | .result _ | .load .. | .remote .. | .ldp .. | .atomic .. | .vrst .. | .vtag _ | .store | .spadStore .. | .fence .. | .pref | .watch | .hold _ => s)

end Sys2Proof.Machine
end

