-- ==== Sys2Proof/Machine/Sched.lean ====
section
/-! DEFINITION. The scheduler: dependencies (R359), fitting (R11, R14, R15, R354), placement (R12, R114, R203, R231, R250, R344), the decision (R355, R356) and retirement (R357). -/

namespace Sys2Proof.Machine

/-! ## Dependencies (R359) -/

/-- A word that a dependency names, read as memory; the first failure to read it sends a record (R359). -/
def State.depWord (s : State) (l va n which : Nat) : Option Nat × State :=
  let x := s.launch l
  match s.vread (s.effRoot x.pkt.region) va n (n + 1) with
  | some bs => (some (natOfBytes bs), if x.told.contains va then s.setLaunch l { x with told := x.told.filter fun a => a != va } else s)
  | none =>
    if x.told.contains va then (none, s)
    else
      let s1 := s.setLaunch l { x with told := va :: x.told }
      (none, s1.post x.pkt.region ⟨0x000E, which, 0xFF, 0, 0, 0, (s.rcb x.pkt.region).id, 0, va, s.time⟩)

/-- Whether the completion bits of producer sheaves are all set. -/
def State.bitsSet (s : State) (l prec : Nat) : List Nat → Bool × State
  | [] => (true, s)
  | i :: rest =>
    match s.depWord l (prec + 64 + i / 8) 1 0 with
    | (none, s1) => (false, s1)
    | (some b, s1) => if b.testBit (i % 8) then s1.bitsSet l prec rest else (false, s1)

/-- Whether the producers that LIST words name have retired; an index beyond the producer's sheaves counts as met. -/
def State.listMet (s : State) (l prec total a : Nat) : Nat → Bool × State
  | 0 => (true, s)
  | n + 1 =>
    match s.depWord l a 4 2 with
    | (none, s1) => (false, s1)
    | (some w, s1) =>
      if total ≤ w then s1.listMet l prec total (a + 4) n
      else
        match s1.bitsSet l prec [w] with
        | (true, s2) => s2.listMet l prec total (a + 4) n
        | (false, s2) => (false, s2)

/-- The producer sheaves that ROWS needs. -/
def DepSpec.rows (d : DepSpec) (y : Nat) : List Nat :=
  (List.range d.pz).flatMap fun z => ((List.range (Nat.min d.k (d.py - y * d.k))).map fun j => y * d.k + j).flatMap fun yy =>
    (List.range d.px).map fun x => x + d.px * (yy + d.py * z)

/-- Whether the dependencies of a launch's sheaf are met (R359). -/
def State.depMet (s : State) (l i : Nat) : Bool × State :=
  let x := s.launch l
  let d := x.dep
  let total := d.px * d.py * d.pz
  match d.kind with
  | 1 => s.bitsSet l d.prec [i]
  | 2 => s.bitsSet l d.prec (d.rows (gridY x.pkt i))
  | 3 => s.bitsSet l d.prec (List.range total)
  | 4 =>
    (match s.depWord l (d.table + 8 * i) 8 1 with
    | (none, s1) => (false, s1)
    | (some e, s1) => s1.listMet l d.prec total (d.list + 4 * (e % 2 ^ 32)) (e / 2 ^ 32))
  | _ => (true, s)

/-! ## Fitting (R11, R14, R15, R354) -/

/-- The tillers that hold positions of a core, those of some sheaves apart. -/
def State.onCore (s : State) (core : Nat) (excl : List Nat) : List (Nat × Tiller) :=
  s.tillers.filter fun e => e.2.live && coreOf e.1 == core && !excl.contains e.2.sheaf

/-- The workgroups on a core, those of some sheaves apart. -/
def State.wgsOn (s : State) (core : Nat) (excl : List Nat) : List Wg :=
  (s.wgs.filter fun e => e.2.core == core && !excl.contains (e.1 / 4)).map (·.2)

/-- The tillers of a workgroup of n that slot k receives from starting slot s0 (R11). -/
def slotShare (n s0 k : Nat) : Nat := ((List.range n).filter fun i => (s0 + i) % 4 == k).length

/-- The least starting slot with which a core has room for one workgroup of a packet (R11, R14, R15). -/
def State.room (s : State) (core : Nat) (p : Packet) (excl : List Nat) : Option Nat :=
  let ts := s.onCore core excl
  let ws := s.wgsOn core excl
  let regs := ts.foldl (fun n e => n + e.2.ng) 0
  let spad := ws.foldl (fun n w => n + w.spad) 0
  let rows := ws.foldl (fun n w => n + w.accRows) 0
  if Nat.blt 2048 (regs + p.tillers * p.ng) || Nat.blt 786432 (spad + 4096 * p.spadg) || Nat.blt 4096 (rows + 64 * p.accg) ||
      (p.accg != 0 && ws.any fun w => w.accRows != 0) then none
  else
    (List.range 4).find? fun s0 => (List.range 4).all fun k =>
      Nat.ble ((ts.filter fun e => slotOf e.1 == k).length + slotShare p.tillers s0 k) 16

/-- Whether the grants stay within the package with a sheaf added to a cluster and some sheaves removed (R354). -/
def State.powerOk (s : State) (h : Sheaf) (cl : Nat) (excl : List Nat) : Bool :=
  let sets := (List.range 64).map fun c =>
    (((s.residents c).filter fun e => !excl.contains e.1).map (·.2)) ++ (if c = cl then [h] else [])
  Nat.ble (sets.foldl (fun n hs => n + s.grantOf hs) 0) 8000 && Nat.ble (sets.foldl (fun n hs => n + s.windowGrantOf hs) 0) 9600

/-- Whether a launch's CMASK allows a cluster (R350). -/
def Packet.allows (p : Packet) (cl : Nat) : Bool := p.cmask == 0 || p.cmask.testBit cl

/-- Whether a sheaf of a launch fits a cluster once some sheaves are gone: the cores and starting slots of its workgroups (R354). -/
def State.fits (s : State) (l cl : Nat) (excl : List Nat) : Option (List (Nat × Nat)) :=
  let p := (s.launch l).pkt
  if !p.allows cl || (s.cluster cl).held || !s.powerOk { Sheaf.blank with launch := l } cl excl then none
  else
    let got := (List.range 4).filterMap fun j => (s.room (4 * cl + j) p excl).map fun s0 => (4 * cl + j, s0)
    if got.length < p.wg then none else some (got.take p.wg)

/-! ## Placement (R11, R12, R114, R189) -/

/-- The lowest free position of a slot (R189). -/
def State.freePos (s : State) (core slot : Nat) : Nat :=
  ((List.range 16).find? fun p => !(s.tiller (64 * core + 16 * slot + p)).live).getD 0

/-- A tiller as it is placed (R114, R171, R173). -/
def Packet.tiller (p : Packet) (i index w t : Nat) (steward : Bool) : Tiller :=
  { Tiller.blank with
    live := true, sheaf := i, rank := w, num := t, steward := steward, ng := p.ng, depth := p.spill
    area := p.spillBase + 16 * p.spill * (64 * index + 16 * w + t)
    slotA := ⟨.ready, bv 32 p.entry, 0xFFFFFFFF, joinNone, joinNone⟩ }

/-- A tiller put at the lowest free position of its slot. -/
def State.addTiller (s : State) (i core slot : Nat) (x : Tiller) : State :=
  let tid := 64 * core + 16 * slot + s.freePos core slot
  let h := s.sheaf i
  (s.setTiller tid x).setSheaf i { h with tids := tput h.tids (16 * x.rank + x.num) tid }

/-- The tillers of a workgroup placed in ascending TILLER order (R11, R189). -/
def State.addTillers (s : State) (i core s0 : Nat) : List Tiller → State
  | [] => s
  | x :: rest => (s.addTiller i core ((s0 + x.num) % 4) x).addTillers i core s0 rest

/-- The origin of a core's array advanced, with its planes and shadow as at placement (R230, R234, R250). -/
def ArrayUnit.place (u : ArrayUnit) : ArrayUnit :=
  let n := (u.norg + 1) % 256
  { u with active := ⟨[], []⟩, shadow := ⟨[], []⟩, full := false, norg := n, korg := if n = 0 then (u.korg + 48) % 384 else u.korg, gen := (u.gen + 1) % 256 }

/-- MORG as the array's origin gives it (R250). -/
def ArrayUnit.morg (u : ArrayUnit) : Nat := u.korg + 2 ^ 16 * u.norg + 2 ^ 24 * u.gen

/-- A workgroup placed on a core, with its tillers (R15, R203, R231, R232, R250). -/
def State.placeWg (s : State) (i w core s0 : Nat) (ts : List Tiller) : State :=
  let p := (s.launch (s.sheaf i).launch).pkt
  let s1 := if p.accg = 0 then s else s.setArray core (s.array core).place
  let g : Wg := { Wg.blank with
    core := core, s0 := s0, spad := 4096 * p.spadg, accRows := 64 * p.accg, morg := if p.accg = 0 then 0 else (s1.array core).morg }
  ((s1.setWg (wgOf i w) g).acquireL1 core).addTillers i core s0 ts

/-- The workgroups of a sheaf placed, rank by rank. -/
def State.placeWgs (s : State) (i : Nat) (tillers : Nat → List Tiller) : Nat → List (Nat × Nat) → State
  | _, [] => s
  | w, (core, s0) :: rest => (s.placeWg i w core s0 (tillers w)).placeWgs i tillers (w + 1) rest

/-- What follows a placement in a cluster: the allowance of an empty cluster, its frequency, and its waking (R192, R194, R373). -/
def State.settleIn (s : State) (cl : Nat) (wasEmpty : Bool) : State :=
  let c := { s.cluster cl with idleSince := s.time }
  let s1 := s.setCluster cl (if wasEmpty then { c with allow := 64000 * (s.clusterGrant cl : Int), wlvl := 0 } else c)
  let s2 := s1.retarget cl
  s2.wakeCluster cl

/-- The first placement of a sheaf of a launch (R12, R351, R355). -/
def State.placeNew (s : State) (i l index cl : Nat) (cores : List (Nat × Nat)) (steward : Bool) : State :=
  let x := s.launch l
  let p := x.pkt
  let wasEmpty := (s.residents cl).isEmpty
  let h : Sheaf := { Sheaf.blank with launch := l, index := index, st := .resident, cluster := cl, placed := s.fresh, seen := s.time }
  let s1 := ({ s with fresh := s.fresh + 1 } : State).setSheaf i h
  let s2 := s1.placeWgs i (fun w => (List.range p.tillers).map fun t => p.tiller i index w t steward) 0 cores
  let s3 := (s2.setLaunch l { x with placed := x.placed + 1, next := if index = x.next then index + 1 else x.next }).settleIn cl wasEmpty
  let y := s3.launch l
  let s4 := s3.recWrite y 16 8 y.placed
  if y.placed = 1 then s4.recWrite y 32 8 s.time else s4

/-! ## Resume (R344) -/

/-- The address of a tiller's frame in its sheaf's frame set (R350). -/
def Packet.tillerFrame (p : Packet) (j w t : Nat) : Nat := p.frameBase + j * p.wg * p.frameBytes + w * p.frameBytes + 17408 * t
/-- The address of a workgroup's frame (R350). -/
def Packet.wgFrame (p : Packet) (j w : Nat) : Nat := p.frameBase + j * p.wg * p.frameBytes + w * p.frameBytes + 17408 * p.tillers

/-- The scalar pair k0:k1 (R340). -/
def Tiller.setK (t : Tiller) (a : Nat) : Tiller := (t.ws (bv 6 60) (bv 32 a)).ws (bv 6 61) (bv 32 (a / 2 ^ 32))

/-- A tiller as it resumes: its specials and PC slots from the first 64 bytes of its frame, at RESUMEV in handler mode (R332, R340, R344). -/
def Tiller.resume (t : Tiller) (bs : List Byte) (frame : Nat) : Tiller :=
  let w (o : Nat) : Word := bv 32 (descNat bs o 4)
  let st := w 4
  let slot (o : Nat) : Slot := ({ Slot.blank with mask := w (o + 8), join := w (o + 16), outr := w (o + 24) } : Slot).writePc (w o)
  let t1 := (t.setSpecial .tctl (w 8)).setSpillp (w 0x30)
  { t1.setK frame with
    tpc := w 0, flags := st.extractLsb' 0 7, widx := bits st.toNat 8 4, cln := bits st.toNat 12 4, clk := bits st.toNat 16 2, rslot := st.getLsbD 18
    repcnt := (w 12).toNat, slotA := slot 0x10, slotB := slot 0x14, resumev := w 0x34, frame := frame
    tcause := tcauseOf 0x12, tinfo0 := 0, tinfo1 := 0, hnd := true, hpc := w 0x34, halt := .resuming }

/-- A tiller that had exited before the save stays exited (R343). -/
def Tiller.stayExited (t : Tiller) : Tiller := { t with exited := true, slotA := Slot.blank, lanes := 0, halt := .waiting }

/-- The first 64 bytes of a tiller's frame as they stand in memory; none where they do not translate or cannot be read (log 25). -/
def State.frameHead (s : State) (p : Packet) (j w t : Nat) : Option (List Byte) := s.vread (s.effRoot p.region) (p.tillerFrame j w t) 64 1

/-- Whether every frame that a resume reads first can be read.
DESIGN CHOICE (log 25): where one cannot, its page absent, its block held or its line in error, the sheaf stays saved, since no tiller runs to take the fault of R110. -/
def State.framesReady (s : State) (i : Nat) : Bool :=
  let h := s.sheaf i
  let p := (s.launch h.launch).pkt
  match h.frameSet with
  | none => false
  | some j => (List.range p.wg).all fun w => (List.range p.tillers).all fun t =>
    (tget Tiller.blank h.kept (16 * w + t)).exited || (s.frameHead p j w t).isSome

/-- The tillers of a workgroup that resumes. -/
def State.resumeTillers (s : State) (i w : Nat) : List Tiller :=
  let h := s.sheaf i
  let p := (s.launch h.launch).pkt
  let j := h.frameSet.getD 0
  (List.range p.tillers).map fun t =>
    let old := tget Tiller.blank h.kept (16 * w + t)
    let x := p.tiller i h.index w t false
    if old.exited then x.stayExited
    else ({ x with lanes := old.lanes, errs := old.errs } : Tiller).resume ((s.frameHead p j w t).getD []) (p.tillerFrame j w t)

/-- What the reading of the frames that a resume needs first does at the homes of their lines (R110, R254). -/
def State.touchFrames (s : State) (i : Nat) : State :=
  let h := s.sheaf i
  let p := (s.launch h.launch).pkt
  (h.kept.filter fun e => !e.2.exited).foldl (fun st e =>
    st.vtouch 256 (s.effRoot p.region) (p.tillerFrame (h.frameSet.getD 0) (e.1 / 16) (e.1 % 16)) 64 1) s

/-- A saved sheaf placed again (R344); its watchdog counts are kept (R199). -/
def State.placeSaved (s : State) (i cl : Nat) (cores : List (Nat × Nat)) : State :=
  let h := s.sheaf i
  let wasEmpty := (s.residents cl).isEmpty
  let tillers := s.resumeTillers i
  let s1 := ({ s with fresh := s.fresh + 1 } : State).setSheaf i
    { h with st := .resuming, cluster := cl, placed := s.fresh, seen := s.time, shortfall := false, closing := false }
  ((s1.touchFrames i).placeWgs i tillers 0 cores).settleIn cl wasEmpty

/-! ## The decision (R355) -/

/-- A sheaf that waits: its launch, its index, and the sheaf it already is, where it is saved or has a cluster reserved. -/
structure Cand where
  launch : Nat
  index : Nat
  sheaf : Option Nat
  deriving DecidableEq, Repr

/-- Whether a sheaf of a launch has been placed. -/
def State.isPlaced (s : State) (l index : Nat) : Bool := s.sheaves.any fun e => e.2.launch == l && e.2.index == index && e.2.st != .waiting

/-- The sheaf that stands for an unplaced index, where one does. -/
def State.waitingSheaf (s : State) (l index : Nat) : Option Nat :=
  (s.sheaves.find? fun e => e.2.launch == l && e.2.index == index && e.2.st == .waiting).map (·.1)

/-- The first unplaced sheaf of a launch from an index on whose dependencies are met; `fuel` bounds the indexes. -/
def State.firstUnplaced (s : State) (l index : Nat) : Nat → Option Cand × State
  | 0 => (none, s)
  | fuel + 1 =>
    if s.isPlaced l index then s.firstUnplaced l (index + 1) fuel
    else
      match s.depMet l index with
      | (true, s1) => (some ⟨l, index, s1.waitingSheaf l index⟩, s1)
      | (false, s1) => s1.firstUnplaced l (index + 1) fuel

/-- The saved sheaf of a launch that was pre-empted first and whose frames can be read. -/
def State.firstSaved (s : State) (l : Nat) : Option (Nat × Sheaf) :=
  (s.sheaves.filter fun e => e.2.launch == l && e.2.st == .saved && s.framesReady e.1).foldl (fun b e =>
    match b with
    | none => some e
    | some x => if e.2.preempted < x.2.preempted then some e else some x) none

/-- The first sheaf of a launch that waits. -/
def State.firstOf (s : State) (l : Nat) : Option Cand × State :=
  let x := s.launch l
  if x.status ≠ 1 then (none, s)
  else
    match s.firstSaved l with
    | some (i, h) => (some ⟨l, h.index, some i⟩, s)
    | none => s.firstUnplaced l x.next (x.pkt.total - x.next)

/-- The first waiting sheaf of each launch. -/
def State.candidates (s : State) : List Nat → List Cand × State
  | [] => ([], s)
  | l :: rest =>
    let (c, s1) := s.firstOf l
    let (cs, s2) := s1.candidates rest
    (c.toList ++ cs, s2)

/-- The region of a candidate. -/
def State.candRegion (s : State) (c : Cand) : Nat := (s.launch c.launch).pkt.region

/-- Whether one candidate is chosen before another: by priority, then by the served share of its region, the region's ID, and its launch's age. -/
def State.candBefore (s : State) (a b : Cand) : Bool :=
  let ra := s.candRegion a
  let rb := s.candRegion b
  let pa := s.effPrio ra
  let pb := s.effPrio rb
  if pa ≠ pb then Nat.blt pb pa
  else if ra = rb then Nat.blt (s.launch a.launch).order (s.launch b.launch).order
  else
    let x := tget 0 s.served ra * Nat.max (s.effBudget rb) 1
    let y := tget 0 s.served rb * Nat.max (s.effBudget ra) 1
    if x ≠ y then Nat.blt x y else Nat.blt (s.rcb ra).id (s.rcb rb).id

/-- The candidate chosen among several. -/
def State.bestCand (s : State) : List Cand → Option Cand
  | [] => none
  | c :: rest => some (rest.foldl (fun b x => if s.candBefore x b then x else b) c)

/-- Whether a cluster's reservation lets a candidate in: none, its own, or that of a sheaf of lower priority. -/
def State.unreserved (s : State) (c : Cand) (cl : Nat) : Bool :=
  match (s.cluster cl).reserved with
  | none => true
  | some i => c.sheaf == some i ||
      Nat.blt (s.effPrio (s.launch (s.sheaf i).launch).pkt.region) (s.effPrio (s.candRegion c))

/-- The lowest-numbered cluster that a candidate fits. -/
def State.findFit (s : State) (c : Cand) : Option (Nat × List (Nat × Nat)) :=
  (List.range 64).findSome? fun cl => if s.unreserved c cl then (s.fits c.launch cl []).map fun cores => (cl, cores) else none

/-- Whether a resident sheaf may be pre-empted for one of a priority (R329, R343, R355, R362, R374). -/
def State.mayEvict (s : State) (prio : Nat) (e : Nat × Sheaf) : Bool :=
  let l := s.launch e.2.launch
  let r := l.pkt.region
  e.2.st == .resident && Nat.blt (s.effPrio r) prio && s.effPreempt r && lget 1 l.pkt.trapv 2 % 2 == 0 && l.pkt.nframes != 0 &&
    (e.2.positions.any fun t => !(s.tiller t).exited) && !(e.2.positions.any fun t => (s.tiller t).steward)

/-- A victim put in the order of R355: lowest priority first, then the latest placed. -/
def State.insertVictim (s : State) (e : Nat × Sheaf) : List (Nat × Sheaf) → List (Nat × Sheaf)
  | [] => [e]
  | x :: rest =>
    let pe := s.effPrio (s.launch e.2.launch).pkt.region
    let px := s.effPrio (s.launch x.2.launch).pkt.region
    if pe < px ∨ (pe = px ∧ x.2.placed < e.2.placed) then e :: x :: rest else x :: s.insertVictim e rest

/-- The victims a cluster offers, in the order of R355. -/
def State.victimsOf (s : State) (prio cl : Nat) : List (Nat × Sheaf) :=
  ((s.residents cl).filter fun e => s.mayEvict prio e).foldr (fun e l => s.insertVictim e l) []

/-- The choices of `n` elements of a list, those that take earlier elements first. -/
def chooseFrom {α : Type} : Nat → List α → List (List α)
  | 0, _ => [[]]
  | _ + 1, [] => []
  | n + 1, x :: rest => (chooseFrom n rest).map (fun l => x :: l) ++ chooseFrom (n + 1) rest

/-- Whether the launches of some victims have a free frame set for each of them (R355). -/
def State.framesFor (s : State) (vs : List (Nat × Sheaf)) : Bool :=
  vs.all fun e => Nat.ble (vs.filter fun x => x.2.launch == e.2.launch).length (s.launch e.2.launch).free.length

/-- The fewest victims of a cluster whose removal makes a candidate fit, those that come first in the order of R355 among as few; `n` is the number tried, `fuel` bounds it. -/
def State.fewestFrom (s : State) (c : Cand) (cl : Nat) (vs : List (Nat × Sheaf)) (n : Nat) : Nat → Option (List Nat)
  | 0 => none
  | fuel + 1 =>
    match (chooseFrom n vs).find? fun xs => s.framesFor xs && (s.fits c.launch cl (xs.map (·.1))).isSome with
    | some xs => some (xs.map (·.1))
    | none => s.fewestFrom c cl vs (n + 1) fuel

/-- The victims for a candidate: the cluster that needs fewest, with them (R355). -/
def State.victims (s : State) (c : Cand) : Option (Nat × List Nat) :=
  let prio := s.effPrio (s.candRegion c)
  ((List.range 64).filterMap fun cl =>
    if s.unreserved c cl then
      let vs := s.victimsOf prio cl
      (s.fewestFrom c cl vs 1 vs.length).map fun xs => (cl, xs)
    else none).foldl (fun b x =>
      match b with
      | none => some x
      | some y => if x.2.length < y.2.length then some x else some y) none

/-- A sheaf chosen as a victim: it takes the lowest free frame set and becomes pre-empt pending (R337, R356). -/
def State.preempt (s : State) (i : Nat) : State :=
  let h := s.sheaf i
  let l := s.launch h.launch
  let l1 := { l with preempts := (l.preempts + 1) % 2 ^ 32, free := l.free.drop 1 }
  let s1 := ({ s with fresh := s.fresh + 1 } : State).setSheaf i { h with st := .pending, frameSet := l.free.head?, preempted := s.fresh }
  let s2 := (s1.setLaunch h.launch l1).recCount l1 48 4 l1.preempts
  s2.wakeCluster h.cluster

/-- The sheaf that stands for a candidate, made where there is none. -/
def State.standIn (s : State) (c : Cand) : Nat × State :=
  match c.sheaf with
  | some i => (i, s)
  | none => (s.sheaves.length, s.setSheaf s.sheaves.length { Sheaf.blank with launch := c.launch, index := c.index, st := .waiting })

/-- A sheaf's reservations given up. -/
def State.unreserve (s : State) (i : Nat) : State :=
  { s with clusters := s.clusters.map fun (e : Nat × Cluster) => if e.2.reserved = some i then (e.1, { e.2 with reserved := none }) else e }

/-- A candidate placed, and served counted (R355). -/
def State.placeCand (s : State) (c : Cand) (cl : Nat) (cores : List (Nat × Nat)) : State :=
  let (i, s1) := s.standIn c
  let s2 := s1.unreserve i
  let s3 := s2.setCluster cl { s2.cluster cl with reserved := none }
  let r := s.candRegion c
  let s4 : State := { s3 with served := tput s3.served r (tget 0 s3.served r + 1) }
  if (s4.sheaf i).st = .saved then s4.placeSaved i cl cores else s4.placeNew i c.launch c.index cl cores false

/-- Whether the victims of a sheaf's reservation have yet to leave: while one has, no others are looked for (log 88). -/
def State.leaving (s : State) (c : Cand) : Bool :=
  match c.sheaf with
  | none => false
  | some i => s.clusters.any fun e => e.2.reserved == some i && (s.residents e.1).any fun h => h.2.st == .pending || h.2.st == .saving

/-- One decision among the candidates not set aside; `fuel` bounds them (R355). -/
def State.decideAmong (s : State) (cs : List Cand) : Nat → State
  | 0 => s
  | fuel + 1 =>
    match s.bestCand cs with
    | none => s
    | some c =>
      match s.findFit c with
      | some (cl, cores) => (s.placeCand c cl cores).pushTurn (.ev .decide)
      | none =>
        let rest := cs.filter fun x => x.launch != c.launch
        if s.leaving c then s.decideAmong rest fuel
        else
          match s.victims c with
          | some (cl, vs) =>
            let (i, s1) := s.standIn c
            let s0 := s1.unreserve i
            let s2 := s0.setCluster cl { s0.cluster cl with reserved := some i }
            (vs.foldl State.preempt s2).pushTurn (.ev .decide)
          | none => s.decideAmong rest fuel

/-- DECIDE (R355, R359). -/
def execDecide (s : State) : Result State :=
  let (cs, s1) := s.candidates (s.launches.map (·.1))
  let s2 : State := { s1 with served := s1.served.filter fun e => cs.any fun c => s1.candRegion c == e.1 }
  .next (s2.decideAmong cs (cs.length + 1))

/-! ## Retirement (R12, R179, R357) -/

/-- The outstanding operations of some tillers. -/
def State.flightsOf (s : State) (tids : List Nat) : Bool := s.flights.any fun e => tids.contains e.2.tid

/-- Whether some chain of a sheaf runs, waits or is saved. -/
def State.hasChains (s : State) (i : Nat) : Bool :=
  s.engines.any fun e => (e.2.chain.toList ++ e.2.waiting ++ e.2.reforks ++ e.2.saved).any fun c => c.ofSheaf i

/-- Whether an array queue holds an operation of a sheaf. -/
def State.hasArrayOps (s : State) (i : Nat) : Bool := s.arrays.any fun e => e.2.queue.any fun o => o.wg / 4 == i

/-- Whether a sheaf's counters are zero, no register of it is pending and its array queue holds nothing of it. -/
def State.sheafQuiet (s : State) (i : Nat) : Bool :=
  let tids := (s.sheaf i).positions
  !s.flightsOf tids && !s.hasArrayOps i && tids.all fun t => (s.tiller t).zeroCtrs 0xFFFF && (s.tiller t).pend.isEmpty

/-- The release at .dv over a sheaf's accesses: the write-backs of its cores sent, and a fence of one of its tillers that waits for them (R213, R270, R357). -/
def State.closeCores (s : State) (tid : Nat) : List Nat → State
  | [] => s
  | core :: rest =>
    let s1 := s.writeBackAll core (some tid) fun _ => true
    let ws := s1.pendingWrites core 3
    let s2 := if ws.isEmpty then s1 else s1.addFlight { Flight.blank with tid := tid, core := core, kind := .fence false 3, waits := ws }
    s2.closeCores tid rest

/-- The cores of a sheaf's workgroups. -/
def State.coresOf (s : State) (i : Nat) : List Nat := (s.wgsOf i).map fun w => (s.wg w).core

/-- The closing release of a sheaf, made once. -/
def State.closeSheaf (s : State) (i : Nat) : State :=
  let h := s.sheaf i
  (s.closeCores (h.positions.headD 0) (s.coresOf i)).setSheaf i { h with closing := true }

/-- Whether a sheaf may retire but for its closing release (R12, R343); the steward's never does (R362). -/
def State.mayRetire (s : State) (i : Nat) : Bool :=
  let h := s.sheaf i
  h.resident && (h.positions.all fun t => (s.tiller t).exited && !(s.tiller t).steward) && s.sheafQuiet i && !s.hasChains i

/-- The completion bit of a sheaf set by an OR at its home (R351, R357). -/
def State.setDone (s : State) (l : Launch) (index : Nat) : State :=
  let root := s.effRoot l.pkt.region
  let va := l.pkt.recAddr + 64 + index / 8
  match s.vread root va 1 1 with
  | some bs => s.vwrite 256 root va (bytesOfNat (natOfBytes bs ||| 2 ^ (index % 8)) 1) 1
  | none => s

/-- SHEAF_RETIRE (R357). -/
def execSheafRetire (i : Nat) (s : State) : Result State :=
  let h := s.sheaf i
  .next (if !s.mayRetire i then s
    else if !h.closing then s.closeSheaf i
    else
      let s1 := (s.freeFrames i).freeSheaf i .retired
      let l := s1.launch h.launch
      let s2 := s1.setDone l h.index
      let l1 := { l with retired := l.retired + 1 }
      let s3 := (s2.setLaunch h.launch l1).recCount l1 24 8 l1.retired
      let s4 := if l1.status = 1 ∧ l1.retired = l1.pkt.total then
          ((s3.recWrite l1 40 8 s.time).recStatus l1 2 0).setLaunch h.launch { l1 with status := 2 } else s3
      (s4.pushTurn (.ev .decide)).launchEnded l1)

end Sys2Proof.Machine
end

