-- ==== Sys2Proof/Machine/Preempt.lean ====
section
/-! DEFINITION. Pre-emption and resume (R337 to R345): quiescence and halt points, the save, CTXDONE, and the release of a resumed sheaf. -/

namespace Sys2Proof.Machine

/-! ## Halt points (R317, R337, R338) -/

/-- The chains of a sheaf, with their engine units, in the order they were forked (R317, R341). -/
def State.chainsOf (s : State) (i : Nat) : List (Nat × Chain) :=
  let put (x : Nat × Chain) (l : List (Nat × Chain)) : List (Nat × Chain) :=
    (l.filter fun y => Nat.blt y.2.seq x.2.seq) ++ [x] ++ (l.filter fun y => !Nat.blt y.2.seq x.2.seq)
  (s.engines.flatMap fun e => ((e.2.chain.toList ++ e.2.waiting ++ e.2.reforks ++ e.2.saved).filter fun c => c.ofSheaf i).map fun c => (e.1, c)).foldl
    (fun l x => put x l) []

/-- Whether every chain of a sheaf is quiescent: none runs but those that are parked (R317). -/
def State.quiescent (s : State) (i : Nat) : Bool :=
  s.engines.all fun e =>
    match e.2.chain with
    | some c => !c.ofSheaf i || c.park.isSome
    | none => true

/-- Whether a tiller stands at a halt point (R338): between clauses, between two repeats, in a blocked WAIT, or parked on a replayable fault; never in a handler. -/
def Tiller.atHalt (t : Tiller) : Bool :=
  !t.hnd &&
  (match t.block with
  | .waitA .. | .waitB .. | .fault .. => true
  | .none =>
    match t.run with
    | none => true
    | some r => r.rep && !r.words.isEmpty && Nat.blt t.repcnt (repCount (lget 0 r.words (r.idx - 1))))

/-- The tillers of a core that halt in this cycle: those of a sheaf to be pre-empted whose chains are quiescent (R338). -/
def State.haltCore (s : State) (core : Nat) : State :=
  let halts (e : Nat × Tiller) : Bool :=
    e.2.live && coreOf e.1 == core && e.2.halt == .running && !e.2.exited && e.2.atHalt &&
      (s.sheaf e.2.sheaf).st == .pending && s.quiescent e.2.sheaf
  { s with tillers := s.tillers.map fun (e : Nat × Tiller) => if halts e then (e.1, { e.2 with halt := .halted }) else e }

/-! ## Frames (R340, R341) -/

/-- The tiller frame as the device writes it: bytes 0x000 to 0x15F (R340). HND is written 0 (log 27). -/
def Tiller.frameBytes (t : Tiller) (resumev : Word) (wgFrame : Nat) : List Byte :=
  let w (x : Word) : List Byte := bytesOfNat x.toNat 4
  w t.tpc ++ w { t with hnd := false }.tstat ++ w t.tctl ++ bytesOfNat t.repcnt 4 ++
  w t.slotA.pcWord ++ w t.slotB.pcWord ++ w t.slotA.mask ++ w t.slotB.mask ++
  w t.slotA.join ++ w t.slotB.join ++ w t.slotA.outr ++ w t.slotB.outr ++
  w t.spillp ++ w resumev ++ bytesOfNat wgFrame 8 ++
  ((List.range 8).flatMap fun i => w (t.rm (bv 3 i))) ++
  (List.range 64).flatMap fun i => w (if Nat.blt i 60 then t.rs (bv 6 i) else 0)

/-- An entry of the chain list (R341): engine, chain offset and barrier offset in 4 bytes each, forking tiller and scope in 2 bytes each (log 28). -/
def State.chainEntry (s : State) (e : Nat × Chain) : List Byte :=
  bytesOfNat (engineNo e.1) 4 ++ bytesOfNat e.2.off 4 ++ bytesOfNat e.2.bar 4 ++ bytesOfNat (s.tiller e.2.tid).num 2 ++ bytesOfNat e.2.scope 2

/-- A segment of the PWP table in the layout of R162. -/
def Segment.bytes (g : Segment) : List Byte :=
  bytesOfNat g.b.toNat 4 ++ bytesOfNat g.c0.toNat 4 ++ bytesOfNat g.c1.toNat 4 ++ bytesOfNat g.c2.toNat 4 ++ bytesOfNat g.c3.toNat 4

/-- The hidden fields of the 16-byte unit at an offset (R341). -/
def Wg.hidden (w : Wg) (o : Nat) : Nat :=
  w.pScope o + 2 ^ 3 * w.lScope o +
  (match tfind w.marks (o / 16) with
  | some m => 2 ^ 6 + 2 ^ 8 * m.tiller + 2 ^ 12 * m.engine + 2 ^ 16 * (m.chain / 16)
  | none => 0)

/-- The parts of a workgroup frame that the device writes, each with its offset (R341). -/
def State.wgFrameParts (s : State) (i rank : Nat) : List (Nat × List Byte) :=
  let w := s.wg (wgOf i rank)
  let cs := ((s.chainsOf i).filter fun e => e.2.wg % 4 == rank).take 16
  [(0, bytesOfNat w.cfg.toNat 4 ++ bytesOfNat w.hclip 4 ++ bytesOfNat w.segs.length 4 ++ bytesOfNat cs.length 4),
    (0x10, cs.flatMap fun e => s.chainEntry e),
    (0x200, w.segs.flatMap Segment.bytes),
    (0x800, (List.range (w.spad / 16)).flatMap fun k => bytesOfNat (w.hidden (16 * k)) 4),
    (0x30800, readBytes w.bytes 0 w.spad)]

/-- The parts of a frame written to virtual memory from an address on, for a core. -/
def State.writeParts (s : State) (src root va : Nat) : List (Nat × List Byte) → State
  | [] => s
  | (o, bs) :: rest => (s.vwrite src root (va + o) bs (bs.length / 64 + 2)).writeParts src root va rest

/-- The workgroup frames of a sheaf written, rank by rank. -/
def State.writeWgFrames (s : State) (i j : Nat) : List Nat → State
  | [] => s
  | w :: rest =>
    let p := (s.launch (s.sheaf i).launch).pkt
    (s.writeParts (s.wg (wgOf i w)).core (s.effRoot p.region) (p.wgFrame j w) (s.wgFrameParts i w)).writeWgFrames i j rest

/-! ## The save (R339) -/

/-- The watches of a sheaf, each cancelled with its arrival (R224).
DESIGN CHOICE (log 95): their arrivals come slice by slice, and within a slice in the order in which they were armed. -/
def State.cancelWatches (s : State) (i : Nat) : State :=
  let tids := (s.sheaf i).positions
  let hit := s.slices.flatMap fun e => e.2.watches.filter fun w => tids.contains w.tid
  (s.dropWatches tids).watchArrivals hit

/-- The slot that a tiller between clauses issues from next, no counter holding a clause back (R172). -/
def Tiller.nextReady (t : Tiller) : Option Bool :=
  match t.slotA.st == .ready, t.slotB.st == .ready with
  | true, true => some (!t.lastB)
  | true, false => some false
  | false, true => some true
  | false, false => none

/-- Where a halted tiller resumes: the code address, WIDX, and its clause (R327, R332, R338). -/
def State.haltPoint (s : State) (tid : Nat) : Word × Nat × Place :=
  let t := s.tiller tid
  let head (b : Bool) : Word × Nat × Place := ((t.slot b).pc, 0, s.placeAt tid b (t.slot b).pc)
  match t.run with
  | some r => (r.hdr + bv 32 (4 * r.idx), r.idx, ⟨r.hdr, r.n, r.cls, r.slotB⟩)
  | none =>
    match t.step with
    | some (.trap kind _ _ tpc widx hdr n k b) =>
      if kind = 0x0D then (hdr + bv 32 (4 * n), n, ⟨hdr, n, k, b⟩) else (tpc, widx, ⟨hdr, n, k, b⟩)
    | some (.fetch b) => head b
    | some (.settle ..) | none => head (t.nextReady.getD t.lastB)

/-- A halted tiller as it enters its pre-empt vector, its frame at an address (R332, R339). -/
def State.enterSave (s : State) (tid : Nat) (vec : Word) (frame : Nat) : Tiller :=
  let (tpc, widx, pl) := s.haltPoint tid
  { ((s.tiller tid).enter 0x11 0 0 tpc widx pl vec).setK frame with frame := frame, resumev := vec, halt := .saving }

/-- The tillers of a sheaf that have not exited. -/
def State.liveOf (s : State) (i : Nat) : List Nat := (s.sheaf i).positions.filter fun t => !(s.tiller t).exited

/-- Whether every page of the frames that a save writes translates (log 25). -/
def State.saveReady (s : State) (i j : Nat) : Bool :=
  let p := (s.launch (s.sheaf i).launch).pkt
  let root := s.effRoot p.region
  ((List.range p.wg).all fun w => (s.vspan root (p.wgFrame j w) (0x30800 + 4096 * p.spadg) .store 20).isSome) &&
  (s.liveOf i).all fun tid =>
    let t := s.tiller tid
    match s.devLines tid .store (pieces (p.tillerFrame j t.rank t.num) 22) with
    | (.ok _, _) => true
    | (.error _, _) => false

/-- The list of a halted tiller written before its save: none where it stands in memory; else the tiller parked, or its paths ended, by the first entry that does not go through (R175). -/
def State.listFault (s : State) (tid : Nat) : Option State :=
  let t := s.tiller tid
  match s.devLines tid .spillWr (t.entryVas 0 t.count) with
  | (.error (.acc f va), s1) =>
    let s2 := s1.spillFault tid f va .spillWr t.step (s.haltPoint tid).1
    some (match accTrap f va 0 with
      | none => s2.setTiller tid { s2.tiller tid with halt := .listing t.block }
      | some _ => s2)
  | (.error (.data ..), _) | (.ok _, _) => none

/-- The lists of some tillers written before a save: none where every one stands in memory (R175). -/
def State.listFaults (s : State) : List Nat → Option State
  | [] => none
  | tid :: rest =>
    match s.listFault tid with
    | some s1 => some ((s1.listFaults rest).getD s1)
    | none => s.listFaults rest

/-- The tillers of a sheaf enter their pre-empt vectors, the device's part of each frame written; that of a frame in a held block is lost (R106, R339). -/
def State.saveTillers (s : State) (i j : Nat) : List Nat → State
  | [] => s
  | tid :: rest =>
    let p := (s.launch (s.sheaf i).launch).pkt
    let t := s.tiller tid
    let vec : Word := bv 32 (lget 1 p.trapv 2)
    let frame := p.tillerFrame j t.rank t.num
    let x := s.enterSave tid vec frame
    let s1 := match s.devStore tid .store frame 22 (x.frameBytes vec (p.wgFrame j t.rank)) with
      | (.error _, s1) | (.ok s1, _) => s1
    (s1.setTiller tid x).saveTillers i j rest

/-- The chains of a sheaf taken off their engines: the frames hold them. -/
def State.takeChains (s : State) (i : Nat) : State :=
  { s with engines := s.engines.map fun (e : Nat × Engine) => (e.1, (e.2.dropSheaf i).refill) }

/-- The stationary planes of a sheaf's cores are lost (R339). -/
def State.losePlanes (s : State) : List Wg → State
  | [] => s
  | w :: rest =>
    let u := s.array w.core
    (if w.accRows = 0 then s else s.setArray w.core { u with active := ⟨[], []⟩, shadow := ⟨[], []⟩, full := false }).losePlanes rest

/-- Whether a sheaf's save may begin: it is to be pre-empted, every tiller has halted or exited, and no chain has gone on since (R337, R339). -/
def State.mayHaltSave (s : State) (i : Nat) : Bool :=
  let h := s.sheaf i
  h.st == .pending && !(s.cluster h.cluster).held && s.quiescent i && (s.liveOf i).all fun t => (s.tiller t).halt == .halted

/-- PREEMPT_SAVE: the wait for outstanding work, the watches and write-backs, the spill lists, then the frames and the vectors (R175, R339). -/
def execPreemptSave (i : Nat) (s : State) : Result State :=
  let h := s.sheaf i
  .next (match h.frameSet with
  | none => s
  | some j =>
    if !s.mayHaltSave i || !s.sheafQuiet i || (s.liveOf i).isEmpty then s
    else if !h.closing then (s.cancelWatches i).closeSheaf i
    else
      match s.listFaults (s.liveOf i) with
      | some s1 => s1
      | none =>
        if !s.saveReady i j then s
        else
          let s1 := s.saveTillers i j (s.liveOf i)
          let s2 := (s1.writeWgFrames i j (List.range (s1.launch h.launch).pkt.wg)).takeChains i
          let s3 := s2.losePlanes ((s2.wgsOf i).map s2.wg)
          s3.setSheaf i { s3.sheaf i with st := .saving })

/-! ## CTXDONE (R342) -/

/-- Whether the array queue of a core holds an operation that a tiller entered (R342). -/
def State.arrayHolds (s : State) (tid : Nat) : Bool :=
  (s.array (coreOf tid)).queue.any fun o =>
    match o.who with
    | .tiller t _ _ => t == tid
    | .chain .. => false

/-- What is kept of a sheaf's tillers beside their frames: who had exited, the live lanes, and the errors not yet reported (R174, R278, R343). -/
def State.keptOf (s : State) (i : Nat) : Table Tiller :=
  (s.sheaf i).tids.map fun (e : Nat × Nat) =>
    let t := s.tiller e.2
    (e.1, { Tiller.blank with exited := t.exited, lanes := t.lanes, errs := t.errs })

/-- A sheaf whose tillers have all executed CTXDONE, or exited, ceases to be resident (R342, R343). -/
def State.checkSaved (s : State) (i : Nat) : State :=
  let h := s.sheaf i
  if h.st == .saving && !(s.liveOf i).isEmpty && (s.liveOf i).all fun t => (s.tiller t).halt == .ctxdone then
    let s1 := s.setSheaf i { h with kept := s.keptOf i, closing := false }
    (s1.freeSheaf i .saved).pushTurn (.ev .decide)
  else s

/-- CTXDONE: legal in a pre-empt handler alone; the tiller waits for its own operations and then issues nothing (R342). -/
def execSysCtxdone (p : Bool) (s : State) : Result State :=
  let t := s.tl
  .next (if !(t.hnd && t.tcause.extractLsb' 0 8 == 0x11) then s.illegal 0x09
    else if !(t.zeroCtrs 0xFFFF && t.pend.isEmpty && !s.arrayHolds s.cur) then s.modTl fun u => { u with again := true, gapEnd := s.gapFrom s.cur }
    else ((s.modTl fun u => { u with halt := .ctxdone }).finish p).checkSaved t.sheaf)

/-! ## The release of a resumed sheaf (R344) -/

/-- An engine-fault mark as a hidden field gives it, its code and place from its chain's header in the image (R341). -/
def markOf (x : Nat) (m : List Host.Cell) : Option EngMark :=
  if x.testBit 6 then
    let o := 16 * bits x 16 16
    some ⟨bits x 8 4, bits x 12 3, (readByte m (o + 4)).toNat, (readByte m (o + 5)).toNat, readNat m (o + 8) 2, o⟩
  else none

/-- A workgroup as its frame gives it: `lo` is the frame's bytes below the image, and `img` the image (R341, R344).
A count of PWP segments outside 1 to 64, which only software that has changed the frame can leave, is taken as the nearest of these (R161; log 89, DESIGN CHOICE). -/
def Wg.restore (w : Wg) (lo img : List Byte) : Wg :=
  let n (o k : Nat) : Nat := descNat lo o k
  let m := writeBytes [] 0 img
  let hid (k : Nat) : Nat := n (0x800 + 4 * k) 4
  let units := List.range (w.spad / 16)
  let fields (f : Nat → Nat) : Table Nat := (units.filter fun k => f (hid k) != scopeWg).map fun k => (16 * k, f (hid k))
  { w with
    bytes := m, cfg := bv 32 (n 0 4), hclip := n 4 4 % 256
    segs := (List.range (Nat.max 1 (Nat.min 64 (n 8 4)))).map fun j =>
      let w (o : Nat) : Word := bv 32 (n (0x200 + 20 * j + o) 4)
      ⟨w 0, w 4, w 8, w 12, w 16⟩
    pscope := fields fun x => bits x 0 3
    lscope := fields fun x => bits x 3 3
    marks := units.filterMap fun k => (markOf (hid k) m).map fun e => (k, e) }

/-- A chain of the frame's list forked again (R296, R317): a parked or saved one goes on from CIDX and DONE; one that finds its engine's 3 places taken stands behind them. -/
def State.refork (s : State) (i rank core : Nat) (bs : List Byte) : State :=
  let n (o k : Nat) : Nat := descNat bs o k
  let u := engineUnit core (n 0 4)
  let g := s.engine u
  let tid := tget 0 (s.sheaf i).tids (16 * rank + n 12 2)
  let code := (readByte (s.wg (wgOf i rank)).bytes (n 4 4 + 4)).toNat
  let c : Chain := ⟨n 4 4, n 8 4, tid, wgOf i rank, n 14 2, 0, 0, 0, 0, s.fresh, code == 3 || code == 4, s.fresh, none, false⟩
  ({ s with fresh := s.fresh + 1 } : State).setEngine u ({ g with reforks := g.reforks ++ [c] }).refill

/-- The chains of a frame's list forked again in order; `k` is the place of the first of `n`. -/
def State.reforkAll (s : State) (i rank core : Nat) (lo : List Byte) (k : Nat) : Nat → State
  | 0 => s
  | n + 1 => (s.refork i rank core ((lo.drop (16 + 16 * k)).take 16)).reforkAll i rank core lo (k + 1) n

/-- The workgroups of a sheaf as their frames give them, rank by rank; none where a frame does not translate or cannot be read, for which the sheaf waits (log 25). -/
def State.restoreWgs (s : State) (i j : Nat) : List Nat → Option State
  | [] => some s
  | w :: rest =>
    let p := (s.launch (s.sheaf i).launch).pkt
    let root := s.effRoot p.region
    let va := p.wgFrame j w
    let g := s.wg (wgOf i w)
    match s.vread root va (0x800 + g.spad / 4) (g.spad / 256 + 34), s.vread root (va + 0x30800) g.spad (g.spad / 64 + 2) with
    | some lo, some img =>
      let s1 := (s.setWg (wgOf i w) (g.restore lo img)).reforkAll i w g.core lo 0 (Nat.min 16 (descNat lo 12 4))
      ((s1.vtouch g.core root va (0x800 + g.spad / 4) (g.spad / 256 + 34)).vtouch g.core root (va + 0x30800) g.spad (g.spad / 64 + 2)).restoreWgs i j rest
    | none, _ | some _, none => none

/-- A tiller let go on from its resume RTE. -/
def Tiller.letGo (t : Tiller) : Tiller := if t.exited then t else { t with halt := .running }

/-- Whether every tiller of a resuming sheaf that had not exited has executed its RTE (R344). -/
def State.mayRelease (s : State) (i : Nat) : Bool :=
  (s.sheaf i).st == .resuming && !(s.liveOf i).isEmpty && (s.liveOf i).all fun t => (s.tiller t).halt == .waiting

/-- RESUME_RELEASE: the workgroups restored, the chains forked again, and the tillers let go (R344, R356). -/
def execResumeRelease (i : Nat) (s : State) : Result State :=
  let h := s.sheaf i
  .next (match h.frameSet with
  | none => s
  | some j =>
    if !s.mayRelease i then s
    else
      match s.restoreWgs i j (List.range (s.launch h.launch).pkt.wg) with
      | none => s
      | some s1 =>
        let tids := h.positions
        let s2 : State := { s1 with tillers := s1.tillers.map fun (e : Nat × Tiller) => if tids.contains e.1 then (e.1, e.2.letGo) else e }
        let s3 := s2.setSheaf i { s2.sheaf i with st := .resident, kept := [] }
        (s3.freeFrames i).pushTurn (.ev .decide))

end Sys2Proof.Machine
end

