-- ==== Sys2Proof/Machine/Package.lean ====
section
/-! DEFINITION. The package's own events: retention (R373, R374), control registers (R191, R368, R369), boost windows (R377), boot and attestation (R371), the host and peer links (R365 to R367), the lehr (R375, R376), and MSI-X masking (R370). -/

namespace Sys2Proof.Machine

/-! ## Retention (R373, R374) -/

/-- Whether an outstanding operation is one of the core's own units, which take class-3 cycles, and no access (R87, R128, R147, R184). -/
def FlightKind.computes : FlightKind → Bool
  | .result .cord | .result .divf | .result .divi => true
  | .result .spad | .result .atoms | .result .lrefill | .load .. | .remote .. | .ldp .. | .atomic .. | .vrst .. | .vtag _ | .store | .spadStore ..
  | .fence .. | .pref | .watch | .sys .. | .hold _ => false

/-- Whether an operation is in progress on a core (R184). -/
def State.opsOn (s : State) (core : Nat) : Bool :=
  ((s.array core).queue.any fun o => o.started) || !(s.core core).jobs.isEmpty ||
  s.flights.any fun e => e.2.core == core && e.2.kind.computes

/-- Whether an engine's chain stands at a waitb whose phase has not passed: the command has been read and waits (R303, R312). -/
def Engine.atWaitb (g : Engine) : Bool :=
  match g.chain, g.read with
  | some c, some (i, w :: _) => i == c.cidx && w.extractLsb' 0 8 == 0x13
  | some _, some (_, []) | some _, none | none, _ => false

/-- The command at a chain's index, where it lies within the allocation (R301, R303). -/
def State.fetchCmd (s : State) (c : Chain) : Option CmdWords :=
  let w := s.wg c.wg
  let o := c.off + 16 + 16 * c.cidx
  if w.spad < o + 16 then none
  else some ⟨readWord w.bytes o, readWord w.bytes (o + 4), readWord w.bytes (o + 8), readWord w.bytes (o + 12)⟩

/-- The command that a chain is at: as it was read, where it has begun and waits, else as it stands (R303). -/
def State.curCmd (s : State) (g : Engine) (c : Chain) : Option CmdWords :=
  match g.read with
  | some (i, [a, x, y, z]) => if i = c.cidx then some ⟨a, x, y, z⟩ else s.fetchCmd c
  | some _ | none => s.fetchCmd c

/-- Whether the array of a core goes on: an operation of its queue steps, swaps or may start (R234, R245). -/
def State.arrayGoes (s : State) (core : Nat) : Bool :=
  let u := s.array core
  u.queue.zipIdx.any fun e => if e.1.started then !e.1.swap || u.swapReady e.1 else s.arrayMayStart core e.2

/-- Whether a unit's chain waits for the array: for room in its full queue, or, at a fence point or with ORD, for operations that it has dispatched (R233, R303). -/
def State.atArray (s : State) (u : Nat) (g : Engine) (c : Chain) : Bool :=
  (g.ready.isSome && Nat.ble 16 (s.array (u / 8)).queue.length) ||
  (s.dispatched u c &&
    (match s.curCmd g c with
    | some w => w.cmd.flags.getLsbD 7 || cmdFences w.op
    | none => false))

/-- Whether the chain of a unit's engine advances: it runs, is not parked, may go on, and waits neither for a barrier nor for an array that stands still (R20, R199, R373). -/
def State.advances (s : State) (u : Nat) (g : Engine) : Bool :=
  !g.atWaitb &&
  (match g.chain with
  | some c => c.park.isNone && s.chainsGo c && !(s.atArray u g c && !s.arrayGoes (u / 8))
  | none => false)

/-- Whether a chain advances on a cluster's engines. -/
def State.chainsAdvance (s : State) (cl : Nat) : Bool := s.engines.any fun e => clusterOf (e.1 / 8) == cl && s.advances e.1 e.2

/-- Whether a cluster is idle: no tiller eligible or issuing, no access outstanding, no chain advancing, and nothing in progress (R373). -/
def State.clusterIdle (s : State) (cl : Nat) : Bool :=
  !(s.tillers.any fun e => e.2.live && clusterOf (coreOf e.1) == cl && e.2.ran) &&
  !(s.flights.any fun e => clusterOf e.2.core == cl) && !s.chainsAdvance cl &&
  (List.range 4).all fun j => !s.opsOn (4 * cl + j)

/-- Whether a cluster has been idle for RETIDLE (R373). -/
def State.mayRetain (s : State) (cl : Nat) : Bool :=
  let c := s.cluster cl
  !c.ret && c.retIdle != 0 && s.clusterIdle cl && Nat.ble (c.idleSince + 1000 * c.retIdle) s.time

/-- RETENTION_ENTRY (R373). -/
def execRetentionEntry (cl : Nat) (s : State) : Result State :=
  .next (if s.mayRetain cl then s.setCluster cl { s.cluster cl with ret := true } else s)

/-- The cores of a cluster start their next cycle 2 µs from now (R373). -/
def State.wakeCores (s : State) (cl : Nat) : List Nat → State
  | [] => s
  | j :: rest =>
    let c := s.core (4 * cl + j)
    (s.setCore (4 * cl + j) { c with clock := Nat.max c.clock s.now + 2000 * ticksPerNs }).wakeCores cl rest

/-- A tiller that goes on where it had halted. -/
def Tiller.unhalt (t : Tiller) : Tiller :=
  match t.halt with
  | .halted => { t with halt := .running }
  | .listing was => { t with halt := .running, block := was }
  | .running | .saving | .ctxdone | .resuming | .waiting => t

/-- A tiller that an invalidation has already freed to walk again. -/
def Tiller.mayWalk (t : Tiller) : Bool :=
  match t.block with
  | .fault _ _ _ free => free
  | .none | .waitA .. | .waitB .. => false

/-- A pending pre-emption of a sheaf abandoned; what was freed while its tillers stood halted is taken up (R327, R374). -/
def State.abandonPreempt (s : State) (i : Nat) : State :=
  let h := s.sheaf i
  if h.st = .pending then
    let s1 := (s.freeFrames i)
    let s2 := s1.setSheaf i { s1.sheaf i with st := .resident, closing := false }
    let s3 : State := { s2 with tillers := s2.tillers.map fun (e : Nat × Tiller) => if e.2.live && e.2.sheaf == i then (e.1, e.2.unhalt) else e }
    s3.pushTurns ((h.positions.filter fun t => (s3.tiller t).mayWalk).map fun t => .ev (.translationReplay t))
  else s

/-- What a loss of state in retention does: HELD, RETLOSS, a record for each resident sheaf's fault domain, and no pre-emption (R374). -/
def State.holdCluster (s : State) (cl : Nat) : State :=
  let c := s.cluster cl
  let s1 := s.setCluster cl { c with held := true, retLoss := (c.retLoss + 1) % 256, reserved := none }
  let s2 := (s1.residents cl).foldl (fun st e =>
    let r := (st.launch e.2.launch).pkt.region
    (st.abandonPreempt e.1).post r ⟨0x0007, 0, 0xFF, 4 * cl, 0, 0, (st.rcb r).id, e.2.index, cl, st.time⟩) s1
  s2.pushTurn (.ev .decide)

/-- RETENTION_EXIT: 2 µs, then the parity check, whose outcome is given (R373, R374). -/
def execRetentionExit (cl : Nat) (lost : Bool) (s : State) : Result State :=
  let c := s.cluster cl
  .next (if !c.ret then s
    else
      let s1 := (s.setCluster cl { c with ret := false, idleSince := s.time + 2000 }).wakeCores cl [0, 1, 2, 3]
      if lost then s1.holdCluster cl else s1)

/-! ## Control registers (R368, R369) -/

/-- CLHOLD_WRITE (R369, R373, R374). -/
def execClholdWrite (cl : Nat) (v : Word) (s : State) : Result State :=
  .next (if s.ctlOpen 0x30008 then s.writeClhold cl v.toNat else s)

/-- CLKCTL_WRITE (R191, R192). -/
def execClkctlWrite (cl : Nat) (v : Word) (s : State) : Result State :=
  .next (if s.ctlOpen 0x30000 then s.writeClkctl cl v.toNat else s)

/-- BOOSTCTL_WRITE (R369, R377). -/
def execBoostctlWrite (v : Word) (s : State) : Result State :=
  .next (if s.ctlOpen 0x1018 then s.writeBoostctl v.toNat else s)

/-- Whether a requested boost window may open: none has been open for 8 s of TIME (R198, R377). -/
def State.mayBoost (s : State) : Bool :=
  s.pkg.boostReq && !s.pkg.boostOpen && (s.pkg.boostAt == 0 || Nat.ble (s.pkg.boostAt + 8000000000) s.time)

/-- BOOST_WINDOW_OPEN (R377). -/
def execBoostWindowOpen (s : State) : Result State :=
  .next (if s.mayBoost then { s with pkg := { s.pkg with boostOpen := true, boostAt := s.time } } else s)

/-- Whether a boost window has lasted its 2 s (R198, R377). -/
def State.boostOver (s : State) : Bool := s.pkg.boostOpen && Nat.ble (s.pkg.boostAt + 2000000000) s.time

/-- BOOST_WINDOW_CLOSE: REQ clears with the window (R377). -/
def execBoostWindowClose (s : State) : Result State :=
  .next (if s.boostOver then { s with pkg := { s.pkg with boostOpen := false, boostReq := false, boostAt := s.time } } else s)

/-- CONTROL_REGISTER_WRITE: a write of the host, aligned and of 4 or 8 bytes (R368, R369). -/
def execControlRegisterWrite (off size : Nat) (v : DWord) (s : State) : Result State :=
  .next (if (size = 4 ∨ size = 8) ∧ off % size = 0 ∧ s.ctlOpen off then s.ctlWrite true off size v.toNat else s)

/-! ## Boot and attestation (R362, R371) -/

/-- `n` bytes of a list, zeros beyond its end. -/
def padTo (n : Nat) (l : List Byte) : List Byte := (List.range n).map fun i => lget 0 l i

/-- The signed part of an attestation report: bytes 0 to 191 (R371). -/
def Pkg.reportBody (k : Pkg) (nonce : List Byte) : List Byte :=
  let dev := padTo 112 Config.deviceBytes
  padTo 32 nonce ++ dev.take 16 ++ bytesOfNat (k.svn % 2 ^ 16) 8 ++ dev.drop 16 ++ List.replicate 40 0

/-- ATTESTATION_REQUEST: the report for a nonce (R371). -/
def execAttestationRequest (nonce : List Byte) (s : State) : Result State :=
  let k := s.pkg
  let body := k.reportBody nonce
  .next { s with pkg := { k with nonce := padTo 32 nonce, attBusy := false, report := body ++ padTo 3373 (Config.signature body) } }

/-- The steward placed by the firmware in the root region, before every other placement (R362); nothing where its packet names another region, is not one sheaf, is rejected or does not fit. -/
def State.placeSteward (s : State) (pkt : Nat) : State :=
  let d := readBytes s.mem pkt 128
  let p := packetOf d
  let (st, s1) := s.admitPacket p.region d none
  let s2 : State := { s1 with turns := s.turns }
  match (List.range 64).findSome? fun cl => (s2.fits s.launches.length cl []).map fun cores => (cl, cores) with
  | some (cl, cores) =>
    if st = 1 ∧ p.total = 1 ∧ (s2.rcb p.region).parent = 0 then s2.placeNew s2.sheaves.length s.launches.length 0 cl cores true else s
  | none => s

/-- The ERR of an image's checks, 0 where it passes: its signatures, its SVN, its format; the lowest of several (R371, log 90). -/
def bootErr (i : BootImage) (fused : Nat) : Nat :=
  if !i.ed25519 || !i.mldsa then b2n (!i.ed25519) + 2 * b2n (!i.mldsa)
  else if i.svn.toNat < fused then 4
  else if i.format then 0 else 5

/-- PACKAGE_RESET: the ROM checks the firmware image and the firmware that of the steward, which it then places; a failure leaves STAGE where it stands and releases no cluster (R371). `fused` is the minimum SVN that the fuses hold. Memory keeps what it holds (log 31). -/
def execPackageReset (firmware steward : BootImage) (fused pkt : Nat) (s : State) : Result State :=
  let boot (err svn stage : Nat) : State := { State.reset with
    mem := s.mem, badLines := s.badLines, pkg := { Pkg.reset with err := err, svn := svn, stage := stage } }
  let svn := firmware.svn.toNat
  .next (if bootErr firmware fused ≠ 0 then boot (bootErr firmware fused) 0 0
    else if bootErr steward fused ≠ 0 then boot (bootErr steward fused) svn 1
    else
      let s1 := boot 0 svn 1
      let s2 := s1.placeSteward pkt
      if s2.sheaves.isEmpty then s1 else { s2 with pkg := { s2.pkg with stage := 2 } })

/-! ## The links (R364 to R367) -/

/-- The lines that a range of addresses touches. -/
def linesIn (addr len : Nat) : List Nat :=
  if len = 0 then [] else (List.range ((addr + len + 63) / 64 - addr / 64)).map fun k => addr / 64 + k

/-- The bytes of a write that fall into a line, by offset. -/
def bytesIn (addr line : Nat) (bs : List Byte) : List (Nat × Byte) :=
  (bs.zipIdx.filter fun e => (addr + e.2) / 64 == line).map fun e => ((addr + e.2) % 64, e.1)

/-- A request from outside on its way to the home of a line; `who` is 0 for the host and 1 + j for peer j (R254, R365, R367). -/
def State.outerReq (s : State) (who addr : Nat) (wr : Option (List Byte)) (line : Nat) : State :=
  let op : ReqOp := match wr with
    | none => .read false false false
    | some bs => .write (bytesIn addr line bs) false
  { s with transit := s.transit ++ [⟨s.fresh, 256, who, none, ⟨64 * line, 0, 0⟩, 64 * line, op, 0, 0⟩], fresh := s.fresh + 1 }

/-- An access from outside: a request for each of its lines. -/
def State.outerAccess (s : State) (who addr len : Nat) (wr : Option (List Byte)) : State :=
  if Nat.ble (addr + len) 0x21000000000 then (linesIn addr len).foldl (fun st l => st.outerReq who addr wr l) s else s

/-- HOST_CXL_MEM_ACCESS: the host's offset is the device's physical address (R364, R365). -/
def execHostCxlMemAccess (addr len : Nat) (wr : Option (List Byte)) (s : State) : Result State :=
  .next (if s.pkg.hostUp then s.outerAccess 0 addr len wr else s)

/-- PEER_ACCESS over link j (R254, R367). -/
def execPeerAccess (j addr len : Nat) (wr : Option (List Byte)) (s : State) : Result State :=
  .next (if tget false s.pkg.peerUp j then s.outerAccess (1 + j) addr len wr else s)

/-- A request that only calls a line back from the host, for an access that waits for it (R366). -/
def ReqOp.isProbe : ReqOp → Bool
  | .write bs _ => bs.isEmpty
  | .read .. | .param _ | .atomic .. | .watch _ | .prefGr => false

/-- A request that waits for a link that has gone down: it ends in an uncorrectable error (R222, R365, log 32). A write that waits for the host's answer performs. -/
def State.dropLink (s : State) (l : LinkReq) : State :=
  let s1 : State := { s with links := s.links.filter fun x => x != l }
  if l.snoop then (if l.req.op.isProbe then s1 else s1.performReq l.req)
  else s1.loseReq l.req

/-- The requests that wait at a link. -/
def State.waitingAt (s : State) (l : Nat) : List LinkReq :=
  s.links.filter fun x => if x.snoop then l == 0 else
    match physKind x.req.pa with
    | .host => l == 0
    | .peer j => l == j + 1
    | .hbm _ | .granary | .control | .hole => false

/-- LINK_STATE_CHANGE: link 0 is the host's, link 1 + j that of peer j (R365, R367). -/
def execLinkStateChange (l : Nat) (up : Bool) (s : State) : Result State :=
  let k := s.pkg
  let s1 : State := if l = 0 then { s with pkg := { k with hostUp := up } }
    else if l ≤ 12 then { s with pkg := { k with peerUp := tput k.peerUp (l - 1) up } }
    else s
  .next (if up then s1 else (s1.waitingAt l).foldl State.dropLink s1)

/-- Whether an earlier request must be answered first: one of the same core to the same peer window (R367), or one to the same line of host memory (R366). -/
def behind (r : Req) (ls : List LinkReq) : Bool :=
  let before := (ls.takeWhile fun x => x.req.id != r.id).filter fun x => !x.snoop
  match physKind r.pa with
  | .peer _ => before.any fun x => x.req.src == r.src && physKind x.req.pa == physKind r.pa
  | .host => before.any fun x => x.req.pa / 64 == r.pa / 64
  | .hbm _ | .granary | .control | .hole => false

/-- The bytes of a line as an answer gives them, put where the model keeps them. -/
def State.answerLine (s : State) (line : Nat) (data : List Byte) : State :=
  if data.length = 64 then { s with mem := writeCells s.mem (cellsAt line data) } else s

/-- What an answer of the host to a back-invalidation brings: the bytes that the host had changed, and the access that waited for it (R366). -/
def State.snoopAnswer (s : State) (r : Req) (data : List Byte) : State :=
  let line := r.key.base / 64 * 64
  let s1 := if data.length = 64 then ((s.homeAccess (s.home line) line 0 256 (.write true) false false).2).homePut (cellsAt line data) else s
  let q : Req := { r with key := ⟨r.pa / 64 * 64, 0, 0⟩ }
  if r.op.isProbe then s1
  else if r.src = 256 ∧ !r.op.writes then s1.hostTakes q
  else s1.performReq q

/-- Flits of a peer link that its link layer had to send again, counted in PEERSTAT (R364, R369). -/
def State.countReplays (s : State) (pa n : Nat) : State :=
  match physKind pa with
  | .peer j => { s with pkg := { s.pkg with peerReplay := tput s.pkg.peerReplay j ((tget 0 s.pkg.peerReplay j + n) % 2 ^ 32) } }
  | .hbm _ | .granary | .control | .host | .hole => s

/-- LINK_RESPONSE: the answer to a request (R365 to R367, R369). -/
def execLinkResponse (id : Nat) (ans : LinkAnswer) (s : State) : Result State :=
  .next (match s.links.find? fun l => l.req.id == id with
  | none => s
  | some l =>
    if !l.snoop && behind l.req s.links then s
    else
      let s1 : State := { s with links := s.links.filter fun x => x != l }
      if l.snoop then s1.snoopAnswer l.req ans.data
      else ((s1.answerLine (l.req.pa / 64 * 64) ans.data).countReplays l.req.pa ans.replays).performReq l.req)

/-- HOST_CACHE_SNOOP: every L1 writes back its dirty bytes of a HOST line, and where the host writes drops its copy (R271). -/
def execHostCacheSnoop (line : Nat) (wr : Bool) (s : State) : Result State := .next (s.hostFlush (line / 64 * 64) wr)

/-! ## The lehr (R375, R376) -/

/-- SCRUB: a correctable error is rewritten and counted; an uncorrectable one, be it found now or already standing, is reported, and its consumer meets it later (R375). -/
def execScrub (line : Nat) (unc : Bool) (s : State) : Result State :=
  .next (if unc || s.bad (64 * line) then ({ s with badLines := addNew s.badLines line } : State).postRoot 0x0003 4 (64 * line)
    else
      match physKind (64 * line) with
      | .hbm _ => s.bankError (bankOf (64 * line))
      | .granary => s.countFix (s.home (64 * line) / 512) false
      | .control | .peer _ | .host | .hole => s)

/-- The corrected granary and HBM errors of a die as its block gives them, wrapping (R376). -/
def Pkg.fixes (k : Pkg) (die : Nat) : Nat × Nat :=
  let n := tget (0, 0) k.corrected die
  (n.1 % 2 ^ 64, n.2 % 2 ^ 64)

/-- TELEMETRY_WRITE: the block of a die, its sequence number last (R376). A block whose counts of corrected errors are not the die's is none that the lehr writes. -/
def execTelemetryWrite (die : Nat) (temp : BitVec 16) (pw0 pw1 : Word) (granErr hbmErr : Nat) (s : State) : Result State :=
  let o := 2048 * (die % 32)
  let k := s.pkg
  let seq := readNat k.telem o 8
  let block := bytesOfNat temp.toNat 2 ++ bytesOfNat 0 2 ++ bytesOfNat pw0.toNat 4 ++ bytesOfNat pw1.toNat 4 ++ bytesOfNat 0 4 ++
    bytesOfNat granErr 8 ++ bytesOfNat hbmErr 8
  .next (if k.fixes die ≠ (granErr, hbmErr) then s
    else { s with pkg := { k with telem := writeNat (writeBytes k.telem (o + 8) block) o 8 ((seq + 1) % 2 ^ 64) } })

/-- The cap that a table or a temperature allows: a point of the FLL, never above 2,100 MHz (R192). -/
def capFrom (mhz : Nat) : Nat := Nat.max 600 (25 * (Nat.min mhz 2100 / 25))

/-- A cluster's cap changed, with the target it gives (R192, R193). -/
def State.setCap (s : State) (cl mhz : Nat) : State := (s.setCluster cl { s.cluster cl with cap := capFrom mhz }).retarget cl

/-- The nanoseconds of 24 hours of TIME (R375, R376). -/
def dayNs : Nat := 86400000000000

/-- Whether a cluster's table is to be planned: at boot, and once in every 24 h of TIME (R376). -/
def State.mayPlan (s : State) (cl : Nat) : Bool := Nat.ble (s.cluster cl).plans (s.time / dayNs)

/-- VF_TABLE_REPLAN: the new table, at boot and every 24 h, is taken at a step boundary (R376). -/
def execVfTableReplan (cl mhz : Nat) (s : State) : Result State :=
  let c := { s.cluster cl with plans := s.time / dayNs + 1 }
  .next (if !s.mayPlan cl then s
    else if c.step then s.setCluster cl { c with capNext := some (capFrom mhz) } else (s.setCluster cl c).setCap cl mhz)

/-- TEMPERATURE_CHANGE: the cap that the present table allows at another temperature (R192). -/
def execTemperatureChange (cl mhz : Nat) (s : State) : Result State := .next (s.setCap cl mhz)

/-! ## MSI-X (R370) -/

/-- MSI_X_VECTOR_MASK_CHANGE: a message that is pending is sent when its vector is unmasked (R370). -/
def execMsixMaskChange (vec : Nat) (masked : Bool) (s : State) : Result State :=
  let k := s.pkg
  .next { s with pkg :=
    if masked then { k with masked := addNew k.masked vec }
    else if k.msgPending.contains vec then
      { k with masked := k.masked.filter (fun v => v != vec), msgPending := k.msgPending.filter (fun v => v != vec), sent := tput k.sent vec (tget 0 k.sent vec + 1) }
    else { k with masked := k.masked.filter fun v => v != vec } }

end Sys2Proof.Machine
end

