-- ==== Sys2Proof/Machine/Cycle.lean ====
section
/-! DEFINITION. The cycles of a core (R183 to R190): which clauses are eligible, the picks, the class and length of a cycle, and the events that fall due at its end; with the events of the allowance (R194 to R197), the FLL (R193) and the watchdogs (R199). -/

namespace Sys2Proof.Machine

/-! ## What a tiller would issue next (R172, R185, R188) -/

/-- A clause a tiller offers: its slot and header, its class, and whether it has begun. -/
structure Offer where
  tid : Nat
  slotB : Bool
  pc : Word
  cls : Nat
  begun : Bool
  deriving DecidableEq, Repr

/-- Whether the WMASK of the clause at an address is satisfied; a header that cannot be fetched holds nothing back, and its fault is met at the pick. -/
def State.wmaskOk (s : State) (tid : Nat) (pc : Word) : Bool :=
  match (s.codeWord tid pc).1 with
  | .ok h => (s.tiller tid).zeroCtrs (hdrW h)
  | .error _ => true

/-- The slot and header a tiller between clauses issues next, if it has a candidate (R172). -/
def State.nextPath (s : State) (tid : Nat) : Option (Bool × Word) :=
  let t := s.tiller tid
  if t.hnd then (if s.wmaskOk tid t.hpc then some (t.lastB, t.hpc) else none)
  else
    let ok (x : Slot) : Bool := x.st == .ready && s.wmaskOk tid x.pc
    match ok t.slotA, ok t.slotB with
    | true, true => some (!t.lastB, (t.slot (!t.lastB)).pc)
    | true, false => some (false, t.slotA.pc)
    | false, true => some (true, t.slotB.pc)
    | false, false => none

/-- Whether the word at a place of a clause waits: for a register, a counter or a queue (R126, R185, R211, R233, R298). -/
def State.runWaits (s : State) (tid : Nat) (r : Run) : Bool :=
  let t := s.tiller tid
  match t.nextInstr r with
  | .error _ => false
  | .ok i => (t.deferred r i).isNone && (t.waitsFor i || ({ s with cur := tid } : State).noRoom i)

/-- A clause at its first instruction. -/
def Tiller.freshRun (t : Tiller) (b : Bool) (pc : Word) (ws : List Word) : Run :=
  let h := lget 0 ws 0
  ⟨pc, hdrN h, ws, 1, b, hdrK h, t.hnd, false⟩

/-- A clause under way with its words, fetched again where RTE resumed it (R336). -/
def State.runWords (s : State) (tid : Nat) (r : Run) : Option Run :=
  if r.words.isEmpty then
    match (s.fetchClause tid r.hdr).1 with
    | .ok ws => some { r with words := ws }
    | .error _ => none
  else some r

/-- Whether the words of code that a clause needs wait: for what the core has sent to the same peer, for a change of contract, or for the host (R259, R366, R367). -/
def State.fetchWaits (s : State) (tid : Nat) (pc : Word) : Bool :=
  match s.fetchClause tid pc with
  | (.error _, s1) => s1.waits
  | (.ok ws, s1) => s1.waits || (s.codeLines tid pc ws.length).any fun r => s.called r.key.base || s.heldRange r.key.base

/-- What a tiller offers in a cycle, withholding and deferral apart (R185, R188). A word that has issued and waited takes no cycle of its own (log 83). -/
def State.offer (s : State) (cycles tid : Nat) : Option Offer :=
  let t := s.tiller tid
  if s.stuck tid || t.again || (s.cluster (clusterOf (coreOf tid))).held then none
  else
    match t.run with
    | some r =>
      if r.words.isEmpty && s.fetchWaits tid r.hdr then none
      else
      (match s.runWords tid r with
      | some r1 => if s.runWaits tid r1 then none else some ⟨tid, r.slotB, r.hdr, r.cls, true⟩
      | none => some ⟨tid, r.slotB, r.hdr, r.cls, true⟩)
    | none =>
      if cycles < t.gapEnd then none
      else
        match s.nextPath tid with
        | none => none
        | some (b, pc) =>
          if s.fetchWaits tid pc then none
          else
          match (s.fetchClause tid pc).1 with
          | .error _ => some ⟨tid, b, pc, 0, false⟩
          | .ok ws =>
            if s.runWaits tid (t.freshRun b pc ws) then none
            else some ⟨tid, b, pc, hdrK (lget 0 ws 0), false⟩

/-! ## Withholding (R196, R197) -/

/-- Whether a tiller would be eligible now but for withholding and deferral (R188, R197). -/
def State.offers (s : State) (tid : Nat) : Bool := (s.offer (s.core (coreOf tid)).cycles tid).isSome

/-- Whether the clause of a tiller continues in its slot, which makes no pick for it (R185). -/
def State.onSlot (s : State) (tid : Nat) : Bool := (s.core (coreOf tid)).cont.any fun e => e.2 == tid

/-- The overdue tiller of a cluster that has been withheld longest, of those that are eligible but for withholding (R197). -/
def State.overdueLead (s : State) (cl : Nat) : Option Nat :=
  ((s.tillers.filter fun e => e.2.live && e.2.overdue && clusterOf (coreOf e.1) == cl && !s.onSlot e.1 && s.offers e.1).foldl (fun (b : Option (Nat × Nat)) e =>
    let w := e.2.withheld.getD s.time
    match b with
    | some (_, v) => if w < v then some (e.1, w) else b
    | none => some (e.1, w)) none).map (·.1)

/-- Whether a tiller is withheld at a pick (R196, R197): by the withhold level, from which an overdue one is exempt while C ≥ 0; or, from starting a clause, for another that has been overdue longest. -/
def State.isWithheld (s : State) (o : Offer) : Bool :=
  let cl := clusterOf (coreOf o.tid)
  let c := s.cluster cl
  let low : Bool := Nat.blt (s.effPrio (s.regionOf o.tid)) c.wlvl
  if c.allow < 0 then low
  else (low && !(s.tiller o.tid).overdue) || (!o.begun && (s.overdueLead cl).any fun l => l != o.tid)

/-! ## Eligibility (R188, R189) -/

/-- A tiller as a cycle finds it: eligible or not, its wait, and its deferral. A deferred one is no less eligible for its watchdogs (R16, R199); an overdue one keeps the time from which it has been withheld, also while it is blocked (R197). -/
def Tiller.look (t : Tiller) (o : Option Offer) (wh : Bool) (cycles time floor w : Nat) : Tiller :=
  match o with
  | none => { t with ran := false, elig := false, wait := 0, late := false, defer := none, released := false, withheld := if t.overdue then t.withheld else none }
  | some x =>
    if wh then { t with ran := false, elig := false, wait := 0, late := false, defer := none, released := false, withheld := some (t.withheld.getD time) }
    else
      let t1 := { t with withheld := if t.overdue then some (t.withheld.getD time) else none }
      let cand := x.cls == 3 && !x.begun
      let since := t.defer.getD cycles
      let freed := cand && t.released
      if cand && Nat.blt floor 3 && !freed && Nat.blt cycles (since + w) then
        { t1 with ran := true, elig := false, wait := 0, late := false, defer := some since, released := false }
      else
        { t1 with
          ran := true, elig := true, wait := if t.elig then t.wait + 1 else 0, late := t.elig && t.late
          defer := if cand then some since else none, released := freed }

/-- The tillers of a core that do not continue a clause, looked at in turn: the state, and what the eligible ones offer. -/
def State.lookAll (s : State) (core cycles floor : Nat) : List Nat → State × List Offer
  | [] => (s, [])
  | tid :: rest =>
    let o := s.offer cycles tid
    let wh := match o with
      | some x => s.isWithheld x
      | none => false
    let t := (s.tiller tid).look o wh cycles s.time floor (s.cluster (clusterOf core)).batchw
    let (s1, os) := (s.setTiller tid t).lookAll core cycles floor rest
    (s1, (if t.elig then o.toList else []) ++ os)

/-! ## The pick (R189) -/

/-- The distance of a position after a slot's round-robin pointer. -/
def afterRr (rr tid : Nat) : Nat := (tid % 16 + 31 - rr) % 16

/-- Oldest of R189. -/
def State.oldest (s : State) (rr : Nat) : List Offer → Option Offer
  | [] => none
  | o :: rest => some (rest.foldl (fun b x =>
      let wb := (s.tiller b.tid).wait
      let wx := (s.tiller x.tid).wait
      if wb < wx ∨ (wb = wx ∧ afterRr rr x.tid < afterRr rr b.tid) then x else b) o)

/-- A list narrowed where something is left. -/
def narrow (p : Offer → Bool) (l : List Offer) : List Offer := if (l.filter p).isEmpty then l else l.filter p

/-- Pick of R189 for a slot. -/
def State.pick (s : State) (rr floor : Nat) (c : List Offer) : Option Offer :=
  let late := c.filter fun o => (s.tiller o.tid).late
  if !late.isEmpty then s.oldest rr late
  else s.oldest rr (narrow (fun o => !(s.tiller o.tid).demoted) (narrow (fun o => Nat.ble o.cls floor) c))

/-- The round-robin pointer of a slot; 15 at reset (R189). -/
def Core.rrOf (c : Core) (slot : Nat) : Nat := tget 15 c.rr slot

/-- What a pick leaves: the pointer, no tiller of the slot demoted, and the picked one's wait and withholding over (R189, R197).
DESIGN CHOICE (log 91): a slot that finds no eligible clause has made no pick, and a demotion waits for one that chooses a clause. -/
def State.picked (s : State) (core slot : Nat) (o : Offer) : State :=
  let c := s.core core
  let s1 := s.setCore core { c with rr := tput c.rr slot (o.tid % 16) }
  let s2 : State := { s1 with tillers := s1.tillers.map fun (e : Nat × Tiller) =>
      if e.1 / 16 == o.tid / 16 then (e.1, { e.2 with demoted := false }) else e }
  let t := s2.tiller o.tid
  s2.setTiller o.tid { t with
    elig := false, wait := 0, late := false, defer := none, released := false
    overdue := t.overdue && o.begun, withheld := if o.begun then t.withheld else none }

/-! ## Opening a clause (R26, R30) -/

/-- A fetch that does not go through: parked, or a fault at the header, or at the word where RTE resumed the clause (R30, R324, R327). -/
def State.fetchFault (s : State) (tid : Nat) (r : Run) (begun : Bool) (f : DevFault) : State :=
  let t := s.tiller tid
  let pc := if begun then r.hdr + bv 32 (4 * r.idx) else r.hdr
  let widx := if begun then r.idx else 0
  let s1 := s.setTiller tid { t with run := some r }
  match f with
  | .data va held => s1.dataTrap tid va held pc widx
  | .acc x va =>
    match accTrap x va 0 with
    | some (k, i0, i1) => s1.trap tid k i0 i1 pc widx
    | none =>
      (s.setTiller tid (if begun then { t with run := some r } else { t with run := none, step := some (.fetch r.slotB) })).parkFault tid va .fetch
        (replayOf x == some true)

/-- A picked clause opened: its words fetched, at the homes of their lines, and checked; the state, and whether its first word issues. A clause that fails its checks issues nothing, whatever its first word would meet (R26). -/
def State.openClause (s : State) (o : Offer) : State × Bool :=
  let tid := o.tid
  let t := s.tiller tid
  match t.run with
  | some r =>
    if r.words.isEmpty then
      match s.fetchClause tid r.hdr with
      | (.error f, s1) => (s1.fetchFault tid r true f, false)
      | (.ok ws, s1) => ((s1.codeTouch tid r.hdr ws.length).setTiller tid { s1.tiller tid with run := some { r with words := ws } }, true)
    else (s, true)
  | none =>
    match s.fetchClause tid o.pc with
    | (.error f, s1) =>
      let (n, k) := s.headNK tid o.pc
      (s1.fetchFault tid ⟨o.pc, n, [], 0, o.slotB, k, t.hnd, false⟩ false f, false)
    | (.ok ws, s1) =>
      let r := t.freshRun o.slotB o.pc ws
      let s2 := (s1.codeTouch tid o.pc ws.length).setTiller tid { s1.tiller tid with run := some r }
      let reason := clauseCheck t.hnd ws
      if reason = 0 then (s2, true)
      else (s2.trap tid 0x02 (illegalInfo 0 reason 0) (lget 0 ws 0) o.pc 0, false)

/-! ## A cycle begins (R183) -/

/-- The class of the operations in progress on a core (R184). -/
def State.opFloor (s : State) (core : Nat) : Nat :=
  let c := s.core core
  let slow : Bool := s.flights.any fun e => e.2.core == core && e.2.left != 0 && e.2.kind.computes
  if slow || c.jobs.any fun j => j.started then 3
  else if (s.array core).queue.any fun o => o.started then 2
  else 0

/-- Whether the tiller whose clause holds a slot continues it in this cycle (R185). -/
def State.continues (s : State) (tid : Nat) : Bool :=
  match (s.tiller tid).run with
  | some r => !r.words.isEmpty && !s.stuck tid && !(s.tiller tid).again && !s.runWaits tid r && !(s.cluster (clusterOf (coreOf tid))).held
  | none => false

/-- The class of a tiller's clause. -/
def Tiller.runCls (t : Tiller) : Nat :=
  match t.run with
  | some r => r.cls
  | none => 0

/-- The picks of the free slots, in turn, by what was offered: the state, the class so far, and the slots that issue. -/
def State.pickSlots (s : State) (core floor : Nat) (os : List Offer) (cls : Nat) (cont : Table Nat) : List Nat → State × Nat × Table Nat
  | [] => (s, cls, cont)
  | slot :: rest =>
    if (tfind cont slot).isSome then s.pickSlots core floor os cls cont rest
    else
      match s.pick ((s.core core).rrOf slot) floor (os.filter fun o => slotOf o.tid == slot) with
      | none => s.pickSlots core floor os cls cont rest
      | some o =>
        let (s1, go) := (s.picked core slot o).openClause o
        s1.pickSlots core floor os (Nat.max cls o.cls) (if go then tput cont slot o.tid else cont) rest

/-- Whether the batching window of a deferred clause of a core is over (R188). -/
def State.deferralDue (s : State) (core : Nat) : Bool :=
  s.tillers.any fun e => e.2.live && coreOf e.1 == core && !e.2.elig && !e.2.released &&
    (match e.2.defer with
    | some d => Nat.ble (d + (s.cluster (clusterOf core)).batchw) (s.core core).cycles
    | none => false)

/-- A deferred tiller released. -/
def Tiller.release (t : Tiller) : Tiller := if t.defer.isSome then { t with released := true } else t

/-- Every deferred clause of a core released, once the window of one is over (R188). -/
def State.releaseDeferred (s : State) (core : Nat) : State :=
  if s.deferralDue core then { s with tillers := s.tillers.map fun (e : Nat × Tiller) => if coreOf e.1 == core then (e.1, e.2.release) else e }
  else s

/-- The tillers whose clauses continue have run in this cycle (R199). -/
def State.markRan (s : State) (tids : List Nat) : State :=
  { s with tillers := s.tillers.map fun (e : Nat × Tiller) => if tids.contains e.1 then (e.1, { e.2 with ran := true }) else e }

/-- A cycle of a core begins: tillers halt, clauses continue or are suspended, the floor is formed, the slots pick, and a word of each issuing clause is due. -/
def State.openCycle (s : State) (core : Nat) : State :=
  let s0 : State := { s with now := Nat.max s.now (s.core core).clock }
  let sh := (s0.haltCore core).releaseDeferred core
  let c := sh.core core
  let cont := c.cont.filter fun e => sh.continues e.2
  let s1 := sh.markRan (cont.map (·.2))
  let floor := cont.foldl (fun n e => Nat.max n (s1.tiller e.2).runCls) (s1.opFloor core)
  let idle := (s1.tillers.filter fun e => e.2.live && coreOf e.1 == core && !cont.any fun x => x.2 == e.1).map (·.1)
  let (s2, os) := s1.lookAll core c.cycles floor idle
  let (s3, cls, cont1) := s2.pickSlots core floor os floor cont [0, 1, 2, 3]
  (s3.setCore core { s3.core core with cont := cont1, openCls := some cls }).pushTurns (cont1.map fun e => .tiller e.2)

/-! ## A cycle ends -/

/-- The ticks of a cycle of class k at a frequency (R9). -/
def cycleTicks (mhz k : Nat) : Nat := lget 40 [40, 50, 80, 100] k * (ticksPerNs / (mhz / 25))

/-- An outstanding operation of a core after a cycle of a class; CORD, FDIV, FSQRT, DIV and REM count cycles of class 3 (R87, R128, R147). -/
def Flight.tick (f : Flight) (cls : Nat) : Flight :=
  if f.kind.computes && cls != 3 then f else { f with left := f.left - 1 }

/-- The counters, the clock and what counts cycles, at the end of a cycle (R186). -/
def State.countCycle (s : State) (core cls : Nat) : State :=
  let c := s.core core
  let s1 := s.setCore core { c with
    cycles := (c.cycles + 1) % 2 ^ 64, tcyc := lset c.tcyc cls ((lget 0 c.tcyc cls + 1) % 2 ^ 64), openCls := none
    clock := Nat.max c.clock s.now + cycleTicks (s.cluster (clusterOf core)).cur cls }
  let s2 : State := { s1 with flights := s1.flights.map fun (e : Nat × Flight) => if e.2.core == core then (e.1, e.2.tick cls) else e }
  (s2.tickJobs core cls).arrayStep core

/-! ## Watchdogs (R199) -/

/-- Whether some tiller of a sheaf was eligible and not withheld, or issued, in the cycle. -/
def State.sheafRuns (s : State) (h : Sheaf) : Bool := h.positions.any fun t => (s.tiller t).ran

/-- Whether a tiller is withheld; an overdue one keeps the time of its withholding also while it is blocked (R197). -/
def State.heldBack (s : State) (tid : Nat) : Bool := (s.tiller tid).withheld.isSome && (!(s.tiller tid).overdue || s.offers tid)

/-- Whether a sheaf is stalled: no tiller eligible or withheld, no chain advancing, no access outstanding. -/
def State.sheafStalls (s : State) (i : Nat) (h : Sheaf) : Bool :=
  !s.sheafRuns h && !(h.positions.any fun t => s.heldBack t) &&
  !(s.flights.any fun e => h.positions.contains e.2.tid && !e.2.kind.computes) &&
  !s.engines.any fun e => s.advances e.1 e.2 && (e.2.chain.any fun c => c.ofSheaf i)

/-- The watchdog counts of a cluster's sheaves brought up to now; those of a held cluster stand still (R199, R374). -/
def State.watchdogs (s : State) (cl : Nat) : State :=
  (s.residents cl).foldl (fun st e =>
    let h := e.2
    let d := if (s.cluster cl).held then 0 else s.time - h.seen
    st.setSheaf e.1 { st.sheaf e.1 with
      run := if s.sheafRuns h then h.run + d else h.run, stall := if s.sheafStalls e.1 h then h.stall + d else h.stall, seen := s.time }) s

/-- The count of a watchdog and its limit. -/
def State.watchdog (s : State) (i : Nat) (run : Bool) : Nat × Nat :=
  let h := s.sheaf i
  let r := (s.launch h.launch).pkt.region
  if run then (h.run, s.effRunlim r) else (h.stall, s.effStalllim r)

/-- Whether a watchdog, which counts nanoseconds, has reached its limit, which stands in microseconds; a limit of 0 disables it (R199, R346). -/
def State.hangs (s : State) (i : Nat) (run : Bool) : Bool :=
  let (n, lim) := s.watchdog i run
  (s.sheaf i).resident && lim != 0 && Nat.ble (1000 * lim) n

/-- WATCHDOG_HANG: the records, and the count restarted (R199, R372). -/
def execWatchdogHang (i : Nat) (run : Bool) (s : State) : Result State :=
  let h := s.sheaf i
  let n := (s.watchdog i run).1
  let r := (s.launch h.launch).pkt.region
  .next (if !s.hangs i run then s
    else
      let s1 := s.post r ⟨0x0005, b2n (!run), 0xFF, coreOf (h.positions.headD 0), 0, 0, (s.rcb r).id, h.index, n, s.time⟩
      let s2 := h.positions.foldl (fun st t => st.postTiller t 0x0006 0 (st.tiller t).tpc.toNat) s1
      s2.setSheaf i (if run then { h with run := 0 } else { h with stall := 0 }))

/-! ## Events of time -/

/-- ALLOWANCE_REFILL: one nanosecond's refill and the withhold level (R194, R196, R198). -/
def execAllowanceRefill (cl : Nat) (s : State) : Result State := .next (s.refill cl)

/-- FLL_STEP_COMPLETE: the step's end, from which a next one counts (R193). -/
def execFllStepComplete (cl : Nat) (s : State) : Result State :=
  let c := s.cluster cl
  .next (if c.step ∧ c.stepEnd ≤ s.time then (s.setCluster cl c.endStep).retargetAt cl c.stepEnd else s)

/-- CLAUSE_LATE: a clause that has waited 64 cycles of its slot (R17, R189). -/
def execClauseLate (tid : Nat) (s : State) : Result State :=
  let t := s.tiller tid
  .next (if t.elig ∧ 64 ≤ t.wait + 1 then s.setTiller tid { t with late := true } else s)

/-- TILLER_OVERDUE: eligible but for withholding for 10,000 ns (R197). -/
def execTillerOverdue (tid : Nat) (s : State) : Result State :=
  let t := s.tiller tid
  .next (match t.withheld with
  | some w => if w + 10000 ≤ s.time then s.setTiller tid { t with overdue := true } else s
  | none => s)

/-- DEFERRAL_RELEASE: every deferred clause of the core is released with the first (R188). -/
def execDeferralRelease (core : Nat) (s : State) : Result State := .next (s.releaseDeferred core)

/-! ## What falls due (log 2) -/

/-- The event that an outstanding operation is ready for. -/
def flightEvent (id : Nat) (f : Flight) : List Instr :=
  match f.kind with
  | .result r =>
    if f.left ≠ 0 then []
    else
      (match r with
      | .spad => [.scratchpadLoadLand id]
      | .atoms => [.atomicResultLand id]
      | .cord => [.cordLand id]
      | .divf => [.fdivFsqrtLand id]
      | .divi => [.divRemLand id]
      | .lrefill => [.lrefillLand id])
  | .load .. => if f.ready then [.loadLand id] else []
  | .remote .. => if f.left = 0 then [.scratchpadLoadLand id] else []
  | .ldp .. => if f.ready then [.scratchpadLoadLand id] else []
  | .atomic .. => if f.ready then [.atomicResultLand id] else []
  | .vrst .. | .vtag _ => if f.ready then [.vrstLand id] else []
  | .store => if f.ready then [.storePerform id] else []
  | .spadStore .. => [.storePerform id]
  | .fence .. | .hold _ => if f.waits.isEmpty then [.fenceComplete id] else []
  | .sys .. => [.sysStatusLand id]
  | .pref | .watch => []

/-- The slices that have work. -/
def State.busySlices (s : State) : List Nat :=
  s.transit.foldl (fun l r => addNew l (s.home r.pa)) ((s.slices.filter fun e => !e.2.queue.isEmpty).map (·.1))

/-- The event at the end of the job at the head of a core's codec: of a locked sequence, or of a job that writes nothing (R101, R102). -/
def State.codecEvent (s : State) (core : Nat) (j : CodecJob) : Instr :=
  if j.writes.isEmpty then .codecDecode core else .codecWriteBack core (Config.codecError s.now core)

/-- What the homes, the banks and the codec of a core are to do, and the codec that stands for the accesses of no core, 256 (log 100). -/
def State.memoryDue (s : State) (core : Nat) : List Instr :=
  let srcs := s.transit.foldl (fun l r => addNew l r.src) []
  (s.busySlices.map fun sl => Instr.homeSliceServe sl srcs) ++
  (s.banks.flatMap fun e =>
    (if e.2.waiting.isEmpty then [] else [Instr.hbmAdmit (e.1 / 2048) (e.1 % 2048)]) ++
    (match e.2.queue with
    | r :: _ => [Instr.hbmBankService (e.1 / 2048) (e.1 % 2048) (Config.rowOf r.line) (Config.hbmError s.now e.1)]
    | [] => []) ++
    (if e.2.retry && Nat.ble (e.2.retrySince + 60000000000) s.time then [Instr.bankRetryLeave (e.1 / 2048) (e.1 % 2048)] else [])) ++
  (s.slices.flatMap fun e => (e.2.mcast.filter fun m => !Nat.ble s.now (m.2 + mcastTicks)).map fun m => Instr.multicastEntryExpiry e.1 m.1) ++
  (match (s.core core).doneJob with
  | some j => [s.codecEvent core j]
  | none => []) ++
  (match (s.core 256).doneJob with
  | some j => [s.codecEvent 256 j]
  | none => []) ++
  (((s.core core).l1.zipIdx.filter fun e => !e.1.dirtyBytes.isEmpty && Nat.ble (e.1.since + 10000 * ticksPerNs) s.now).map fun e =>
    Instr.l1WritebackDeadline core ⟨e.2, Config.l1Error s.now (4096 * core + e.2)⟩)

/-- What the array of a core may start, the latest first. -/
def State.arrayDue (s : State) (core : Nat) : List Instr :=
  let u := s.array core
  (((u.queue.zipIdx.filter fun e => s.arrayMayStart core e.2).map fun e => Instr.arrayOpStart core e.2).reverse) ++
  (if u.queue.any fun o => o.swap then [.mgrpImplicitSwap core] else [])

/-- What an engine unit is to do: its chain starts, its command goes on, or its next command is read. -/
def State.engineDue (s : State) (u : Nat) : List Turn :=
  let g := s.engine u
  match g.chain with
  | some c => if c.park.isSome || !s.chainsGo c then [] else if g.dataWork.isNone then [.engine u] else if s.pieceQueued u then [] else [.ev (.pieceWrite u)]
  | none => if (s.startable u).isSome then [.ev (.chainStart u)] else []

/-- What the tillers of a core are due for. -/
def State.tillersDue (s : State) (core : Nat) : List Instr :=
  (s.tillers.filter fun e => e.2.live && coreOf e.1 == core).flatMap fun e =>
    (match e.2.block with
    | .waitB _ _ _ (some _) => [Instr.waitBReturn e.1]
    | .waitB _ _ _ none | .none | .waitA .. | .fault .. => []) ++
    (if e.2.elig && Nat.ble 63 e.2.wait && !e.2.late then [.clauseLate e.1] else []) ++
    (match e.2.withheld with
    | some w => if !e.2.overdue && Nat.ble (w + 10000) s.time then [.tillerOverdue e.1] else []
    | none => [])

/-- What the sheaves of a cluster are due for. -/
def State.sheavesDue (s : State) (cl : Nat) : List Instr :=
  (s.residents cl).flatMap fun e =>
    (if s.mayRetire e.1 && !(s.cluster cl).held then [Instr.sheafRetire e.1] else []) ++
    (if s.mayHaltSave e.1 && s.sheafQuiet e.1 then [.preemptSave e.1] else []) ++
    (if s.mayRelease e.1 then [.resumeRelease e.1] else []) ++
    (if s.hangs e.1 true then [.watchdogHang e.1 true] else []) ++
    (if s.hangs e.1 false then [.watchdogHang e.1 false] else [])

/-- What time has brought to a cluster: it is done before one of its cores begins a cycle (R193, R194, R196). -/
def State.clusterDue (s : State) (cl : Nat) : List Instr :=
  let c := s.cluster cl
  List.replicate (s.time - c.refills) (Instr.allowanceRefill cl) ++ if c.step && Nat.ble c.stepEnd s.time then [.fllStepComplete cl] else []

/-- What else a cluster is due for: retention, and the planning of its table (R373, R376). -/
def State.clusterRest (s : State) (cl : Nat) : List Instr :=
  (if s.mayRetain cl then [Instr.retentionEntry cl] else []) ++ if s.mayPlan cl then [.vfTableReplan cl (Config.ageingCap s.now cl)] else []

/-- The telemetry of a die, with its sensors as they stand (R376). -/
def State.telemetryDue (s : State) (die : Nat) : Instr :=
  let x := Config.sensors s.now die
  let n := s.pkg.fixes die
  .telemetryWrite die x.1 x.2.1 x.2.2 n.1 n.2

/-- What a scrub finds once in 24 h of TIME: the lines that stand in error, and those that it meets (R375). A line without an error stays as it is. -/
def State.scrubDue (s : State) : List Instr :=
  (s.badLines.map fun l => Instr.scrub l true) ++ (Config.scrubFinds s.now).map fun e => .scrub e.1 e.2

/-- Whether a period of TIME, in nanoseconds, has ended in a cycle of core 0 that began at `t0`. -/
def State.ticked (s : State) (core t0 ns : Nat) : Bool := core == 0 && t0 / (ns * ticksPerNs) != (s.core 0).clock / (ns * ticksPerNs)

/-- What the package is due for; `t0` is when the last cycle of the core began. -/
def State.packageDue (s : State) (core t0 : Nat) : List Instr :=
  (if s.tlbinvReady then [Instr.tlbinvComplete] else []) ++
  ((s.resid.filter fun e => e.2.change != 0).map fun e => Instr.residencyChangeComplete e.1) ++
  (if s.mayBoost then [.boostWindowOpen] else []) ++ (if s.boostOver then [.boostWindowClose] else []) ++
  (if s.ticked core t0 1000000 then (List.range 32).map s.telemetryDue else []) ++
  (if s.ticked core t0 32000000 then [.activationCounterReset] else []) ++
  (if s.ticked core t0 dayNs then s.scrubDue else [])

/-- The tillers of a core whose word has issued and waited, and may go on (R185, log 83). -/
def State.goingOn (s : State) (core : Nat) : List Turn :=
  (s.tillers.filter fun e => e.2.live && coreOf e.1 == core && e.2.again && e.2.run.isSome && !s.stuck e.1 && !s.turns.contains (.tiller e.1)).map fun e => .tiller e.1

/-- Every event that falls due at the end of a cycle of a core. -/
def State.due (s : State) (core t0 : Nat) : List Turn :=
  let ev (l : List Instr) : List Turn := l.map Turn.ev
  ev ((s.flights.filter fun e => e.2.core == core).flatMap fun e => flightEvent e.1 e.2) ++
  ev (s.memoryDue core) ++ ev (s.arrayDue core) ++
  ((List.range 4).flatMap fun n => s.engineDue (8 * core + n)) ++ (if core % 4 = 0 then s.engineDue (8 * core + 4) else []) ++
  ev (s.tillersDue core) ++ (if s.deferralDue core then [.ev (.deferralRelease core)] else []) ++
  ev (s.sheavesDue (clusterOf core)) ++ ev (s.clusterRest (clusterOf core)) ++ ev (s.packageDue core t0) ++ s.goingOn core

/-- What has fallen due is listed, after the steps that have waited since (R103, R259, R366); a step that stands in a codec's queue is not (R111). -/
def State.listDue (s : State) (core t0 : Nat) : State :=
  let ds := (s.due core t0).filter fun t => !s.turnHeld t
  ({ s with later := [] } : State).pushTurns ((s.later.filter fun t => !ds.contains t) ++ ds)

/-- A cycle of a core ends: it is counted, its length passes, and what has fallen due is listed. -/
def State.closeCycle (s : State) (core cls : Nat) : State :=
  let cl := clusterOf core
  let t0 := (s.core core).clock
  let s1 := ((s.countCycle core cls).tickJobs 256 3).watchdogs cl
  let s2 := (s1.residents cl).foldl (fun st e => st.checkSaved e.1) s1
  let s3 := if s2.clusterIdle cl then s2 else s2.setCluster cl { s2.cluster cl with idleSince := s2.time }
  s3.listDue core t0

/-- Time that passes over a core whose FLL stands still: no cycle is counted (R373). -/
def State.passCycle (s : State) (core : Nat) : State :=
  let s1 : State := { s with now := Nat.max s.now (s.core core).clock }
  let c := s1.core core
  let s2 := s1.setCore core { c with clock := Nat.max c.clock s1.now + cycleTicks (s1.cluster (clusterOf core)).cur 0 }
  (s2.watchdogs (clusterOf core)).listDue core c.clock

/-- The time at which a cycle of a core begins. -/
def State.atCycle (s : State) (core : Nat) : State := { s with now := Nat.max s.now (s.core core).clock }

/-- CYCLE: the first step of a cycle forms its floor and picks; the second, once its words have issued, ends it (R183). What time has brought to the cluster comes before it begins. -/
def execCycle (core : Nat) (s : State) : Result State :=
  .next (match (s.core core).openCls with
  | some cls => s.closeCycle core cls
  | none =>
    match (s.atCycle core).clusterDue (clusterOf core) with
    | i :: rest => (s.atCycle core).pushTurns ((i :: rest).map Turn.ev)
    | [] => if (s.cluster (clusterOf core)).ret then s.passCycle core else s.openCycle core)

end Sys2Proof.Machine
end

