-- ==== Sys2Proof/Machine/Cord.lean ====
section
/-! DEFINITION. The function unit's CORD (R85, R86): exact values to 1,536 fraction bits, the bound on the unrounded result, the special cases, and the flags. -/

namespace Sys2Proof.Machine

/-! ## Fixed-point arithmetic: an integer v stands for v / 2^w -/

/-- The fraction bits of an exact value as it is kept here; the values of R85 are at least 2^−1,076 in magnitude where their bound is relative. -/
def cordBits : Nat := 1536

/-- Σ r^i / i! from a term on. -/
def expSum (w : Nat) (r : Int) : Nat → Nat → Int → Int → Int
  | 0, _, _, acc => acc
  | n + 1, i, t, acc =>
    let u := t * r / 2 ^ w / (i : Int)
    expSum w r n (i + 1) u (acc + u)

/-- A value squared n times. -/
def squares (w : Nat) : Nat → Int → Int
  | 0, v => v
  | n + 1, v => squares w n (v * v / 2 ^ w)

/-- e^x for |x| ≤ 1,100, as (e^(x / 2,048))^2,048. -/
def fxExp (w : Nat) (x : Int) : Int := squares w 11 (expSum w (x / 2 ^ 11) 320 1 (2 ^ w) (2 ^ w))

/-- The alternating series of sine and cosine from a term on; `x2` is x². -/
def altSum (w : Nat) (x2 : Int) : Nat → Nat → Int → Int → Int
  | 0, _, _, acc => acc
  | n + 1, i, t, acc =>
    let u := -(t * x2 / 2 ^ w / ((i * (i + 1) : Nat) : Int))
    altSum w x2 n (i + 2) u (acc + u)

def fxSin (w : Nat) (x : Int) : Int := altSum w (x * x / 2 ^ w) 240 2 x x
def fxCos (w : Nat) (x : Int) : Int := altSum w (x * x / 2 ^ w) 240 1 (2 ^ w) (2 ^ w)

/-- Euler's series of the arctangent from a term on; `u` is z² / (1 + z²). -/
def atanSum (w : Nat) (u : Int) : Nat → Nat → Int → Int → Int
  | 0, _, _, acc => acc
  | n + 1, i, t, acc =>
    let v := t * u / 2 ^ w * ((2 * i : Nat) : Int) / ((2 * i + 1 : Nat) : Int)
    atanSum w u n (i + 1) v (acc + v)

/-- atan z for 0 ≤ z ≤ 1. -/
def fxAtan (w : Nat) (z : Int) : Int :=
  let d := 2 ^ w + z * z / 2 ^ w
  let t := z * 2 ^ w / d
  atanSum w (z * z / d) (w + 64) 1 t t

/-- π. -/
def fxPi (w : Nat) : Int := 4 * fxAtan w (2 ^ w)

/-- Σ z^(2i+1) / (2i + 1) from a term on. -/
def atanhSum (w : Nat) (z2 : Int) : Nat → Nat → Int → Int → Int
  | 0, _, _, acc => acc
  | n + 1, i, p, acc =>
    let q := p * z2 / 2 ^ w
    atanhSum w z2 n (i + 1) q (acc + q / ((2 * i + 1 : Nat) : Int))

/-- artanh z for 0 ≤ z ≤ 1/3. -/
def fxAtanh (w : Nat) (z : Int) : Int := atanhSum w (z * z / 2 ^ w) 640 1 z z

/-- The natural logarithm of m · 2^e. -/
def fxLog (w : Nat) (m : Nat) (e : Int) : Int :=
  let l := Nat.log2 m
  let z : Int := ((m : Int) - 2 ^ l) * 2 ^ w / ((m : Int) + 2 ^ l)
  2 * fxAtanh w z + 2 * (e + (l : Int)) * fxAtanh w (2 ^ w / 3)

/-- m · 2^e in fixed point; w is at least −e. -/
def fxOf (w : Nat) (neg : Bool) (m : Nat) (e : Int) : Int := sgnInt neg m * 2 ^ ((w : Int) + e).toNat

/-- A finite value reduced modulo 2π, exactly as far as the fraction bits go (R85). -/
def fxTurn (neg : Bool) (m : Nat) (e : Int) : Int :=
  let w := cordBits + 1104
  fxOf w neg m e % (2 * fxPi w) / 2 ^ 1104

/-! ## The result (R85, R86) -/

/-- f(x) of a finite x ≠ 0 in the domain of R85. -/
def cordExact (fn : CordFn) (neg : Bool) (m : Nat) (e : Int) : Int :=
  let w := cordBits
  let one : Int := 2 ^ w
  let x := fxOf w neg m e
  match fn with
  | .sin => fxSin w (fxTurn neg m e)
  | .cos => fxCos w (fxTurn neg m e)
  | .atan =>
    let z : Int := x.natAbs
    sgnInt neg (if z ≤ one then fxAtan w z else fxPi w / 2 - fxAtan w (one * one / z)).toNat
  | .exp => if x < -1100 * one then 1 else max 1 (fxExp w x)
  | .log => fxLog w m e
  | .sqrt => isqrt (m * 2 ^ (2 * (w : Int) + e).toNat)
  | .sinh => (fxExp w x - fxExp w (-x)) / 2
  | .cosh => (fxExp w x + fxExp w (-x)) / 2

/-- k of the table of R85. -/
def cordK (fn : CordFn) : Nat :=
  match fn with
  | .sin | .cos | .log => 2
  | .atan | .sqrt => 1
  | .exp | .sinh | .cosh => 3

/-- F of the table of R85. -/
def cordF (fn : CordFn) : Int :=
  match fn with
  | .sin | .cos | .log => 1
  | .atan | .exp | .sqrt | .sinh | .cosh => 0

/-- More than what the fixed-point value v of f(x) may lack, in units of 2^−1,536: nothing where a square root comes out even (log 4). -/
def cordSlack (fn : CordFn) (v : Int) (m : Nat) (e : Int) : Int :=
  if fn = .sqrt ∧ v * v = (m * 2 ^ (2 * (cordBits : Int) + e).toNat : Nat) then 0 else 2 ^ 200 + (v.natAbs : Int) / 2 ^ 1000

/-- The unrounded result y of R85, as sign, significand and exponent of two: f(x) with an error that is free within the bound 2^−(n−k) · max(|f(x)|, F).
Twice what v may lack is taken off the bound, so that y never leaves it (log 4). -/
def cordY (f64 : Bool) (fn : CordFn) (n a : Nat) (neg : Bool) (m : Nat) (e : Int) : Bool × Nat × Int :=
  let v := cordExact fn neg m e
  let free := Config.cordError fn f64 n a
  let q := free.1
  let t : Int := max (-(2 ^ q)) (min (2 ^ q) free.2)
  let b := n - cordK fn
  let room : Int := max 0 (max (v.natAbs : Int) (cordF fn * 2 ^ cordBits) - 2 * cordSlack fn v m e * 2 ^ b)
  let u : Int := v * 2 ^ (q + b) + room * t
  (decide (u < 0), u.natAbs, -((cordBits + q + b : Nat) : Int))

/-- The least operand magnitude whose exact result overflows the format: exp, and sinh with cosh (R86). -/
def cordLimit (f64 : Bool) (fn : CordFn) : Nat :=
  match fn, f64 with
  | .exp, false => 0x42B17218
  | .exp, true => 0x40862E42FEFA39F0
  | _, false => 0x42B2D4FD
  | _, true => 0x408633CE8FB9F87E

/-- Whether the exact result overflows at a finite operand (R86). -/
def cordOverflows (f64 : Bool) (fn : CordFn) (neg : Bool) (mag : Nat) : Bool :=
  match fn with
  | .exp => !neg && decide (cordLimit f64 .exp ≤ mag)
  | .sinh | .cosh => decide (cordLimit f64 fn ≤ mag)
  | .sin | .cos | .atan | .log | .sqrt => false

/-- +1 in a format. -/
def Fmt.one (f : Fmt) : Nat := f.bias * 2 ^ f.mb

/-- ±π/2 rounded with RNE (R86). -/
def halfPi (f64 : Bool) : Nat := if f64 then 0x3FF921FB54442D18 else 0x3FC90FDB

/-- The last row of R86: y of R85 rounded with RNE; NX when the delivered result is not exact, UF when it is tiny and inexact. -/
def cordGeneral (f64 : Bool) (fn : CordFn) (n a : Nat) : Nat × Flags :=
  let f := if f64 then fp64 else fp32
  let (neg, m, e) := match f.num a with
    | .fin s m e => cordY f64 fn n (a % 2 ^ (f.magBits + 1)) s m e
    | .nan | .inf _ => (false, 0, 0)
  let r := f.roundMag .rne neg m e
  if f.top < r.mag then (f.signed neg (f.overflowMag .rne neg), flagOF ||| flagNX)
  else
    let out := f.signed neg r.mag
    let inexact := match fn with
      | .sqrt => (match Num.mul (f.num out) (f.num out) with
          | (x, _) => Num.cmp x (f.num a) != some .eq)
      | .sin | .cos | .atan | .exp | .log | .sinh | .cosh => true
    (out, flagIf inexact flagNX ||| flagIf (inexact && r.tiny) flagUF)

/-- One CORD result (R86, and R85 in the cases it covers). -/
def cordOne (f64 : Bool) (fn : CordFn) (n a : Nat) : Nat × Flags :=
  let f := if f64 then fp64 else fp32
  let inf (s : Bool) : Nat := f.signed s (f.inf.getD f.top)
  match f.num a with
  | .nan => (f.canon, 0)
  | .inf s =>
    match fn with
    | .sin | .cos => (f.canon, flagNV)
    | .atan => (f.signed s (halfPi f64), flagNX)
    | .exp => (if s then 0 else inf false, 0)
    | .sinh => (inf s, 0)
    | .cosh => (inf false, 0)
    | .log | .sqrt => if s then (f.canon, flagNV) else (inf false, 0)
  | .fin s m _ =>
    if m = 0 then
      match fn with
      | .sin | .atan | .sinh | .sqrt => (f.signed s 0, 0)
      | .cos | .exp | .cosh => (f.one, 0)
      | .log => (inf true, flagDZ)
    else if (fn = .log ∨ fn = .sqrt) ∧ s then (f.canon, flagNV)
    else if fn = .log ∧ a = f.one then (0, 0)
    else if fn = .sqrt ∧ a = f.one then (f.one, 0)
    else if cordOverflows f64 fn s (a % 2 ^ f.magBits) then
      (inf (fn == .sinh && s), flagOF ||| flagNX)
    else cordGeneral f64 fn n a

end Sys2Proof.Machine
end

