-- ==== Sys2Proof/Machine/Fp.lean ====
section
/-! DEFINITION. Floating point and the function units (R146 to R160, R163, R168). -/

namespace Sys2Proof.Machine

/-- The 64-bit value of a lane of a pair. -/
def Tiller.pairAt (t : Tiller) (r : VNum) (i : Nat) : Nat := ((t.rv r).lane i).toNat + 2 ^ 32 * ((t.rv (vHi r)).lane i).toNat

/-- The operand of a lane, of 32 or 64 bits. -/
def Tiller.fval (t : Tiller) (f64 : Bool) (i : Nat) (r : VNum) : Nat := if f64 then t.pairAt r i else ((t.rv r).lane i).toNat

/-- The registers read in f64 roles or in f32 roles. -/
def fregs (f64 : Bool) (rs : List VNum) : List VNum := if f64 then rs ++ rs.map vHi else rs

/-- The format of an f32 or f64 form. -/
def fmtOf (f64 : Bool) : Fmt := if f64 then fp64 else fp32

/-- An elementwise operation in each lane, under the types of R43 and R146. -/
def fpElems (t : Tiller) (ty : FTy) (g : Fmt → (VNum → Nat) → Nat × Flags) (i : Nat) : Nat × Flags :=
  match ty with
  | .f32 => g fp32 (t.fval false i)
  | .f64 => g fp64 (t.fval true i)
  | .h2 => packHalves (g fp16 fun r => t.fval false i r % 2 ^ 16) (g fp16 fun r => t.fval false i r / 2 ^ 16)
  | .b2 => packHalves (g bf16 fun r => t.fval false i r % 2 ^ 16) (g bf16 fun r => t.fval false i r / 2 ^ 16)

/-- A fixed-latency result of one register, or of a pair. -/
def State.fresult (s : State) (wide : Bool) (d : VNum) (reads : List VNum) (f : Nat → Nat × Flags) (p : Bool) : State :=
  if wide then s.laneF64 d reads f p else s.laneF d reads f p

/-- Elementwise arithmetic (R148). -/
def State.fpArith (s : State) (ty : FTy) (d : VNum) (reads : List VNum) (g : Fmt → (VNum → Nat) → Nat × Flags) (p : Bool) : State :=
  s.fresult (ty == .f64) d (fregs (ty == .f64) reads) (fpElems s.tl ty g) p

def execFadd (p : Bool) (ty : FTy) (d a b : VNum) (s : State) : Result State :=
  .next (s.fpArith ty d [a, b] (fun f v => f.add (v a) (v b)) p)
def execFsub (p : Bool) (ty : FTy) (d a b : VNum) (s : State) : Result State :=
  .next (s.fpArith ty d [a, b] (fun f v => f.sub (v a) (v b)) p)
def execFmul (p : Bool) (ty : FTy) (d a b : VNum) (s : State) : Result State :=
  .next (s.fpArith ty d [a, b] (fun f v => f.mul (v a) (v b)) p)
/-- FFMA reads its destination as the accumulator (R148). -/
def execFfma (p : Bool) (ty : FTy) (d a b : VNum) (s : State) : Result State :=
  .next (s.fpArith ty d [a, b, d] (fun f v => f.fma (v a) (v b) (v d)) p)
def execFmin (p : Bool) (ty : FTy) (d a b : VNum) (s : State) : Result State :=
  .next (s.fpArith ty d [a, b] (fun f v => (f.minMax true (v a) (v b), 0)) p)
def execFmax (p : Bool) (ty : FTy) (d a b : VNum) (s : State) : Result State :=
  .next (s.fpArith ty d [a, b] (fun f v => (f.minMax false (v a) (v b), 0)) p)

/-- FCMP (R151). -/
def execFcmp (p f64 : Bool) (q : FPred) (m : MReg) (a b : VNum) (s : State) : Result State :=
  let t := s.tl
  let f := fmtOf f64
  .next (s.writeM m (maskOf fun i =>
    isActive t.act i && predHolds q ((f.num (t.fval f64 i a)).cmp (f.num (t.fval f64 i b)))) p)

/-- FSGN of one value (R150). -/
def fsgnOne (f : Fmt) (g : SgnFn) (a b : Nat) : Nat :=
  if (f.num a).isNan then f.canon
  else
    let mag := a % 2 ^ f.magBits
    match g with
    | .abs => mag
    | .neg => f.signed (!a.testBit f.magBits) mag
    | .nabs => f.signed true mag
    | .copysign => f.signed (b.testBit f.magBits) mag

/-- FSGN (R150). -/
def execFsgn (p f64 : Bool) (g : SgnFn) (d a b : VNum) (s : State) : Result State :=
  let reads := match g with
    | .copysign => [a, b]
    | .abs | .neg | .nabs => [a]
  .next (s.fresult f64 d (fregs f64 reads) (fun i => (fsgnOne (fmtOf f64) g (s.tl.fval f64 i a) (s.tl.fval f64 i b), 0)) p)

/-- A split-phase result of 32 or 64 bits (R147). -/
def State.fsplit (s : State) (row : LandRow) (f64 : Bool) (d : VNum) (reads : List VNum) (f : Nat → Nat × Flags) (left : Nat) (p : Bool) : State :=
  let rs := eachLane f
  let t := s.tl
  let uni := t.allU (fregs f64 reads)
  s.splitV row (if f64 then t.vpair d uni rs else [t.vresult d uni (loWords rs)]) (activeFlags t.act rs) left p

/-- FDIV (R147, R155). -/
def execFdiv (p f64 : Bool) (d a b : VNum) (s : State) : Result State :=
  .next (s.fsplit .divf f64 d [a, b] (fun i => (fmtOf f64).div (s.tl.fval f64 i a) (s.tl.fval f64 i b)) (if f64 then 28 else 14) p)
/-- FSQRT (R147, R155). -/
def execFsqrt (p f64 : Bool) (d a : VNum) (s : State) : Result State :=
  .next (s.fsplit .divf f64 d [a] (fun i => (fmtOf f64).sqrt (s.tl.fval f64 i a)) (if f64 then 28 else 14) p)
/-- FRCPE (R154). -/
def execFrcpe (p : Bool) (d a : VNum) (s : State) : Result State :=
  .next (s.fresult false d [a] (fun i => rcpEst (s.tl.fval false i a)) p)
/-- FRND (R153). -/
def execFrnd (p : Bool) (rm : Rm) (d a : VNum) (s : State) : Result State :=
  .next (s.fresult false d [a] (fun i => (fp32.integral rm (s.tl.fval false i a), 0)) p)
/-- FRND64 (R153). -/
def execFrnd64 (p : Bool) (rm : Rm) (d a : VNum) (s : State) : Result State :=
  .next (s.fresult true d (fregs true [a]) (fun i => (fp64.integral rm (s.tl.fval true i a), 0)) p)
/-- FCLASS (R152). -/
def execFclass (p f64 : Bool) (d a : VNum) (s : State) : Result State :=
  .next (s.fresult false d (fregs f64 [a]) (fun i => ((fmtOf f64).classBit (s.tl.fval f64 i a), 0)) p)
/-- CVT (R156). -/
def execCvt (p : Bool) (c : CvtCode) (rm : Rm) (d a : VNum) (s : State) : Result State :=
  .next (s.fresult c.wideD d (fregs c.wideA [a]) (fun i => cvtOne c rm (s.tl.fval c.wideA i a)) p)
/-- CVTN (R157). -/
def execCvtn (p : Bool) (f : CvtnFmt) (d a b : VNum) (s : State) : Result State :=
  .next (s.fresult false d [a, b] (fun i => cvtnOne f (s.tl.fval false i a) (s.tl.fval false i b % 256)) p)
/-- CVTW (R158). -/
def execCvtw (p : Bool) (f : CvtwFmt) (d a b : VNum) (s : State) : Result State :=
  .next (s.fresult false d [a, b] (fun i => cvtwOne f (s.tl.fval false i a) (s.tl.fval false i b % 256)) p)
/-- CORD (R87, R159). -/
def execCord (p f64 : Bool) (f : CordFn) (n : BitVec 6) (d a : VNum) (s : State) : Result State :=
  .next (s.fsplit .cord f64 d [a] (fun i => cordOne f64 f n.toNat (s.tl.fval f64 i a)) (n.toNat + 6) p)
/-- PWPE with the table as it stands at issue (R163). -/
def execPwpe (p : Bool) (d a : VNum) (s : State) : Result State :=
  let segs := (s.wg (s.wgIdOf s.cur)).segs
  .next (s.fresult false d [a] (fun i => pwpEval segs (s.tl.fval false i a)) p)
/-- FDOT2 reads its destination as the accumulator (R168). -/
def execFdot2 (p bf : Bool) (d a b : VNum) (s : State) : Result State :=
  .next (s.fresult false d [a, b, d] (fun i =>
    dot2One (if bf then bf16 else fp16) (s.tl.fval false i d) (s.tl.fval false i a) (s.tl.fval false i b)) p)

end Sys2Proof.Machine
end

