-- ==== Sys2Proof/Machine/Scalar.lean ====
section
/-! DEFINITION. Scalar integer instructions (R127 to R134). -/

namespace Sys2Proof.Machine

/-- A scalar function of two registers. -/
def State.ss (s : State) (f : Word → Word → Word) (d a b : SReg) (p : Bool) : State :=
  s.writeS d (f (s.tl.rs a) (s.tl.rs b)) p

/-- DIV and REM: a result that lands 18 class-3 cycles later (R128). -/
def State.splitS (s : State) (d : SReg) (x : Word) (p : Bool) : State :=
  (s.startResult .divi [.s d x] (us d) none 0 18).finish p

/-- IMM10 sign-extended (R133). -/
def imm (i : BitVec 10) : Word := i.signExtend 32

def execAdd (p : Bool) (d a b : SReg) (s : State) : Result State := .next (s.ss (· + ·) d a b p)
def execSub (p : Bool) (d a b : SReg) (s : State) : Result State := .next (s.ss (· - ·) d a b p)
def execMul (p : Bool) (d a b : SReg) (s : State) : Result State := .next (s.ss (· * ·) d a b p)
def execMulh (p sg : Bool) (d a b : SReg) (s : State) : Result State := .next (s.ss (mulHigh sg) d a b p)
/-- DIV (R128). -/
def execDiv (p sg : Bool) (d a b : SReg) (s : State) : Result State := .next (s.splitS d (divide sg (s.tl.rs a) (s.tl.rs b)) p)
/-- REM (R128). -/
def execRem (p sg : Bool) (d a b : SReg) (s : State) : Result State := .next (s.splitS d (remainder sg (s.tl.rs a) (s.tl.rs b)) p)
def execAnd (p : Bool) (d a b : SReg) (s : State) : Result State := .next (s.ss (· &&& ·) d a b p)
def execOr (p : Bool) (d a b : SReg) (s : State) : Result State := .next (s.ss (· ||| ·) d a b p)
def execXor (p : Bool) (d a b : SReg) (s : State) : Result State := .next (s.ss (· ^^^ ·) d a b p)
def execAndn (p : Bool) (d a b : SReg) (s : State) : Result State := .next (s.ss (fun x y => x &&& ~~~y) d a b p)
def execShl (p : Bool) (d a b : SReg) (s : State) : Result State := .next (s.ss shl32 d a b p)
def execShr (p : Bool) (d a b : SReg) (s : State) : Result State := .next (s.ss shr32 d a b p)
def execSar (p : Bool) (d a b : SReg) (s : State) : Result State := .next (s.ss sar32 d a b p)
def execRor (p : Bool) (d a b : SReg) (s : State) : Result State := .next (s.ss ror32 d a b p)
def execMin (p sg : Bool) (d a b : SReg) (s : State) : Result State := .next (s.ss (min32 sg) d a b p)
def execMax (p sg : Bool) (d a b : SReg) (s : State) : Result State := .next (s.ss (max32 sg) d a b p)
/-- CMP (R129). -/
def execCmp (p : Bool) (c : Cond) (d a b : SReg) (s : State) : Result State :=
  .next (s.ss (fun x y => bv 32 (b2n (condHolds c x y))) d a b p)
/-- SEL reads its destination as the condition (R129). -/
def execSel (p : Bool) (d a b : SReg) (s : State) : Result State :=
  .next (s.ss (fun x y => if s.tl.rs d ≠ 0 then x else y) d a b p)
/-- BITU (R130). -/
def execBitu (p : Bool) (f : BitFn) (d a : SReg) (s : State) : Result State := .next (s.writeS d (bitFn f (s.tl.rs a)) p)
def execBfx (p : Bool) (d a b : SReg) (s : State) : Result State := .next (s.ss fieldExtract d a b p)
/-- BFI reads its destination (R131). -/
def execBfi (p : Bool) (d a b : SReg) (s : State) : Result State := .next (s.ss (fieldInsert (s.tl.rs d)) d a b p)
def execAdd64 (p : Bool) (d a b : SReg) (s : State) : Result State := .next (s.writeP d (s.tl.rp a + s.tl.rp b) p)
def execSub64 (p : Bool) (d a b : SReg) (s : State) : Result State := .next (s.writeP d (s.tl.rp a - s.tl.rp b) p)
def execMul64 (p : Bool) (d a b : SReg) (s : State) : Result State := .next (s.writeP d (s.tl.rp a * s.tl.rp b) p)
/-- SH64 (R132). -/
def execSh64 (p : Bool) (f : Sh64Fn) (d a b : SReg) (s : State) : Result State :=
  .next (s.writeP d (sh64 f (s.tl.rp a) (s.tl.rs b).toNat) p)
/-- CMP64 (R129). -/
def execCmp64 (p : Bool) (c : Cond) (d a b : SReg) (s : State) : Result State :=
  .next (s.writeS d (bv 32 (b2n (condHolds c (s.tl.rp a) (s.tl.rp b)))) p)
def execAddi (p : Bool) (d a : SReg) (i : BitVec 10) (s : State) : Result State := .next (s.writeS d (s.tl.rs a + imm i) p)
def execAndi (p : Bool) (d a : SReg) (i : BitVec 10) (s : State) : Result State := .next (s.writeS d (s.tl.rs a &&& imm i) p)
def execOri (p : Bool) (d a : SReg) (i : BitVec 10) (s : State) : Result State := .next (s.writeS d (s.tl.rs a ||| imm i) p)
def execShli (p : Bool) (d a : SReg) (i : BitVec 5) (s : State) : Result State := .next (s.writeS d (s.tl.rs a <<< i.toNat) p)
/-- MOVL (R134). -/
def execMovl (p : Bool) (d : SReg) (lit : Word) (s : State) : Result State := .next (s.writeS d lit p)
def execMovs (p : Bool) (d a : SReg) (s : State) : Result State := .next (s.writeS d (s.tl.rs a) p)
/-- MOVS.lane, whatever the active mask (R134). -/
def execMovsLane (p : Bool) (d : SReg) (a : VNum) (l : BitVec 5) (s : State) : Result State :=
  .next (s.writeS d ((s.tl.rv a).lane l.toNat) p)
def execMovsFrm (p : Bool) (d : SReg) (m : MReg) (s : State) : Result State := .next (s.writeS d (s.tl.rm m) p)
def execMovsTom (p : Bool) (m : MReg) (a : SReg) (s : State) : Result State := .next (s.writeM m (s.tl.rs a) p)
/-- MOVS.cnt: the active lanes (R134). -/
def execMovsCnt (p : Bool) (d : SReg) (s : State) : Result State := .next (s.writeS d (bv 32 (popc s.tl.act)) p)

end Sys2Proof.Machine
end

