-- ==== Sys2Proof/Machine/Vector.lean ====
section
/-! DEFINITION. Vector integer, mask and cross-lane instructions (R135 to R145, R164 to R167), but for those that reach memory. -/

namespace Sys2Proof.Machine

/-- A lane-wise function of two registers whose result is G (R120, R135). -/
def State.vv (s : State) (f : Word → Word → Word) (d a b : VNum) (p : Bool) : State :=
  s.laneG d (fun i => f ((s.tl.rv a).lane i) ((s.tl.rv b).lane i)) p

/-- A result whose tag under a full mask is known. -/
def State.vt (s : State) (d : VNum) (full : VReg) (p : Bool) : State := s.writeV [s.tl.vtagged d full] 0 p

def execVadd (p : Bool) (d a b : VNum) (s : State) : Result State := .next (s.vt d (addLike (· + ·) (s.tl.rv a) (s.tl.rv b)) p)
def execVsub (p : Bool) (d a b : VNum) (s : State) : Result State := .next (s.vt d (addLike (· - ·) (s.tl.rv a) (s.tl.rv b)) p)
def execVmul (p : Bool) (d a b : VNum) (s : State) : Result State := .next (s.vt d (mulTagged (s.tl.rv a) (s.tl.rv b)) p)
def execVmulh (p sg : Bool) (d a b : VNum) (s : State) : Result State := .next (s.vv (mulHigh sg) d a b p)
def execVand (p : Bool) (d a b : VNum) (s : State) : Result State := .next (s.vv (· &&& ·) d a b p)
def execVor (p : Bool) (d a b : VNum) (s : State) : Result State := .next (s.vv (· ||| ·) d a b p)
def execVxor (p : Bool) (d a b : VNum) (s : State) : Result State := .next (s.vv (· ^^^ ·) d a b p)
def execVshl (p : Bool) (d a b : VNum) (s : State) : Result State := .next (s.vt d (shlTagged (s.tl.rv a) (s.tl.rv b)) p)
def execVshr (p : Bool) (d a b : VNum) (s : State) : Result State := .next (s.vv shr32 d a b p)
def execVsar (p : Bool) (d a b : VNum) (s : State) : Result State := .next (s.vv sar32 d a b p)
def execVmin (p sg : Bool) (d a b : VNum) (s : State) : Result State := .next (s.vv (min32 sg) d a b p)
def execVmax (p sg : Bool) (d a b : VNum) (s : State) : Result State := .next (s.vv (max32 sg) d a b p)
/-- VCMP: a mask, 0 in inactive lanes (R137). -/
def execVcmp (p : Bool) (c : Cond) (m : MReg) (a b : VNum) (s : State) : Result State :=
  .next (s.writeM m (maskOf fun i => isActive s.tl.act i && condHolds c ((s.tl.rv a).lane i) ((s.tl.rv b).lane i)) p)
/-- VSEL (R138). -/
def execVsel (p : Bool) (d a b : VNum) (m : MReg) (s : State) : Result State :=
  .next (s.laneG d (fun i => if (s.tl.rm m).getLsbD i then (s.tl.rv a).lane i else (s.tl.rv b).lane i) p)
def execVmov (p : Bool) (d a : VNum) (s : State) : Result State := .next (s.vt d (s.tl.rv a) p)
def execVmovSc (p : Bool) (d : VNum) (a : SReg) (s : State) : Result State := .next (s.vt d (.u (s.tl.rs a)) p)
def execVidx (p : Bool) (d : VNum) (s : State) : Result State := .next (s.vt d (.a 0 1) p)
def execVaff (p : Bool) (d : VNum) (a b : SReg) (s : State) : Result State := .next (s.vt d (.a (s.tl.rs a) (s.tl.rs b)) p)
def execVmovG (p : Bool) (d a : VNum) (s : State) : Result State := .next (s.laneG d (fun i => (s.tl.rv a).lane i) p)
/-- VINS: one lane, whatever the active mask (R139). -/
def execVins (p : Bool) (d : VNum) (a : SReg) (l : BitVec 5) (s : State) : Result State :=
  .next (s.writeV [(d, .g (lset (s.tl.rv d).lanes l.toNat (s.tl.rs a)))] 0 p)
def execVaddi (p : Bool) (d a : VNum) (i : BitVec 10) (s : State) : Result State :=
  .next (s.vt d (addImmTagged (s.tl.rv a) (i.signExtend 32)) p)
def execVbitu (p : Bool) (f : BitFn) (d a : VNum) (s : State) : Result State :=
  .next (s.laneG d (fun i => bitFn f ((s.tl.rv a).lane i)) p)
def execVbfx (p : Bool) (d a b : VNum) (s : State) : Result State := .next (s.vv fieldExtract d a b p)
/-- VDOT4 reads its destination (R167). -/
def execVdot4 (p sg : Bool) (d a b : VNum) (s : State) : Result State :=
  .next (s.laneG d (fun i => dot4 sg ((s.tl.rv d).lane i) ((s.tl.rv a).lane i) ((s.tl.rv b).lane i)) p)
/-- V64 (R136). -/
def execV64 (p : Bool) (f : V64Fn) (d a b : VNum) (s : State) : Result State :=
  let t := s.tl
  let arg (i : Nat) : Nat := match f with
    | .add | .sub => lget 0 (t.rvPair b) i
    | .shl | .shr | .sar => ((t.rv b).lane i).toNat
  .next (s.writeV (t.vpair d false (eachLane fun i => (v64 f (lget 0 (t.rvPair a) i) (arg i), 0))) 0 p)
/-- MOP (R140). -/
def execMop (p : Bool) (f : MopFn) (d a b : MReg) (s : State) : Result State :=
  .next (s.writeM d (maskFn f (s.tl.rm a) (s.tl.rm b)) p)
/-- MQ (R141). -/
def execMq (p : Bool) (f : MqFn) (d : SReg) (m : MReg) (s : State) : Result State := .next (s.writeS d (maskQuery f (s.tl.rm m)) p)
/-- SHFL (R164). -/
def execShfl (p : Bool) (f : ShflFn) (d a b : VNum) (s : State) : Result State :=
  .next (s.laneG d (fun i => (s.tl.rv a).lane (shflSrc f i ((s.tl.rv b).lane i))) p)
/-- VRED: U in every lane, whatever the active mask (R117, R165). -/
def execVred (p : Bool) (f : VredFn) (d a : VNum) (s : State) : Result State :=
  let r := vreduce f s.tl.act (s.tl.rv a)
  .next (s.writeV [(d, .u (bv 32 r.1))] r.2 p)
/-- VSCAN (R166). -/
def execVscan (p : Bool) (f : VscanFn) (d a : VNum) (s : State) : Result State :=
  let rs := vscanLanes f s.tl.act (s.tl.rv a)
  .next (s.writeV [s.tl.vresult d false (loWords rs)] (activeFlags s.tl.act rs) p)
/-- VTAG does not wait for its vector (R145). -/
def execVtag (p : Bool) (d : SReg) (a : VNum) (s : State) : Result State :=
  let t := s.tl
  .next (s.writeS d (bv 32 ((t.rv a).tag + 4 * b2n (t.pend.contains (.v a.toNat)) + 2 ^ 8 * t.gCount + 2 ^ 16 * t.ng)) p)

end Sys2Proof.Machine
end

