-- ==== Sys2Proof/Machine/Dispatch.lean ====
section
/-! DEFINITION. The meaning of every row of the opcode table: one arm per constructor, each a direct call. -/

namespace Sys2Proof.Machine

def exec (i : Instr) (s : State) : Host.Outcome State Fault Refusal :=
  match i with
  | .nop p => Sys2Proof.Machine.execNop p s
  | .bra p o => Sys2Proof.Machine.execBra p o s
  | .braSpin p o => Sys2Proof.Machine.execBraSpin p o s
  | .bz p rs o => Sys2Proof.Machine.execBz p rs o s
  | .bnz p rs o => Sys2Proof.Machine.execBnz p rs o s
  | .bm p m o => Sys2Proof.Machine.execBm p m o s
  | .bmn p m o => Sys2Proof.Machine.execBmn p m o s
  | .jset p o => Sys2Proof.Machine.execJset p o s
  | .call p rs o => Sys2Proof.Machine.execCall p rs o s
  | .jmpr p rs => Sys2Proof.Machine.execJmpr p rs s
  | .rep p n sd sa sb => Sys2Proof.Machine.execRep p n sd sa sb s
  | .yield p => Sys2Proof.Machine.execYield p s
  | .yieldSpin p => Sys2Proof.Machine.execYieldSpin p s
  | .exit => Sys2Proof.Machine.execExit s
  | .trap c => Sys2Proof.Machine.execTrap c s
  | .rte => Sys2Proof.Machine.execRte s
  | .srd p d r => Sys2Proof.Machine.execSrd p d r s
  | .swr p r a => Sys2Proof.Machine.execSwr p r a s
  | .sysLaunch p d a => Sys2Proof.Machine.execSysLaunch p d a s
  | .sysGrun p d a => Sys2Proof.Machine.execSysGrun p d a s
  | .sysRcbsync p d a => Sys2Proof.Machine.execSysRcbsync p d a s
  | .sysCtxdone p => Sys2Proof.Machine.execSysCtxdone p s
  | .sysNotify p a => Sys2Proof.Machine.execSysNotify p a s
  | .add p d a b => Sys2Proof.Machine.execAdd p d a b s
  | .sub p d a b => Sys2Proof.Machine.execSub p d a b s
  | .mul p d a b => Sys2Proof.Machine.execMul p d a b s
  | .mulh p sg d a b => Sys2Proof.Machine.execMulh p sg d a b s
  | .div p sg d a b => Sys2Proof.Machine.execDiv p sg d a b s
  | .rem p sg d a b => Sys2Proof.Machine.execRem p sg d a b s
  | .and p d a b => Sys2Proof.Machine.execAnd p d a b s
  | .or p d a b => Sys2Proof.Machine.execOr p d a b s
  | .xor p d a b => Sys2Proof.Machine.execXor p d a b s
  | .andn p d a b => Sys2Proof.Machine.execAndn p d a b s
  | .shl p d a b => Sys2Proof.Machine.execShl p d a b s
  | .shr p d a b => Sys2Proof.Machine.execShr p d a b s
  | .sar p d a b => Sys2Proof.Machine.execSar p d a b s
  | .ror p d a b => Sys2Proof.Machine.execRor p d a b s
  | .min p sg d a b => Sys2Proof.Machine.execMin p sg d a b s
  | .max p sg d a b => Sys2Proof.Machine.execMax p sg d a b s
  | .cmp p c d a b => Sys2Proof.Machine.execCmp p c d a b s
  | .sel p d a b => Sys2Proof.Machine.execSel p d a b s
  | .bitu p f d a => Sys2Proof.Machine.execBitu p f d a s
  | .bfx p d a b => Sys2Proof.Machine.execBfx p d a b s
  | .bfi p d a b => Sys2Proof.Machine.execBfi p d a b s
  | .add64 p d a b => Sys2Proof.Machine.execAdd64 p d a b s
  | .sub64 p d a b => Sys2Proof.Machine.execSub64 p d a b s
  | .mul64 p d a b => Sys2Proof.Machine.execMul64 p d a b s
  | .sh64 p f d a b => Sys2Proof.Machine.execSh64 p f d a b s
  | .cmp64 p c d a b => Sys2Proof.Machine.execCmp64 p c d a b s
  | .addi p d a im => Sys2Proof.Machine.execAddi p d a im s
  | .andi p d a im => Sys2Proof.Machine.execAndi p d a im s
  | .ori p d a im => Sys2Proof.Machine.execOri p d a im s
  | .shli p d a im => Sys2Proof.Machine.execShli p d a im s
  | .movl p d lit => Sys2Proof.Machine.execMovl p d lit s
  | .movs p d a => Sys2Proof.Machine.execMovs p d a s
  | .movsLane p d a l => Sys2Proof.Machine.execMovsLane p d a l s
  | .movsFrm p d m => Sys2Proof.Machine.execMovsFrm p d m s
  | .movsTom p m a => Sys2Proof.Machine.execMovsTom p m a s
  | .movsCnt p d => Sys2Proof.Machine.execMovsCnt p d s
  | .vadd p d a b => Sys2Proof.Machine.execVadd p d a b s
  | .vsub p d a b => Sys2Proof.Machine.execVsub p d a b s
  | .vmul p d a b => Sys2Proof.Machine.execVmul p d a b s
  | .vmulh p sg d a b => Sys2Proof.Machine.execVmulh p sg d a b s
  | .vand p d a b => Sys2Proof.Machine.execVand p d a b s
  | .vor p d a b => Sys2Proof.Machine.execVor p d a b s
  | .vxor p d a b => Sys2Proof.Machine.execVxor p d a b s
  | .vshl p d a b => Sys2Proof.Machine.execVshl p d a b s
  | .vshr p d a b => Sys2Proof.Machine.execVshr p d a b s
  | .vsar p d a b => Sys2Proof.Machine.execVsar p d a b s
  | .vmin p sg d a b => Sys2Proof.Machine.execVmin p sg d a b s
  | .vmax p sg d a b => Sys2Proof.Machine.execVmax p sg d a b s
  | .vcmp p c m a b => Sys2Proof.Machine.execVcmp p c m a b s
  | .vsel p d a b m => Sys2Proof.Machine.execVsel p d a b m s
  | .vmov p d a => Sys2Proof.Machine.execVmov p d a s
  | .vmovSc p d a => Sys2Proof.Machine.execVmovSc p d a s
  | .vidx p d => Sys2Proof.Machine.execVidx p d s
  | .vaff p d a b => Sys2Proof.Machine.execVaff p d a b s
  | .vmovG p d a => Sys2Proof.Machine.execVmovG p d a s
  | .vins p d a l => Sys2Proof.Machine.execVins p d a l s
  | .vaddi p d a im => Sys2Proof.Machine.execVaddi p d a im s
  | .vbitu p f d a => Sys2Proof.Machine.execVbitu p f d a s
  | .vbfx p d a b => Sys2Proof.Machine.execVbfx p d a b s
  | .vdot4 p sg d a b => Sys2Proof.Machine.execVdot4 p sg d a b s
  | .v64 p f d a b => Sys2Proof.Machine.execV64 p f d a b s
  | .mop p f d a b => Sys2Proof.Machine.execMop p f d a b s
  | .mq p f d m => Sys2Proof.Machine.execMq p f d m s
  | .shfl p f d a b => Sys2Proof.Machine.execShfl p f d a b s
  | .vred p f d a => Sys2Proof.Machine.execVred p f d a s
  | .vscan p f d a => Sys2Proof.Machine.execVscan p f d a s
  | .lrefill p t a c wide m => Sys2Proof.Machine.execLrefill p t a c wide m s
  | .vsav p t a c h => Sys2Proof.Machine.execVsav p t a c h s
  | .vrst p t a c h => Sys2Proof.Machine.execVrst p t a c h s
  | .vtag p d a => Sys2Proof.Machine.execVtag p d a s
  | .fadd p ty d a b => Sys2Proof.Machine.execFadd p ty d a b s
  | .fsub p ty d a b => Sys2Proof.Machine.execFsub p ty d a b s
  | .fmul p ty d a b => Sys2Proof.Machine.execFmul p ty d a b s
  | .ffma p ty d a b => Sys2Proof.Machine.execFfma p ty d a b s
  | .fmin p ty d a b => Sys2Proof.Machine.execFmin p ty d a b s
  | .fmax p ty d a b => Sys2Proof.Machine.execFmax p ty d a b s
  | .fcmp p f64 q m a b => Sys2Proof.Machine.execFcmp p f64 q m a b s
  | .fsgn p f64 f d a b => Sys2Proof.Machine.execFsgn p f64 f d a b s
  | .fdiv p f64 d a b => Sys2Proof.Machine.execFdiv p f64 d a b s
  | .fsqrt p f64 d a => Sys2Proof.Machine.execFsqrt p f64 d a s
  | .frcpe p d a => Sys2Proof.Machine.execFrcpe p d a s
  | .frnd p rm d a => Sys2Proof.Machine.execFrnd p rm d a s
  | .frnd64 p rm d a => Sys2Proof.Machine.execFrnd64 p rm d a s
  | .fclass p f64 d a => Sys2Proof.Machine.execFclass p f64 d a s
  | .cvt p c rm d a => Sys2Proof.Machine.execCvt p c rm d a s
  | .cvtn p f d a b => Sys2Proof.Machine.execCvtn p f d a b s
  | .cvtw p f d a b => Sys2Proof.Machine.execCvtw p f d a b s
  | .cord p f64 f n d a => Sys2Proof.Machine.execCord p f64 f n d a s
  | .pwpl p a b => Sys2Proof.Machine.execPwpl p a b s
  | .pwpe p d a => Sys2Proof.Machine.execPwpe p d a s
  | .fdot2 p bf d a b => Sys2Proof.Machine.execFdot2 p bf d a b s
  | .ldg p t a c wd h => Sys2Proof.Machine.execLdg p t a c wd h s
  | .ldgx p t a c wd h lit => Sys2Proof.Machine.execLdgx p t a c wd h lit s
  | .stg p t a c wd h => Sys2Proof.Machine.execStg p t a c wd h s
  | .stgx p t a c wd h lit => Sys2Proof.Machine.execStgx p t a c wd h lit s
  | .lds p t a c wd => Sys2Proof.Machine.execLds p t a c wd s
  | .sts p t a c wd => Sys2Proof.Machine.execSts p t a c wd s
  | .ldx p t a c wd r => Sys2Proof.Machine.execLdx p t a c wd r s
  | .stx p t a c wd r => Sys2Proof.Machine.execStx p t a c wd r s
  | .ldp p t a c wd n => Sys2Proof.Machine.execLdp p t a c wd n s
  | .atom p op ty t a c lit => Sys2Proof.Machine.execAtom p op ty t a c lit s
  | .red p op ty t a c lit => Sys2Proof.Machine.execRed p op ty t a c lit s
  | .cas p wide t a c lit => Sys2Proof.Machine.execCas p wide t a c lit s
  | .prefL1 p a lit => Sys2Proof.Machine.execPrefL1 p a lit s
  | .prefGr p a lit => Sys2Proof.Machine.execPrefGr p a lit s
  | .atoms p op ty t a c => Sys2Proof.Machine.execAtoms p op ty t a c s
  | .arrive p d a => Sys2Proof.Machine.execArrive p d a s
  | .arriveX p d a b => Sys2Proof.Machine.execArriveX p d a b s
  | .arriveR p d a b => Sys2Proof.Machine.execArriveR p d a b s
  | .waitB p a b => Sys2Proof.Machine.execWaitB p a b s
  | .waitA p c b => Sys2Proof.Machine.execWaitA p c b s
  | .fenceAcq p sc c => Sys2Proof.Machine.execFenceAcq p sc c s
  | .fenceRel p sc c => Sys2Proof.Machine.execFenceRel p sc c s
  | .fenceAr p sc c => Sys2Proof.Machine.execFenceAr p sc c s
  | .watch p a b => Sys2Proof.Machine.execWatch p a b s
  | .mcfg p a => Sys2Proof.Machine.execMcfg p a s
  | .mlds p c a => Sys2Proof.Machine.execMlds p c a s
  | .mswp p => Sys2Proof.Machine.execMswp p s
  | .mstr p c a b => Sys2Proof.Machine.execMstr p c a b s
  | .mgrp p c a => Sys2Proof.Machine.execMgrp p c a s
  | .mclr p c a b => Sys2Proof.Machine.execMclr p c a b s
  | .mhist p d a b => Sys2Proof.Machine.execMhist p d a b s
  | .mdrn p c a => Sys2Proof.Machine.execMdrn p c a s
  | .engFork p e a b => Sys2Proof.Machine.execEngFork p e a b s
  | .engKill p e => Sys2Proof.Machine.execEngKill p e s
  | .engStat p d e => Sys2Proof.Machine.execEngStat p d e s
  | .cycle core => Sys2Proof.Machine.execCycle core s
  | .deferralRelease core => Sys2Proof.Machine.execDeferralRelease core s
  | .clauseLate tid => Sys2Proof.Machine.execClauseLate tid s
  | .arrayOpStart core k => Sys2Proof.Machine.execArrayOpStart core k s
  | .mgrpImplicitSwap core => Sys2Proof.Machine.execMgrpImplicitSwap core s
  | .allowanceRefill cl => Sys2Proof.Machine.execAllowanceRefill cl s
  | .tillerOverdue tid => Sys2Proof.Machine.execTillerOverdue tid s
  | .watchdogHang sheaf run => Sys2Proof.Machine.execWatchdogHang sheaf run s
  | .fllStepComplete cl => Sys2Proof.Machine.execFllStepComplete cl s
  | .loadLand id => Sys2Proof.Machine.execLoadLand id s
  | .scratchpadLoadLand id => Sys2Proof.Machine.execScratchpadLoadLand id s
  | .atomicResultLand id => Sys2Proof.Machine.execAtomicResultLand id s
  | .cordLand id => Sys2Proof.Machine.execCordLand id s
  | .fdivFsqrtLand id => Sys2Proof.Machine.execFdivFsqrtLand id s
  | .divRemLand id => Sys2Proof.Machine.execDivRemLand id s
  | .vrstLand id => Sys2Proof.Machine.execVrstLand id s
  | .lrefillLand id => Sys2Proof.Machine.execLrefillLand id s
  | .storePerform id => Sys2Proof.Machine.execStorePerform id s
  | .fenceComplete id => Sys2Proof.Machine.execFenceComplete id s
  | .waitBReturn tid => Sys2Proof.Machine.execWaitBReturn tid s
  | .homeSliceServe slice arrivals => Sys2Proof.Machine.execHomeSliceServe slice arrivals s
  | .multicastEntryExpiry slice line => Sys2Proof.Machine.execMulticastEntryExpiry slice line s
  | .l1WritebackDeadline core at0 => Sys2Proof.Machine.execL1WritebackDeadline core at0 s
  | .codecDecode core => Sys2Proof.Machine.execCodecDecode core s
  | .codecWriteBack core err => Sys2Proof.Machine.execCodecWriteBack core err s
  | .hbmAdmit die bank => Sys2Proof.Machine.execHbmAdmit die bank s
  | .hbmBankService die bank row err => Sys2Proof.Machine.execHbmBankService die bank row err s
  | .activationCounterReset => Sys2Proof.Machine.execActivationCounterReset s
  | .bankRetryLeave die bank => Sys2Proof.Machine.execBankRetryLeave die bank s
  | .pageWalk core slot root va acc => Sys2Proof.Machine.execPageWalk core slot root va acc s
  | .translationReplay tid => Sys2Proof.Machine.execTranslationReplay tid s
  | .tlbinvGo => Sys2Proof.Machine.execTlbinvGo s
  | .tlbinvComplete => Sys2Proof.Machine.execTlbinvComplete s
  | .residencyMapWrite n off size v => Sys2Proof.Machine.execResidencyMapWrite n off size v s
  | .residencyChangeComplete n => Sys2Proof.Machine.execResidencyChangeComplete n s
  | .chainStart u => Sys2Proof.Machine.execChainStart u s
  | .pieceWrite u => Sys2Proof.Machine.execPieceWrite u s
  | .chainReplay u => Sys2Proof.Machine.execChainReplay u s
  | .copy u c => Sys2Proof.Machine.execCopy u c s
  | .copy2d u c => Sys2Proof.Machine.execCopy2d u c s
  | .gather u c => Sys2Proof.Machine.execGather u c s
  | .tgather u c => Sys2Proof.Machine.execTgather u c s
  | .mcast u c => Sys2Proof.Machine.execMcast u c s
  | .trans u c => Sys2Proof.Machine.execTrans u c s
  | .select u c => Sys2Proof.Machine.execSelect u c s
  | .flush u c => Sys2Proof.Machine.execFlush u c s
  | .inval u c => Sys2Proof.Machine.execInval u c s
  | .setattr u c => Sys2Proof.Machine.execSetattr u c s
  | .unlock u c => Sys2Proof.Machine.execUnlock u c s
  | .loop u c => Sys2Proof.Machine.execLoop u c s
  | .ifCmd u c => Sys2Proof.Machine.execIfCmd u c s
  | .cmdArrive u c => Sys2Proof.Machine.execCmdArrive u c s
  | .waitbCmd u c => Sys2Proof.Machine.execWaitbCmd u c s
  | .ppt u c => Sys2Proof.Machine.execPpt u c s
  | .endCmd u c => Sys2Proof.Machine.execEndCmd u c s
  | .cmdMlds u c => Sys2Proof.Machine.execCmdMlds u c s
  | .cmdMswp u c => Sys2Proof.Machine.execCmdMswp u c s
  | .cmdMstr u c => Sys2Proof.Machine.execCmdMstr u c s
  | .cmdMgrp u c => Sys2Proof.Machine.execCmdMgrp u c s
  | .cmdMdrn u c => Sys2Proof.Machine.execCmdMdrn u c s
  | .cmdMhist u c => Sys2Proof.Machine.execCmdMhist u c s
  | .cmdMclr u c => Sys2Proof.Machine.execCmdMclr u c s
  | .decide => Sys2Proof.Machine.execDecide s
  | .preemptSave sheaf => Sys2Proof.Machine.execPreemptSave sheaf s
  | .resumeRelease sheaf => Sys2Proof.Machine.execResumeRelease sheaf s
  | .sheafRetire sheaf => Sys2Proof.Machine.execSheafRetire sheaf s
  | .graphInstanceAdmit g => Sys2Proof.Machine.execGraphInstanceAdmit g s
  | .retentionEntry cl => Sys2Proof.Machine.execRetentionEntry cl s
  | .retentionExit cl lost => Sys2Proof.Machine.execRetentionExit cl lost s
  | .clholdWrite cl v => Sys2Proof.Machine.execClholdWrite cl v s
  | .clkctlWrite cl v => Sys2Proof.Machine.execClkctlWrite cl v s
  | .boostctlWrite v => Sys2Proof.Machine.execBoostctlWrite v s
  | .boostWindowClose => Sys2Proof.Machine.execBoostWindowClose s
  | .controlRegisterWrite off size v => Sys2Proof.Machine.execControlRegisterWrite off size v s
  | .attestationRequest nonce => Sys2Proof.Machine.execAttestationRequest nonce s
  | .packageReset firmware steward fused pkt => Sys2Proof.Machine.execPackageReset firmware steward fused pkt s
  | .hostCxlMemAccess addr len wr => Sys2Proof.Machine.execHostCxlMemAccess addr len wr s
  | .peerAccess j addr len wr => Sys2Proof.Machine.execPeerAccess j addr len wr s
  | .linkStateChange l up => Sys2Proof.Machine.execLinkStateChange l up s
  | .scrub line unc => Sys2Proof.Machine.execScrub line unc s
  | .telemetryWrite die temp pw0 pw1 granErr hbmErr => Sys2Proof.Machine.execTelemetryWrite die temp pw0 pw1 granErr hbmErr s
  | .vfTableReplan cl mhz => Sys2Proof.Machine.execVfTableReplan cl mhz s
  | .hostCacheSnoop line wr => Sys2Proof.Machine.execHostCacheSnoop line wr s
  | .linkResponse id ans => Sys2Proof.Machine.execLinkResponse id ans s
  | .boostWindowOpen => Sys2Proof.Machine.execBoostWindowOpen s
  | .temperatureChange cl mhz => Sys2Proof.Machine.execTemperatureChange cl mhz s
  | .msixMaskChange vec masked => Sys2Proof.Machine.execMsixMaskChange vec masked s
  | .sysStatusLand id => Sys2Proof.Machine.execSysStatusLand id s

end Sys2Proof.Machine
end

