-- ==== Sys2Proof/Machine/Turns.lean ====
section
/-! DEFINITION. What runs next: the turns that are listed, and where none is, the next cycle of the core whose clock is least (log 2); with the fetch of an engine's command (R303), the steps that must wait (R103, R259, R366), and the placing of one instruction as the next (log 15). -/

namespace Sys2Proof.Machine

/-- What a step does. -/
inductive Ask where
  /-- A state reached without an instruction of the table: a record sent, or a word that waits or faults before it is decoded. -/
  | next (s : State)
  /-- An instruction to be executed. -/
  | run (i : Instr) (s : State)
  /-- A turn of a tiller that has no clause under way. -/
  | noClause

/-- Whether a core's clock stands before another's. -/
def State.clockBefore (s : State) (a b : Nat) : Bool := Nat.blt (s.core a).clock (s.core b).clock

/-- The core that runs next: one in the middle of a cycle, else the one whose clock is least, the lowest numbered of several. -/
def State.nextCore (s : State) : Nat :=
  match s.cores.find? fun e => e.2.openCls.isSome with
  | some e => e.1
  | none => (List.range 256).foldl (fun b c => if s.clockBefore c b then c else b) 0

/-- The turn of an engine unit: its chain's next command, or the stop of a chain whose command lies beyond the allocation or has no assigned code (R302, R303). -/
def State.askEngine (s : State) (u : Nat) : Ask :=
  let g := s.engine u
  match g.chain, g.dataWork with
  | some c, none =>
    if c.park.isSome || !s.chainsGo c then .next s
    else
      match s.curCmd g c with
      | none => .next (s.stopChain u 0x13 0)
      | some w =>
        match decodeCmd u w with
        | some i => .run i s
        | none => .next (s.stopChain u 0x10 0)
  | some _, some _ | none, _ => .next s

/-- The turn of a tiller: the next word of its clause (R185); one that has been held back since, or whose word waits for the codec, issues nothing. -/
def State.askTiller (s : State) (tid : Nat) : Ask :=
  let s1 : State := { s with cur := tid }
  if s.blocked tid || (s.grant.isNone && s.turnHeld (.tiller tid)) then .next s
  else
  match s1.tl.run with
  | none => .noClause
  | some r =>
    match s1.issue r with
    | .stay s2 => .next s2
    | .run i s2 => .run i s2

/-- What a step does: the first turn that is listed, or the next cycle. -/
def State.ask (s : State) : Ask :=
  match s.turns with
  | [] => .run (.cycle s.nextCore) s
  | .ev i :: rest => .run i { s with turns := rest }
  | .tiller tid :: rest => State.askTiller { s with turns := rest } tid
  | .engine u :: rest => State.askEngine { s with turns := rest } u
  | .record q bs :: rest => .next (State.sendRecord { s with turns := rest } q bs)

/-! ## Steps that must wait -/

/-- A back-invalidation of a line sent to the host, for an access that waits for it (R366). -/
def State.callLine (s : State) (line : Nat) : State :=
  if s.called line then s
  else
    ({ s with pkg := s.pkg.unsnoop (s.partOf line) line, fresh := s.fresh + 1 } : State).toLink
      ⟨s.fresh, 256, 0, none, ⟨line, 0, 0⟩, line, .write [] false, 0, 0⟩ true

/-- What a turn that must wait leaves behind it: it is listed again at the end of the cycle. A tiller's word issues again in the next cycle, and an engine's turn is listed with it. -/
def Turn.again : Turn → List Turn
  | .ev i => [.ev i]
  | .record q bs => [.record q bs]
  | .tiller _ | .engine _ => []

/-- The blocks of the needs that write, or of those that do not, each once. -/
def needBlocks (wr : Bool) (ns : List Need) : List (Nat × Nat) :=
  (ns.filter fun n => n.wr == wr).foldl (fun l n => addNew l (n.base, n.rate)) []

/-- A turn that needs the codec takes its place in the codec's queue, in arrival order (R103, R111). -/
def State.askCodec (s : State) (u : Turn) (ns : List Need) : State :=
  match ns with
  | [] => s
  | n :: _ =>
    s.pushJob n.core { CodecJob.of (.device u (needBlocks false ns) (needBlocks true ns)) n.base n.rate 0 0 0 with
      left := ns.foldl (fun k x => k + x.cost) 0, hint := n.hint }

/-- A turn that has waited listed again, or, where it needs the codec, queued there; with the calls to the host that it makes. -/
def State.putOff (s t : State) (u : Turn) (rest : List Turn) : State :=
  t.calls.foldl State.callLine
    (if t.needs.isEmpty || s.grant.isSome then { s with turns := rest, later := s.later ++ u.again, grant := none } else ({ s with turns := rest } : State).askCodec u t.needs)

/-- The codec that has come to a step goes on once the step is over (R103, R111). -/
def State.letCodec (s : State) (grant : Option Nat) : State :=
  match grant with
  | some core => ({ s with grant := none, needs := [] } : State).popJob core
  | none => s

/-- The outcome of a step: one whose accesses must wait, for a codec, a lock, a change of contract or the host, has no effect but its place in the codec's queue and the calls to the host (R103, R111, R259, R366). A cycle never waits. -/
def State.gate (s : State) (o : Result State) : Result State :=
  match o with
  | .next t =>
    (match s.turns with
    | [] => .next { t with waits := false, calls := [], needs := [] }
    | u :: rest => if !t.waits && t.calls.isEmpty then .next (t.letCodec s.grant) else .next ((s.putOff t u rest).letCodec s.grant))
  | .fault f => .fault f
  | .refused r => .refused r

/-- A clause of one instruction: its header, the instruction's word, and its literal where it takes one. -/
def clauseOf (w lit : Word) : List Word :=
  if opTakesLit (fOp w).toNat then [0xF2, w, lit] else [0xF1, w]

/-- The tiller at position 0 with a clause of one instruction under way. -/
def placedTiller (w lit : Word) : Tiller :=
  let ws := clauseOf w lit
  { Tiller.blank with live := true, run := some ⟨0, ws.length - 1, ws, 1, false, 3, false, false⟩ }

end Sys2Proof.Machine
end

