-- ==== Sys2Proof/Machine/Step.lean ====
section
/-! DEFINITION. The step of the package: what is next (R183, log 2) is executed. -/

namespace Sys2Proof.Machine

/-- One step; what must wait for another access has no effect yet. -/
def step (s : State) : Host.Outcome State Fault Refusal :=
  match s.ask with
  | .next s1 => s.gate (.next s1)
  | .run i s1 => s.gate (exec i s1)
  | .noClause => .fault .noClause

/-- The state with one instruction as the next word that issues: a clause that holds it alone is under way at tiller position 0, whose turn is next (log 15). -/
def State.withFetchWord (s : State) (nbits w : Nat) : State :=
  let n := w % 2 ^ nbits
  ({ s with turns := [.tiller 0] } : State).setTiller 0 (placedTiller (bv 32 n) (bv 32 (n / 2 ^ 32)))

end Sys2Proof.Machine
end

