-- ==== Sys2Proof/Safety.lean ====
section
/-! DEFINITION. What counts as a safe run, and the invariants that claims rest on. -/

namespace Sys2Proof.Machine

/-- An outcome that stops nothing. -/
def Goes (r : Host.Outcome State Fault Refusal) : Prop := ∃ t, r = .next t

/-- Physical memory is in its canonical form: addresses rise, and no listed byte is the one that an unlisted address reads as. -/
def State.memOk (s : State) : Prop := Memory.wf s.mem = true

/-- A tiller's scalar 0 and mask 0 are never stored: s0 reads 0 and m0 reads all ones from no register (R113, R115). -/
def Tiller.hardOk (t : Tiller) : Prop := t.rs 0 = 0 ∧ t.rm 0 = 0xFFFFFFFF

end Sys2Proof.Machine
end

