-- ==== Sys2Proof/Certificates/Slice0/Obligations.lean ====
section
/-! DEFINITION. The statements for the provers. First, in the namespace Says, what the rules of the spec say, in terms of numbers, lists and the model's accessors; then one proposition for each statement. -/

namespace Sys2Proof.Says

open Sys2Proof.Machine

/-! ### Scalar integers and masks (R127 to R134, R137, R140, R141, R151) -/

/-- An integer wrapped to 32 bits. -/
def w32 (x : Int) : Word := BitVec.ofInt 32 x

/-- An integer wrapped to 64 bits. -/
def w64 (x : Int) : DWord := BitVec.ofInt 64 x

/-- A word as an integer, signed or not. -/
def val (sg : Bool) (x : Word) : Int := if sg then x.toInt else (x.toNat : Int)

/-- The conditions of R129, on integers. -/
def cond {n : Nat} (c : Cond) (a b : BitVec n) : Bool :=
  match c with
  | .eq => decide (a.toNat = b.toNat)
  | .ne => decide (a.toNat ≠ b.toNat)
  | .lt => decide (a.toInt < b.toInt)
  | .le => decide (a.toInt ≤ b.toInt)
  | .ltu => decide (a.toNat < b.toNat)
  | .leu => decide (a.toNat ≤ b.toNat)
  | .tst => decide ((a &&& b).toNat ≠ 0)

/-- How many of the first n bits are set. -/
def ones (x : Word) (n : Nat) : Nat := ((List.range n).map fun i => (x.getLsbD i).toNat).sum

/-- The field length of R131. -/
def fieldLen (b : Word) : Nat := if b.toNat / 32 % 32 = 0 then 32 else b.toNat / 32 % 32

/-- Bits of a 32-bit result, one by one. -/
def bitsAre (x : Word) (f : Nat → Bool) : Prop := ∀ k, k < 32 → x.getLsbD k = f k

/-- R130, bit by bit or as a count. -/
def bituIs (f : BitFn) (a x : Word) : Prop :=
  match f with
  | .popc => x.toNat = ones a 32
  | .clz => if a = 0 then x.toNat = 32 else x.toNat < 32 ∧ a.getLsbD (31 - x.toNat) = true ∧ ∀ k, 31 - x.toNat < k → a.getLsbD k = false
  | .ctz => if a = 0 then x.toNat = 32 else x.toNat < 32 ∧ a.getLsbD x.toNat = true ∧ ∀ k, k < x.toNat → a.getLsbD k = false
  | .brev => bitsAre x fun k => a.getLsbD (31 - k)
  | .sext8 => bitsAre x fun k => a.getLsbD (min k 7)
  | .sext16 => bitsAre x fun k => a.getLsbD (min k 15)
  | .zext8 => x.toNat = a.toNat % 256
  | .zext16 => x.toNat = a.toNat % 65536

/-- R127 on words: the operations that VADD and its fellows share (R135). -/
def lanewise : Instr → Option (Word → Word → Word)
  | .add .. | .vadd .. => some fun a b => w32 (a.toInt + b.toInt)
  | .sub .. | .vsub .. => some fun a b => w32 (a.toInt - b.toInt)
  | .mul .. | .vmul .. => some fun a b => w32 (a.toInt * b.toInt)
  | .mulh _ sg .. | .vmulh _ sg .. => some fun a b => w32 (val sg a * val sg b / 2 ^ 32)
  | .and .. | .vand .. => some fun a b => a &&& b
  | .or .. | .vor .. => some fun a b => a ||| b
  | .xor .. | .vxor .. => some fun a b => a ^^^ b
  | .andn .. => some fun a b => a &&& ~~~b
  | .shl .. | .vshl .. => some fun a b => w32 (a.toNat * 2 ^ (b.toNat % 32))
  | .shr .. | .vshr .. => some fun a b => w32 (a.toNat / 2 ^ (b.toNat % 32))
  | .sar .. | .vsar .. => some fun a b => w32 (a.toInt / 2 ^ (b.toNat % 32))
  | .ror .. => some fun a b => w32 (a.toNat / 2 ^ (b.toNat % 32) + a.toNat % 2 ^ (b.toNat % 32) * 2 ^ (32 - b.toNat % 32))
  | .min _ sg .. | .vmin _ sg .. => some fun a b => w32 (Min.min (val sg a) (val sg b))
  | .max _ sg .. | .vmax _ sg .. => some fun a b => w32 (Max.max (val sg a) (val sg b))
  | .bfx .. | .vbfx .. => some fun a b => w32 (a.toNat / 2 ^ (b.toNat % 32) % 2 ^ fieldLen b)
  | _ => none

/-- The scalar an instruction writes and its value: the park bit, the destination and the value, from the tiller's registers. -/
def scalarWrite (i : Instr) (t : Tiller) : Option (Bool × SReg × Word) :=
  match i with
  | .add p d a b | .sub p d a b | .mul p d a b | .mulh p _ d a b | .and p d a b | .or p d a b | .xor p d a b
  | .andn p d a b | .shl p d a b | .shr p d a b | .sar p d a b | .ror p d a b | .min p _ d a b | .max p _ d a b
  | .bfx p d a b => (lanewise i).map fun f => (p, d, f (t.rs a) (t.rs b))
  | .cmp p c d a b => some (p, d, w32 (cond c (t.rs a) (t.rs b)).toNat)
  | .cmp64 p c d a b => some (p, d, w32 (cond c (t.rp a) (t.rp b)).toNat)
  | .sel p d a b => some (p, d, if t.rs d = 0 then t.rs b else t.rs a)
  | .addi p d a x => some (p, d, w32 ((t.rs a).toInt + x.toInt))
  | .andi p d a x => some (p, d, t.rs a &&& x.signExtend 32)
  | .ori p d a x => some (p, d, t.rs a ||| x.signExtend 32)
  | .shli p d a x => some (p, d, w32 ((t.rs a).toNat * 2 ^ x.toNat))
  | .movl p d x => some (p, d, x)
  | .movs p d a => some (p, d, t.rs a)
  | .movsLane p d a l => some (p, d, (t.rv a).lane l.toNat)
  | .movsFrm p d m => some (p, d, t.rm m)
  | .movsCnt p d => some (p, d, w32 (ones t.act 32))
  | _ => none

/-- The scalar pair an instruction writes and its value (R132). -/
def pairWrite (i : Instr) (t : Tiller) : Option (Bool × SReg × DWord) :=
  match i with
  | .add64 p d a b => some (p, d, w64 ((t.rp a).toInt + (t.rp b).toInt))
  | .sub64 p d a b => some (p, d, w64 ((t.rp a).toInt - (t.rp b).toInt))
  | .mul64 p d a b => some (p, d, w64 ((t.rp a).toInt * (t.rp b).toInt))
  | .sh64 p .shl d a b => some (p, d, w64 ((t.rp a).toNat * 2 ^ ((t.rs b).toNat % 64)))
  | .sh64 p .shr d a b => some (p, d, w64 ((t.rp a).toNat / 2 ^ ((t.rs b).toNat % 64)))
  | .sh64 p .sar d a b => some (p, d, w64 ((t.rp a).toInt / 2 ^ ((t.rs b).toNat % 64)))
  | _ => none

/-- The mask an instruction writes, bit by bit (R134, R137, R140, R151). -/
def maskWrite (i : Instr) (t : Tiller) : Option (Bool × MReg × (Nat → Bool)) :=
  match i with
  | .movsTom p m a => some (p, m, fun k => (t.rs a).getLsbD k)
  | .vcmp p c m a b => some (p, m, fun k => t.act.getLsbD k && cond c ((t.rv a).lane k) ((t.rv b).lane k))
  | .mop p f d a b => some (p, d, fun k =>
      let x := (t.rm a).getLsbD k
      let y := (t.rm b).getLsbD k
      match f with
      | .and => x && y
      | .or => x || y
      | .xor => x != y
      | .andn => x && !y
      | .not => !x
      | .mov => x
      | .set => true
      | .clear => false)
  | .fcmp p f64 q m a b => some (p, m, fun k =>
      let f := fmtOf f64
      let o := (f.num (t.fval f64 k a)).cmp (f.num (t.fval f64 k b))
      t.act.getLsbD k &&
      match q with
      | .eq => o == some .eq
      | .ne => o != some .eq
      | .lt => o == some .lt
      | .le => o == some .lt || o == some .eq
      | .gt => o == some .gt
      | .ge => o == some .gt || o == some .eq
      | .ord => o != none
      | .uno => o == none
      | .ueq => o == none || o == some .eq
      | .one => o == some .lt || o == some .gt
      | .ult => o == none || o == some .lt
      | .ule => o == none || o == some .lt || o == some .eq
      | .ugt => o == none || o == some .gt
      | .uge => o == none || o == some .gt || o == some .eq)
  | _ => none

/-- R141 on a mask. -/
def mqIs (f : MqFn) (a x : Word) : Prop :=
  match f with
  | .popc => x.toNat = ones a 32
  | .first => if a = 0 then x.toNat = 32 else x.toNat < 32 ∧ a.getLsbD x.toNat = true ∧ ∀ k, k < x.toNat → a.getLsbD k = false
  | .last => if a = 0 then x.toNat = 32 else x.toNat < 32 ∧ a.getLsbD x.toNat = true ∧ ∀ k, x.toNat < k → a.getLsbD k = false
  | .any => x = if a = 0 then 0 else 1
  | .all => x = if a = 0xFFFFFFFF then 1 else 0

end Sys2Proof.Says

namespace Sys2Proof.Says

open Sys2Proof.Machine

/-! ### Clauses, paths and traps (R24, R142, R170 to R180, R330 to R336) -/

/-- A tiller outside handler mode whose clause issues from a slot, on the only path it has. -/
def onePath (t : Tiller) (r : Run) : Prop :=
  t.run = some r ∧ t.hnd = false ∧ r.handler = false ∧ t.count = 0 ∧ t.exited = false ∧
  (t.slot r.slotB).st = .ready ∧ (t.slot (!r.slotB)).st = .empty

/-- The GAP field and the GIVE bit of a header (R24). -/
def gap (r : Run) : Nat := ((lget 0 r.words 0).extractLsb' 24 3).toNat
def give (r : Run) : Bool := (lget 0 r.words 0).getLsbD 27

/-- What the end of a clause leaves a tiller beside its program counter: no clause under way, its GAP counted from the cycle of the core that now runs, or from the one in which its last word issued and then waited, its GIVE kept. -/
def clauseEnd (s : State) (t : Tiller) (r : Run) (p demote : Bool) : Tiller :=
  { t with
    run := none, again := false, parkP := p, lastB := if r.handler then t.lastB else r.slotB
    gapEnd := if t.again then t.gapEnd else (s.core (coreOf s.cur)).cycles + 1 + gap r
    demoted := t.demoted || demote || give r }

/-- Where a branch of R176 goes: its park bit and the address, from the clause under way. -/
def branchTo (i : Instr) (t : Tiller) (r : Run) : Option (Bool × Word) :=
  let fall := r.hdr + BitVec.ofNat 32 (4 * (r.n + 1))
  match i with
  | .bra p o => some (p, r.hdr + w32 (4 * o.toInt))
  | .braSpin p o => if 0 < o.toInt then some (p, r.hdr + w32 (4 * o.toInt)) else none
  | .bz p x o => some (p, if (t.rs x).toNat = 0 then r.hdr + w32 (4 * o.toInt) else fall)
  | .bnz p x o => some (p, if (t.rs x).toNat ≠ 0 then r.hdr + w32 (4 * o.toInt) else fall)
  | .jmpr p x => if (t.rs x).toNat % 4 = 0 then some (p, t.rs x) else none
  | _ => none

/-- The lanes that take a BM or a BMN, its park bit and its target (R177). -/
def lanesTaken (i : Instr) (t : Tiller) (r : Run) : Option (Bool × Word × Word) :=
  match i with
  | .bm p m o => some (p, (t.slot r.slotB).mask &&& t.rm m, r.hdr + w32 (4 * o.toInt))
  | .bmn p m o => some (p, (t.slot r.slotB).mask &&& ~~~t.rm m, r.hdr + w32 (4 * o.toInt))
  | _ => none

/-- The words that handler mode forbids for the path they move (R334). -/
def notInHandler : Instr → Prop
  | .bm .. | .bmn .. | .jset .. | .yield _ | .yieldSpin _ => True
  | .braSpin _ o => o.toInt ≤ 0
  | _ => False

/-- The words that rotate a path: park bit, the address it goes on at and whether the end demotes (R180). -/
def rotates (i : Instr) (r : Run) : Option (Bool × Word × Bool) :=
  let fall := r.hdr + BitVec.ofNat 32 (4 * (r.n + 1))
  match i with
  | .yield p => some (p, fall, false)
  | .yieldSpin p => some (p, fall, true)
  | .braSpin p o => if o.toInt ≤ 0 then some (p, r.hdr + w32 (4 * o.toInt), true) else none
  | _ => none

/-- The lowest-numbered slot's entry of the vector table that a KIND takes (R330). -/
def vector (t : Tiller) (s : State) (kind : Nat) : Word := BitVec.ofNat 32 (lget 1 (s.launch (s.sheaf t.sheaf).launch).pkt.trapv (vecOf kind))

/-- TSTAT's fields and the trap registers after an entry: what R332 saves of the interrupted point, and where the handler starts. -/
def entered (t : Tiller) (kind : Nat) (i0 i1 tpc : Word) (widx : Nat) (r : Run) (vec : Word) : Tiller :=
  { t.setSlot r.slotB { t.slot r.slotB with pc := r.hdr } with
    tcause := BitVec.ofNat 32 (kind + 256 * vecOf kind), tinfo0 := i0, tinfo1 := i1, tpc := tpc
    widx := widx, cln := r.n, clk := r.cls, rslot := r.slotB, hnd := true, hpc := vec
    run := none, lastB := if widx = 0 ∧ kind ≠ 0x0D then t.lastB else r.slotB
    block := .none, step := none, parkP := false, again := false, vtag := none }

/-- A slot as R336 makes it agree with R170: none as the device holds it, without the lanes of `less`, and gone where no lane is left. -/
def agreed (p : Slot) (less : Word) : Slot :=
  let q := { p with join := normJoin p.join, outr := normJoin p.outr, mask := p.mask &&& ~~~less }
  if q.st ≠ .empty ∧ q.mask = 0 then ⟨.empty, p.pc, 0, joinNone, joinNone⟩ else q

/-- The lanes of the path that a slot holds. -/
def pathLanes (p : Slot) : Word := if p.st = .empty then 0 else p.mask

/-- A tiller as RTE takes it out of handler mode, its clause over: its slots agreed, their lanes live, and after a resume at a header that header's slot next (R172, R336). -/
def outOfHandler (t : Tiller) : Tiller :=
  let a := agreed t.slotA 0
  let b := agreed t.slotB t.slotA.mask
  { t with
    hnd := false, slotA := a, slotB := b, lanes := t.lanes ||| pathLanes a ||| pathLanes b
    lastB := if t.tcause.toNat % 256 = 0x12 then decide (t.rslot = decide (t.widx ≠ 0)) else t.lastB }

/-- Where a tiller out of handler mode goes on, and the slot whose path Settle does not count as arrived: at TPC as a header, in the middle of the interrupted clause, or after it (R336). -/
def goesOnAt (t : Tiller) : Tiller × Option Bool :=
  let x := t.slot t.rslot
  let off := (t.tpc - x.pc).toNat
  if x.st ≠ .ready then (t, none)
  else if t.widx = 0 then (t.setSlot t.rslot { x with pc := t.tpc }, none)
  else if 4 ≤ off ∧ off ≤ 4 * t.cln then ({ t with run := some ⟨x.pc, t.cln, [], off / 4, t.rslot, t.clk, false, decide (0 < t.repcnt)⟩ }, some t.rslot)
  else (t.setSlot t.rslot { x with pc := x.pc + BitVec.ofNat 32 (4 * (t.cln + 1)) }, none)

/-- The registers that a resume's RTE has read from 0x40 of the frame on: s1 to s59 and m1 to m7, word by word (R336, R340). -/
def framed (t u : Tiller) (bs : List Byte) : Prop :=
  let w (o : Nat) : Word := BitVec.ofNat 32 (natOfBytes ((bs.drop (o - 0x40)).take 4))
  (∀ r : SReg, u.rs r = if 1 ≤ r.toNat ∧ r.toNat ≤ 59 then w (0x60 + 4 * r.toNat) else t.rs r) ∧
  (∀ r : MReg, u.rm r = if r = 0 then t.rm r else w (0x40 + 4 * r.toNat)) ∧ { u with s := t.s, m := t.m } = t

end Sys2Proof.Says

namespace Sys2Proof.Says

open Sys2Proof.Machine

/-! ### Vectors and floating point (R117 to R123, R135 to R139, R146 to R168) -/

/-- An integer vector instruction: its park bit, its destination, its value in each lane, and the tag of its result under a full mask (R120, R135, R138, R139, R164, R167). -/
def vecWrite (i : Instr) (t : Tiller) : Option (Bool × VNum × (Nat → Word) × Nat) :=
  match i with
  | .vadd p d a b | .vsub p d a b =>
    (lanewise i).map fun f => (p, d, fun k => f ((t.rv a).lane k) ((t.rv b).lane k),
      if (t.rv a).tag = 2 ∨ (t.rv b).tag = 2 then 2 else max (t.rv a).tag (t.rv b).tag)
  | .vmul p d a b =>
    (lanewise i).map fun f => (p, d, fun k => f ((t.rv a).lane k) ((t.rv b).lane k),
      if (t.rv a).tag = 2 ∨ (t.rv b).tag = 2 then 2 else (t.rv a).tag + (t.rv b).tag)
  | .vshl p d a b =>
    (lanewise i).map fun f => (p, d, fun k => f ((t.rv a).lane k) ((t.rv b).lane k), if (t.rv b).tag = 0 then (t.rv a).tag else 2)
  | .vmulh p _ d a b | .vand p d a b | .vor p d a b | .vxor p d a b | .vshr p d a b | .vsar p d a b
  | .vmin p _ d a b | .vmax p _ d a b | .vbfx p d a b =>
    (lanewise i).map fun f => (p, d, fun k => f ((t.rv a).lane k) ((t.rv b).lane k), 2)
  | .vsel p d a b m => some (p, d, fun k => if (t.rm m).getLsbD k then (t.rv a).lane k else (t.rv b).lane k, 2)
  | .vmov p d a => some (p, d, (t.rv a).lane, (t.rv a).tag)
  | .vmovG p d a => some (p, d, (t.rv a).lane, 2)
  | .vmovSc p d a => some (p, d, fun _ => t.rs a, 0)
  | .vidx p d => some (p, d, fun k => w32 k, 1)
  | .vaff p d a b => some (p, d, fun k => w32 ((t.rs a).toInt + k * (t.rs b).toInt), 1)
  | .vaddi p d a x => some (p, d, fun k => w32 (((t.rv a).lane k).toInt + x.toInt), (t.rv a).tag)
  | .vdot4 p sg d a b => some (p, d, fun k =>
      let e (r : VNum) (j : Nat) : Int := if sg then (((t.rv r).lane k).extractLsb' (8 * j) 8).toInt else (((t.rv r).lane k).extractLsb' (8 * j) 8).toNat
      w32 (((t.rv d).lane k).toInt + e a 0 * e b 0 + e a 1 * e b 1 + e a 2 * e b 2 + e a 3 * e b 3), 2)
  | .shfl p f d a b => some (p, d, fun k =>
      let n := ((t.rv b).lane k).toNat % 32
      (t.rv a).lane (match f with
        | .idx => n
        | .up => if n ≤ k then k - n else k
        | .down => if k + n < 32 then k + n else k
        | .xor => k ^^^ n), 2)
  | _ => none

/-- The lanes of a register after a write under a mask (R117). -/
def lanesAre (m : Word) (old new : VReg) (f : Nat → Word) : Prop :=
  ∀ k, k < 32 → new.lane k = if m.getLsbD k then f k else old.lane k

/-- A flag of many lanes together: set before, or raised by an active lane (R74). -/
def flagsAre (m : Word) (old new : Flags) (f : Nat → Nat × Flags) : Prop :=
  ∀ b, b < 7 → (new.getLsbD b = true ↔ old.getLsbD b = true ∨ ∃ k, k < 32 ∧ m.getLsbD k = true ∧ (f k).2.getLsbD b = true)

/-- Each half of a lane on its own (R62, R146, R148). -/
def halves (g : (VNum → Nat) → Nat × Flags) (x : VNum → Nat) : Nat × Flags :=
  let l := g fun r => x r % 65536
  let h := g fun r => x r / 65536
  (l.1 % 65536 + 65536 * (h.1 % 65536), l.2 ||| h.2)

/-- An elementwise operation at a type (R146). -/
def elems (t : Tiller) (ty : FTy) (g : Fmt → (VNum → Nat) → Nat × Flags) (k : Nat) : Nat × Flags :=
  let one (r : VNum) : Nat := ((t.rv r).lane k).toNat
  let two (r : VNum) : Nat := one r + 2 ^ 32 * one (r + 1)
  match ty with
  | .f32 => g fp32 one
  | .f64 => g fp64 two
  | .h2 => halves (g fp16) one
  | .b2 => halves (g bf16) one

def tyOf (f64 : Bool) : FTy := if f64 then .f64 else .f32

/-- A floating-point or function-unit instruction of fixed latency: its park bit, whether its result is a pair, its destination, the registers it reads, and the result and flags of each lane (R148 to R158, R163, R168). -/
def fpWrite (i : Instr) (s : State) : Option (Bool × Bool × VNum × List VNum × (Nat → Nat × Flags)) :=
  let t := s.tl
  let w (b : Bool) (rs : List VNum) : List VNum := if b then rs ++ rs.map (· + 1) else rs
  match i with
  | .fadd p ty d a b => some (p, ty == .f64, d, w (ty == .f64) [a, b], elems t ty fun f v => f.add (v a) (v b))
  | .fsub p ty d a b => some (p, ty == .f64, d, w (ty == .f64) [a, b], elems t ty fun f v => f.sub (v a) (v b))
  | .fmul p ty d a b => some (p, ty == .f64, d, w (ty == .f64) [a, b], elems t ty fun f v => f.mul (v a) (v b))
  | .ffma p ty d a b => some (p, ty == .f64, d, w (ty == .f64) [a, b, d], elems t ty fun f v => f.fma (v a) (v b) (v d))
  | .fmin p ty d a b => some (p, ty == .f64, d, w (ty == .f64) [a, b], elems t ty fun f v => (f.minMax true (v a) (v b), 0))
  | .fmax p ty d a b => some (p, ty == .f64, d, w (ty == .f64) [a, b], elems t ty fun f v => (f.minMax false (v a) (v b), 0))
  | .fsgn p f64 g d a b =>
    some (p, f64, d, w f64 (match g with
      | .copysign => [a, b]
      | _ => [a]), elems t (tyOf f64) fun f v =>
      let top := 2 ^ (f.mb + f.eb)
      let sg := match g with
        | .abs => 0
        | .neg => 1 - v a / top % 2
        | .nabs => 1
        | .copysign => v b / top % 2
      (if f.num (v a) = .nan then f.canon else v a % top + top * sg, 0))
  | .frcpe p d a => some (p, false, d, [a], fun k => rcpEst ((t.rv a).lane k).toNat)
  | .frnd p rm d a => some (p, false, d, [a], elems t .f32 fun f v => (f.integral rm (v a), 0))
  | .frnd64 p rm d a => some (p, true, d, [a, a + 1], elems t .f64 fun f v => (f.integral rm (v a), 0))
  | .fclass p f64 d a => some (p, false, d, w f64 [a], elems t (tyOf f64) fun f v => (f.classBit (v a), 0))
  | .cvt p c rm d a => some (p, c.wideD, d, w c.wideA [a], elems t (tyOf c.wideA) fun _ v => cvtOne c rm (v a))
  | .cvtn p f d a b => some (p, false, d, [a, b], elems t .f32 fun _ v => cvtnOne f (v a) (v b % 256))
  | .cvtw p f d a b => some (p, false, d, [a, b], elems t .f32 fun _ v => cvtwOne f (v a) (v b % 256))
  | .pwpe p d a => some (p, false, d, [a], elems t .f32 fun _ v => pwpEval (s.wg (s.wgIdOf s.cur)).segs (v a))
  | .fdot2 p bf d a b => some (p, false, d, [a, b, d], elems t .f32 fun _ v => dot2One (if bf then bf16 else fp16) (v d) (v a) (v b))
  | _ => none

/-- A function unit's split-phase operation: its landing row, its result and the class-3 cycles to its landing (R85, R147, R155). -/
def unitWrite (i : Instr) (t : Tiller) : Option (Bool × Bool × VNum × List VNum × LandRow × Nat × (Nat → Nat × Flags)) :=
  let w (b : Bool) (rs : List VNum) : List VNum := if b then rs ++ rs.map (· + 1) else rs
  match i with
  | .fdiv p f64 d a b => some (p, f64, d, w f64 [a, b], .divf, if f64 then 28 else 14, elems t (tyOf f64) fun f v => f.div (v a) (v b))
  | .fsqrt p f64 d a => some (p, f64, d, w f64 [a], .divf, if f64 then 28 else 14, elems t (tyOf f64) fun f v => f.sqrt (v a))
  | .cord p f64 f n d a => some (p, f64, d, w f64 [a], .cord, n.toNat + 6, elems t (tyOf f64) fun _ v => cordOne f64 f n.toNat (v a))
  | _ => none

/-- The tag of a floating-point result (R120): U where the mask is full and every register read is U, else G. -/
def fpTag (t : Tiller) (reads : List VNum) : Nat :=
  if t.act = 0xFFFFFFFF ∧ ∀ r ∈ reads, (t.rv r).tag = 0 then 0 else 2

/-- Low and high words of a result. -/
def lo (x : Nat × Flags) : Word := w32 x.1
def hi (x : Nat × Flags) : Word := w32 (x.1 / 2 ^ 32 : Nat)

/-- (−1)^n · m · 2^e. -/
def rat (n : Bool) (m : Nat) (e : Int) : Rat := (if n then -1 else 1) * m * ((2 ^ e.toNat : Nat) : Rat) / ((2 ^ (-e).toNat : Nat) : Rat)

/-- The distance of two numbers. -/
def dist (x y : Rat) : Rat := if x ≤ y then y - x else x - y

/-- The number an encoding stands for, where it is finite. -/
def ratOf : Sys2Proof.Machine.Num → Option Rat
  | .fin n m e => some (rat n m e)
  | .nan | .inf _ => none

/-- R67: an encoding is what a number becomes in a mode: none of the format lies nearer on the side the mode allows, and a tie goes to the even one. -/
def roundedTo (rm : Rm) (f : Fmt) (x c : Rat) (code : Nat) : Prop :=
  ∀ z y, ratOf (f.num z) = some y →
    let down := c ≤ x ∧ (y ≤ x → y ≤ c)
    let up := x ≤ c ∧ (x ≤ y → c ≤ y)
    match rm with
    | .rne => dist c x ≤ dist y x ∧ (dist c x = dist y x → y ≠ c → code % 2 = 0)
    | .rdn => down
    | .rup => up
    | .rtz => if 0 ≤ x then down else up

/-- R66, R67, R73: a number delivered in a format: where the result is finite, it is the number rounded, and NX says whether it differs. -/
def delivers (rm : Rm) (f : Fmt) (x : Rat) (r : Nat × Flags) : Prop :=
  ∀ c, ratOf (f.num r.1) = some c → roundedTo rm f x c r.1 ∧ (r.2.getLsbD 4 = true ↔ c ≠ x)

/-- R67 for an integer. -/
def intRounded (rm : Rm) (x : Rat) (v : Int) : Prop :=
  let down := (v : Rat) ≤ x ∧ x < v + 1
  let up := (v : Rat) - 1 < x ∧ x ≤ v
  match rm with
  | .rne => 2 * dist v x ≤ 1 ∧ (2 * dist v x = 1 → v % 2 = 0)
  | .rdn => down
  | .rup => up
  | .rtz => if 0 ≤ x then down else up

/-- The number CVT converts, where it is finite (R48). -/
def cvtFrom (c : CvtCode) (a : Nat) : Option Rat :=
  match c with
  | .itof | .itod => some ((BitVec.ofNat 32 a).toInt : Rat)
  | .utof | .utod => some ((a % 2 ^ 32 : Nat) : Rat)
  | .ltod => some ((BitVec.ofNat 64 a).toInt : Rat)
  | .ftoi | .ftou | .ftod | .ftoh | .ftob => ratOf (fp32.num a)
  | .dtof | .dtoi | .dtou | .dtol => ratOf (fp64.num a)
  | .hltof => ratOf (fp16.num (a % 65536))
  | .hhtof => ratOf (fp16.num (a / 65536 % 65536))
  | .bltof => ratOf (bf16.num (a % 65536))
  | .bhtof => ratOf (bf16.num (a / 65536 % 65536))

/-- The format CVT converts to, or the width and range of its integers (R48, R72). -/
def cvtTo : CvtCode → Fmt ⊕ (Nat × Int × Int)
  | .ftoi | .dtoi => .inr (32, -2 ^ 31, 2 ^ 31 - 1)
  | .ftou | .dtou => .inr (32, 0, 2 ^ 32 - 1)
  | .dtol => .inr (64, -2 ^ 63, 2 ^ 63 - 1)
  | .ftod | .itod | .utod | .ltod => .inl fp64
  | .ftoh => .inl fp16
  | .ftob => .inl bf16
  | .itof | .utof | .dtof | .hltof | .hhtof | .bltof | .bhtof => .inl fp32

/-- The narrow format of CVTN, and its codes for a positive overflow, a negative one and a NaN (R72). -/
def cvtnTo : CvtnFmt → Option (Fmt × Nat × Nat × Nat)
  | .e4m3 => some (e4m3, 0x7E, 0xFE, 0x7F)
  | .e4m3n => some (e4m3, 0x7F, 0x7F, 0x7F)
  | .e5m2 => some (e5m2, 0x7B, 0xFB, 0x7E)
  | .e5m2n => some (e5m2, 0x7C, 0xFC, 0x7E)
  | .e2m1 => some (e2m1, 7, 15, 0)
  | .i8 => none

/-- The number of a narrow element of CVTW, where it is finite (R61, R158). -/
def cvtwFrom (t : CvtwFmt) (a : Nat) : Option Rat :=
  match t with
  | .e4m3 => ratOf (e4m3.num (a % 256))
  | .e5m2 => ratOf (e5m2.num (a % 256))
  | .e2m1 => ratOf (e2m1.num (a % 16))
  | .i8 => some ((BitVec.ofNat 8 a).toInt : Rat)
  | .t2 => some (match a % 4 with
    | 1 => 1
    | 3 => -1
    | _ => 0)

/-- Scaling by a power of two. -/
def scaled (x : Rat) (k : Int) : Rat := x * ((2 ^ k.toNat : Nat) : Rat) / ((2 ^ (-k).toNat : Nat) : Rat)

/-- R82, from the root down: what the tree of height n holds at place j, the leaves being the lanes. -/
def treeAt (op : Nat → Nat → Nat × Flags) (leaf : Nat → Option Nat) : Nat → Nat → Option (Nat × Flags)
  | 0, j => (leaf j).map fun x => (x, 0)
  | n + 1, j =>
    match treeAt op leaf n (2 * j), treeAt op leaf n (2 * j + 1) with
    | some x, some y => some ((op x.1 y.1).1, (op x.1 y.1).2 ||| x.2 ||| y.2)
    | some x, none => some x
    | none, y => y

/-- R83: what lane i holds after n stages, the distances being 1, 2, 4 and so on. -/
def scanAt (op : Nat → Nat → Nat × Flags) (leaf : Nat → Nat) : Nat → Nat → Nat × Flags
  | 0, i => (leaf i, 0)
  | n + 1, i =>
    if 2 ^ n ≤ i then
      let x := scanAt op leaf n (i - 2 ^ n)
      let y := scanAt op leaf n i
      ((op x.1 y.1).1, (op x.1 y.1).2 ||| x.2 ||| y.2)
    else scanAt op leaf n i

/-- The value of a segment at x, by Horner's rule in FP32 with every step rounded (R88). -/
def horner (g : Segment) (x : Nat) : Nat × Flags :=
  let t := fp32.sub x g.b.toNat
  let y := fp32.fma g.c3.toNat t.1 g.c2.toNat
  let z := fp32.fma y.1 t.1 g.c1.toNat
  let w := fp32.fma z.1 t.1 g.c0.toNat
  (w.1, t.2 ||| y.2 ||| z.2 ||| w.2)

/-- Whether a segment's breakpoint is not above x: neither is a NaN, and it is less or equal (R88). -/
def reaches (x : Nat) (g : Segment) : Prop := (fp32.num g.b.toNat).cmp (fp32.num x) = some .lt ∨ (fp32.num g.b.toNat).cmp (fp32.num x) = some .eq

/-- Whether results fit a tiller's general slots: written, they leave it no more general registers than it may hold, or none of them is newly general (R122, R123). -/
def fits (t : Tiller) (ds : List (VNum × VReg)) : Prop :=
  (ds.foldl (fun x e => x.wv e.1 e.2) t).gCount ≤ t.ng ∨ ∀ e ∈ ds, e.2.tag = 2 → (t.rv e.1).tag = 2

end Sys2Proof.Says

namespace Sys2Proof.Says

open Sys2Proof.Machine

/-! ### Landings, special registers and system instructions (R73, R126, R171, R193, R194, R200 to R202, R352, R370) -/

/-- The landing row of each event of results that were computed at issue. -/
def landsRow (i : Instr) : Option (Nat × LandRow) :=
  match i with
  | .cordLand n => some (n, .cord)
  | .fdivFsqrtLand n => some (n, .divf)
  | .divRemLand n => some (n, .divi)
  | .lrefillLand n => some (n, .lrefill)
  | .scratchpadLoadLand n => some (n, .spad)
  | .atomicResultLand n => some (n, .atoms)
  | _ => none

/-- The place of the first lane of a grid's sheaf index (R12). -/
def coordOf (p : Packet) (i : Nat) (axis : Nat) : Nat :=
  if axis = 0 then i % p.gx else if axis = 1 then i / p.gx % p.gy else i / (p.gx * p.gy)

/-- A slot's PC word: the address, and 0 ready, 1 parked or 2 empty in its low bits (R171). -/
def pcWord (x : Slot) : Nat :=
  x.pc.toNat / 4 * 4 + match x.st with
    | .ready => 0
    | .parked => 1
    | .empty => 2

/-- The value of each special register (R200), as a number. -/
def special (s : State) (r : Special) : Nat :=
  let t := s.tl
  let core := s.cur / 64
  let c := s.core core
  let cl := s.cluster (core / 4)
  let l := s.launch (s.sheaf t.sheaf).launch
  let ix := (s.sheaf t.sheaf).index
  match r with
  | .time => s.time
  | .cycles => c.cycles
  | .tcyc0 => lget 0 c.tcyc 0
  | .tcyc1 => lget 0 c.tcyc 1
  | .tcyc2 => lget 0 c.tcyc 2
  | .tcyc3 => lget 0 c.tcyc 3
  | .tstat => t.flags.toNat + 256 * (t.widx % 16) + 4096 * (t.cln % 16) + 65536 * (t.clk % 4) + 262144 * t.rslot.toNat + 524288 * t.hnd.toNat
  | .tctl => t.pwinTrap.toNat + 2 * (t.reqCap % 128)
  | .tcause => t.tcause.toNat
  | .tpc => t.tpc.toNat
  | .tinfo0 => t.tinfo0.toNat
  | .tinfo1 => t.tinfo1.toNat
  | .pca => pcWord t.slotA
  | .pcb => pcWord t.slotB
  | .mska => t.slotA.mask.toNat
  | .mskb => t.slotB.mask.toNat
  | .spillp => t.head + 4096 * t.count
  | .repcnt => t.repcnt
  | .joina => t.slotA.join.toNat
  | .joinb => t.slotB.join.toNat
  | .outra => t.slotA.outr.toNat
  | .outrb => t.slotB.outr.toNat
  | .tiller => t.num
  | .wgrank => t.rank
  | .sheafx => coordOf l.pkt ix 0
  | .sheafy => coordOf l.pkt ix 1
  | .sheafz => coordOf l.pkt ix 2
  | .core => core
  | .cluster => core / 4
  | .die => core / 8
  | .region => (s.rcb l.pkt.region).id
  | .freq => cl.cur % 4096 + 4096 * (cl.tgt % 4096) + 16777216 * cl.step.toNat
  | .allow =>
    let q := cl.allow / 64
    ((max (-(2 ^ 26)) (min (2 ^ 26 - 1) q)) % 2 ^ 27).toNat + 2 ^ 27 * cl.wlvl
  | .morg => (s.wg (4 * t.sheaf + t.rank)).morg
  | .notify => t.notify % 2048 + (if t.notify % 2048 ∈ s.pkg.msgPending then 2 ^ 31 else 0)

/-- The 64-bit registers of R200. -/
def wideSpecial : Special → Bool
  | .time | .cycles | .tcyc0 | .tcyc1 | .tcyc2 | .tcyc3 => true
  | _ => false

/-- What SWR replaces in a register that may be written (R75, R171, R174, R202). -/
def written (t : Tiller) (r : Special) (v : Word) : Option Tiller :=
  let wpc (x : Slot) : Slot := { x with
    pc := BitVec.ofNat 32 (v.toNat / 4 * 4)
    st := if v.toNat % 4 = 0 then .ready else if v.toNat % 4 = 1 then .parked else .empty }
  match r with
  | .tstat => some { t with flags := BitVec.ofNat 7 v.toNat }
  | .tctl => some { t with pwinTrap := v.toNat % 2 = 1, reqCap := v.toNat / 2 % 128 }
  | .tpc => some { t with tpc := v, widx := 0, repcnt := 0 }
  | .pca => some { t with slotA := wpc t.slotA }
  | .pcb => some { t with slotB := wpc t.slotB }
  | .mska => some { t with slotA := { t.slotA with mask := v } }
  | .mskb => some { t with slotB := { t.slotB with mask := v } }
  | .spillp => some { t with
      head := if t.depth = 0 then 0 else v.toNat % 4096 % t.depth
      count := min (v.toNat / 4096 % 8192) t.depth }
  | .repcnt => some { t with repcnt := v.toNat }
  | .joina => some { t with slotA := { t.slotA with join := v } }
  | .joinb => some { t with slotB := { t.slotB with join := v } }
  | .outra => some { t with slotA := { t.slotA with outr := v } }
  | .outrb => some { t with slotB := { t.slotB with outr := v } }
  | _ => none

/-- A release that an instruction makes first is over: its word issues again, or it found nothing to wait for (R213, R217). -/
def released (s : State) (scope : Nat) (s1 : State) : Prop :=
  s.tl.again = true ∧ s1 = s ∨ s.tl.again = false ∧ s.release s.cur scope false = (s1, [])

/-- The illegal-instruction fault of the word that is issuing, with its reason (R51, R53). -/
def illegalHere (s : State) (reason : Nat) : State :=
  s.trapHere 0x01 (BitVec.ofNat 32 ((fOp s.tl.word).toNat + 256 * reason + 65536 * s.tl.wordIdx)) s.tl.word

/-- What SYS.LAUNCH, SYS.GRUN and SYS.RCBSYNC start, by their number (R352). -/
def sysOp (i : Instr) : Option (Nat × Bool × SReg × SReg) :=
  match i with
  | .sysLaunch p d a => some (0, p, d, a)
  | .sysGrun p d a => some (1, p, d, a)
  | .sysRcbsync p d a => some (2, p, d, a)
  | _ => none

/-- The checks of the third group of LAUNCH in the order of R353, over the bytes of a packet (R350): the status, FIELD, and what must hold. A check whose facts a later row names is left out where they are missing. -/
def launchTable (s : State) (d : List Byte) : List (Nat × Nat × Prop) :=
  let n := descNat d
  let region := n 16 8
  let root := s.effRoot region
  let wg := n 56 1
  let tillers := n 57 1
  let total := n 76 4 * n 80 4 * n 84 4
  let good (va al : Nat) : Prop := va % al = 0 ∧ va < 2 ^ 56
  let here (va : Nat) : Prop := (s.lineAt root va .load).isSome = true
  let wins := if n 96 8 % 16 = 0 ∧ n 96 8 < 2 ^ 56 then s.vread root (n 96 8) 128 4 else none
  let dep := if n 120 8 ≠ 0 ∧ n 120 8 % 32 = 0 ∧ n 120 8 < 2 ^ 56 then s.vread root (n 120 8) 32 2 else none
  let prod (b : List Byte) : Option (List Byte) := if 1 ≤ descNat b 0 1 ∧ descNat b 0 1 ≤ 4 ∧ descNat b 8 8 < 2 ^ 56 then s.vread root (descNat b 8 8) 16 2 else none
  let frame := 17408 * tillers + 0xF0800 + 65536 * n 62 2
  [(0x10, 56, 1 ≤ wg ∧ wg ≤ 4), (0x10, 57, 1 ≤ tillers ∧ tillers ≤ 16), (0x10, 58, 1 ≤ n 58 1 ∧ n 58 1 ≤ 128 ∧ tillers * n 58 1 ≤ 2048),
   (0x10, 60, n 60 2 ≤ 192), (0x10, 62, n 62 2 ≤ 64), (0x10, 64, n 64 2 ≤ 4096), (0x10, 70, 1 ≤ n 70 2 ∧ n 70 2 ≤ 1000),
   (0x10, 59, n 59 1 = 0), (0x10, 72, n 72 4 / 2 = 0), (0x11, 76, n 76 4 ≠ 0), (0x11, 80, n 80 4 ≠ 0), (0x11, 84, n 84 4 ≠ 0), (0x11, 76, total ≤ 2 ^ 32)] ++
  (match wins with
   | some t => (List.range 8).map fun k => (0x12, 96 + k, descNat t (16 * k + 8) 4 = 0 ∨ good (descNat t (16 * k) 8) 16)
   | none => []) ++
  (if s.malformed region = true then [] else
    [(0x13, 70, n 70 2 ≤ s.effGrant region), (0x13, 68, (if n 68 2 = 0 then 600 else n 68 2) ≤ s.effFmincap region), (0x13, 72, n 72 1 % 2 = 1 → s.effBgrant region ≠ 0)]) ++
  [(0x14, 16, s.malformed region = false)] ++
  (match dep with
   | some b => [(0x15, 120, descNat b 0 1 ≤ 4 ∧ ¬(descNat b 0 1 = 2 ∧ descNat b 1 3 = 0) ∧ ∀ r, prod b = some r →
       (descNat r 0 1 = 1 ∨ descNat r 0 1 = 2) ∧ ¬(descNat b 0 1 = 1 ∧ descNat r 4 4 * descNat r 8 4 * descNat r 12 4 < total))]
   | none => []) ++
  [(0x16, 0, good (n 0 8) 4096 ∧ here (n 0 8)), (0x16, 8, (s.vspan root (n 8 8 + 64) ((total + 7) / 8) .store (total / 8 / 65536 + 2)).isSome = true), (0x16, 24, n 24 4 % 4 = 0)] ++
  ((List.range 7).map fun k => (0x16, 28 + 4 * k, n (28 + 4 * k) 4 % 2 = 1 ∨ n (28 + 4 * k) 4 % 4 = 0)) ++
  [(0x16, 96, wins.isSome = true),
   (0x16, 104, (good (n 104 8) 64 ∧ (n 64 2 = 0 ∨ here (n 104 8))) ∧ n 104 8 + 16 * n 64 2 * (64 * (total - 1) + 16 * (wg - 1) + tillers) ≤ 2 ^ 56),
   (0x16, 112, (good (n 112 8) 64 ∧ (n 66 2 = 0 ∨ here (n 112 8))) ∧ n 112 8 + n 66 2 * wg * frame ≤ 2 ^ 56),
   (0x16, 120, n 120 8 = 0 ∨ ∃ b, dep = some b ∧ ((prod b).isSome = true ∨ descNat b 0 1 = 0 ∨ 4 < descNat b 0 1))]

/-- The 64 bytes of a launch record that LAUNCH writes: STATUS, FIELD, the grid, and zeros (R351, R353). -/
def launchRecord (d : List Byte) (status field : Nat) : List Byte :=
  bytesOfNat (status + 256 * field) 4 ++ (d.drop 76).take 12 ++ List.replicate 48 0

end Sys2Proof.Says

namespace Sys2Proof.Says

open Sys2Proof.Machine

/-! ### Scratchpad, memory and synchronisation (R36 to R38, R162, R182, R203 to R228, R271 to R285) -/

/-- A value of an access width as its lane holds it: signed bytes and halves are extended (R36). -/
def extended (wd : Width) (n : Nat) : Nat :=
  match wd with
  | .bs => if 128 ≤ n % 256 then n % 256 + (2 ^ 32 - 256) else n % 256
  | .hs => if 32768 ≤ n % 65536 then n % 65536 + (2 ^ 32 - 65536) else n % 65536
  | _ => n

/-- Registers in which values land, word j of a lane's value in register d + j, under a mask, with the tag of R120. -/
def loaded (t : Tiller) (d : VNum) (wd : Width) (m : Word) (value : Nat → Nat) (ds : List (VNum × VReg)) : Prop :=
  ds.length = Width.regs wd ∧ ∀ j, j < Width.regs wd → ∃ r, ds[j]? = some (d + BitVec.ofNat 7 j, r) ∧
    lanesAre m (t.rv (d + BitVec.ofNat 7 j)) r (fun k => w32 (extended wd (value k) / 2 ^ (32 * j) : Nat)) ∧
    r.tag = if wd = Width.uw ∧ m = 0xFFFFFFFF then 0 else 2

/-- The destination registers of a width, as pending registers. -/
def destPend (d : VNum) (wd : Width) : List PReg := (List.range (Width.regs wd)).map fun j => .v (d + BitVec.ofNat 7 j).toNat

/-- The active lanes with a number each. -/
def onLanes (m : Word) (f : Nat → Nat) : List (Nat × Nat) := ((List.range 32).filter fun k => m.getLsbD k).map fun k => (k, f k)

/-- The scratchpad offset of a lane (R37). -/
def offset (t : Tiller) (a : Addr) (wd : Width) (k : Nat) : Nat :=
  match a with
  | .sc r => (t.rs r).toNat + if wd = Width.uw then 0 else k * Width.size wd
  | .vec r => ((t.rv r).lane k).toNat

/-- A scratchpad access: the lanes' offsets are aligned and within the allocation (R205). -/
def inSpad (spad w : Nat) (lanes : List (Nat × Nat)) : Prop := ∀ e ∈ lanes, e.2 % w = 0 ∧ e.2 + w ≤ spad

/-- A width is whole only with a scalar base where it is uniform (R36, R37). -/
def uniformOk (a : Addr) (wd : Width) : Prop := wd = .uw → ∃ r, a = .sc r

/-- LDS and LDX, or STS and STX: the park bit, data, address, counter, width and the rank they name. -/
def spadLoad (i : Instr) (t : Tiller) : Option (Bool × VNum × Addr × Ctr × Width × Nat) :=
  match i with
  | .lds p d a c wd => some (p, d, a, c, wd, t.rank)
  | .ldx p d a c wd r => some (p, d, a, c, wd, r.toNat)
  | _ => none

def spadStore (i : Instr) (t : Tiller) : Option (Bool × VNum × Addr × Ctr × Width × Nat) :=
  match i with
  | .sts p d a c wd => some (p, d, a, c, wd, t.rank)
  | .stx p d a c wd r => some (p, d, a, c, wd, r.toNat)
  | _ => none

/-- The bytes of a lane of a store: its registers' words, low byte first, as many as its width has (R36). -/
def storeByte (t : Tiller) (d : VNum) (k j : Nat) : Byte := ((t.rv (d + BitVec.ofNat 7 (j / 4))).lane k).extractLsb' (8 * (j % 4)) 8

/-- An operation that an instruction has started: it is outstanding, holds its registers and its counter, and has changed nothing else of the tiller's registers nor memory. -/
def started (s s' : State) (kind : FlightKind) (c : Option Nat) (regs : List PReg) (also : Flight → Prop) : Prop :=
  (∃ id f, tfind s'.flights id = some f ∧ f.kind = kind ∧ f.tid = s.cur ∧ f.core = s.cur / 64 ∧ f.ctr = c ∧ f.regs = regs ∧ also f) ∧
  s'.cur = s.cur ∧ (∀ n, s'.tl.ctr n = s.tl.ctr n + if c = some n then 1 else 0) ∧ (∀ r, r ∈ s'.tl.pend ↔ r ∈ s.tl.pend ∨ r ∈ regs) ∧
  s'.tl.s = s.tl.s ∧ s'.tl.m = s.tl.m ∧ s'.tl.flags = s.tl.flags ∧ (∀ q : VNum, PReg.v q.toNat ∉ regs → s'.tl.rv q = s.tl.rv q) ∧ s'.mem = s.mem

/-- Whether a line of an access is one that the instruction reaches beyond the cache. -/
abbrev Beyond := State → List (Nat × Nat × LineRef) → LineRef → Bool

/-- A load's lines that go beyond the cache: every line with .byp or of an uncached page, else one that lacks a byte the load needs (R271, R272). -/
def loadBeyond (h : Hint) (n : Nat) : Beyond := fun st ls r =>
  h == .byp || r.attr == 2 || !st.l1Holds r (lineNeeds r.key ls n)

/-- A store's lines that go beyond the cache: with .byp, of an uncached page, or with .strm where the line is absent (R271, R272). -/
def storeBeyond (h : Hint) : Beyond := fun st _ r => h == .byp || r.attr == 2 || (h == .strm && !st.l1Holds r [])

/-- Every lane of a global access is aligned, in range and reaches a line it may use, with no link down and no held block in the way (R106, R275); `w` gives the bytes of a lane's access, and `s1` is the state with the TLBs filled. -/
def reached (s : State) (w : Nat → Nat) (al : Nat) (acc : Access) (codedOk : Bool) (out : Beyond) (lanes : List (Nat × Nat)) (good : List (Nat × Nat × LineRef)) (s1 : State) : Prop :=
  s.laneLines s.cur w al acc codedOk lanes = (good.map fun e => ⟨e.1, e.2.1, .ok e.2.2⟩, s1) ∧
  ∀ e ∈ good, s1.linkDown e.2.2.pa = false ∧ (e.2.2.coded = true → s1.blockHeld e.2.2.key.base = true → out s1 good e.2.2 = false)

/-- A width that is the same for every lane. -/
abbrev same (n : Nat) : Nat → Nat := fun _ => n

/-- The lanes' places in their lines. -/
def places (good : List (Nat × Nat × LineRef)) : List LaneRef := good.map fun e => ⟨e.1, e.2.2.key, e.2.1 % 64⟩

/-- The address of a lane of LDG or STG, and of LDGX or STGX (R34, R37). -/
def address (t : Tiller) (a : Addr) (wd : Width) (k : Nat) : Nat :=
  match a with
  | .sc r => ((t.rp r).toNat + if wd = Width.uw then 0 else k * Width.size wd) % 2 ^ 64
  | .vec r => ((t.rv r).lane k).toNat + 2 ^ 32 * ((t.rv (r + 1)).lane k).toNat

/-- The base of a literal: its pair, or none, plus its signed 26-bit offset (R34). -/
def base (t : Tiller) (lit : Word) : Int :=
  (if lit.toNat / 2 ^ 27 = 0 then 0 else ((t.rp (BitVec.ofNat 6 (2 * (lit.toNat / 2 ^ 27)))).toNat : Int)) + (lit.extractLsb' 0 26).toInt

def addressX (t : Tiller) (a : Addr) (wd : Width) (lit : Word) (k : Nat) : Nat :=
  ((base t lit + match a with
    | .sc r => (t.rs r).toInt + if wd = Width.uw then 0 else (k * Width.size wd : Nat)
    | .vec r => ((t.rv r).lane k).toInt) % 2 ^ 64).toNat

/-- A global load or store: the park bit, data, counter, width, hint and each lane's address. -/
def globalLoad (i : Instr) (t : Tiller) : Option (Bool × VNum × Addr × Ctr × Width × Hint × (Nat → Nat)) :=
  match i with
  | .ldg p d a c wd h => some (p, d, a, c, wd, h, address t a wd)
  | .ldgx p d a c wd h lit => some (p, d, a, c, wd, h, addressX t a wd lit)
  | _ => none

def globalStore (i : Instr) (t : Tiller) : Option (Bool × VNum × Ctr × Width × Hint × (Nat → Nat)) :=
  match i with
  | .stg p d a c wd h => some (p, d, c, wd, h, address t a wd)
  | .stgx p d a c wd h lit => some (p, d, c, wd, h, addressX t a wd lit)
  | _ => none

/-- An operation's lines: one for each line that a lane reaches. -/
def coversLines (good : List (Nat × Nat × LineRef)) (f : Flight) : Prop :=
  (∀ e ∈ good, ∃ q ∈ f.parts, q.key = e.2.2.key ∧ q.pa = e.2.2.pa) ∧ ∀ q ∈ f.parts, ∃ e ∈ good, q.key = e.2.2.key

/-- The byte that a store leaves at an offset of a line: that of the highest lane that reaches it (R276). -/
def leaves (t : Tiller) (d : VNum) (wd : Width) (good : List (Nat × Nat × LineRef)) (k : LKey) (x : Nat) (b : Byte) : Prop :=
  ∃ e ∈ good, ∃ j, j < Width.size wd ∧ e.2.2.key = k ∧ e.2.1 % 64 + j = x ∧ b = storeByte t d e.1 j ∧
    ∀ e' ∈ good, e'.2.2.key = k → e.1 < e'.1 → x < e'.2.1 % 64 ∨ e'.2.1 % 64 + Width.size wd ≤ x

/-- An atomic: the park bit, the operation and type, CAS or not, returning or not, its address, counter, literal, first data register, and the operands of a lane. -/
def globalAtomic (i : Instr) (t : Tiller) : Option (Bool × AtomOp × AtomTy × Bool × Bool × VNum × VNum × Ctr × Word × (Nat → Nat) × (Nat → Nat)) :=
  let arg (ty : AtomTy) (r : VNum) (k : Nat) : Nat := ((t.rv r).lane k).toNat + if ty.is64 then 2 ^ 32 * ((t.rv (r + 1)).lane k).toNat else 0
  match i with
  | .atom p op ty d a c lit => some (p, op, ty, false, true, d, a, c, lit, arg ty d, fun _ => 0)
  | .red p op ty d a c lit => some (p, op, ty, false, false, d, a, c, lit, arg ty d, fun _ => 0)
  | .cas p false d a c lit => some (p, .exch, .w, true, true, d, a, c, lit, arg .w (d + 1), arg .w d)
  | .cas p true d a c lit => some (p, .exch, .d, true, true, d, a, c, lit, arg .d (d + 2), arg .d d)
  | _ => none

/-- The window of an LDP, the offset of each lane, and whether its bytes run beyond the window (R225, R227). -/
def window (s : State) (n : BitVec 3) : Window := lget ⟨0, 0⟩ (s.launch (s.sheaf s.tl.sheaf).launch).wins n.toNat
def windowOff (t : Tiller) (a : Addr) (k : Nat) : Nat :=
  match a with
  | .sc r => (t.rs r).toNat
  | .vec r => ((t.rv r).lane k).toNat
def beyondWindow (s : State) (n : BitVec 3) (a : Addr) (wd : Width) (k : Nat) : Prop := (window s n).size < windowOff s.tl a k + Width.size wd

/-- The bytes that the lanes of an LDP read, by address, none beyond the window (R227). -/
def windowLanes (s : State) (n : BitVec 3) (a : Addr) (wd : Width) : List (Nat × List (Option Nat)) :=
  (onLanes s.tl.act (windowOff s.tl a)).map fun e =>
    (e.1, (List.range (Width.size wd)).map fun j => if e.2 + j < (window s n).size then some ((window s n).base + e.2 + j) else none)

/-- The bytes of one access of an LDP's lane: all of them where it is aligned and lies in the window (R368). -/
def windowWidth (s : State) (n : BitVec 3) (a : Addr) (wd : Width) (k : Nat) : Nat :=
  if ((window s n).base + windowOff s.tl a k) % Width.size wd = 0 ∧ windowOff s.tl a k + Width.size wd ≤ (window s n).size then Width.size wd else 1

/-- The words of a register's record by its tag (R143). -/
def recordLen (tag : Nat) : Nat := if tag = 0 then 2 else if tag = 1 then 3 else 33

/-- `n` words of lane 0 from an address on. -/
def wordsAt (va n : Nat) : List (Nat × Nat) := (List.range n).map fun j => (0, (va + 4 * j) % 2 ^ 64)

/-- How a global access is checked: the bytes of each lane, the alignment, the kind of access, whether it may use a coded page, what goes beyond the cache, and the lanes with their addresses (R275). -/
structure Check where
  w : Nat → Nat
  al : Nat
  acc : Access
  coded : Bool
  out : Beyond
  lanes : List (Nat × Nat)

/-- The lanes of a global access, for each instruction that makes one: an LDP accesses what the parameter cache lacks, a VRST first its tag and then its payload. -/
def accessOf (i : Instr) (s : State) : Option Check :=
  let t := s.tl
  match i with
  | .ldg _ _ a _ wd h => some ⟨same (Width.size wd), Width.size wd, .load, true, loadBeyond h (Width.size wd), onLanes t.act (address t a wd)⟩
  | .ldgx _ _ a _ wd h lit => some ⟨same (Width.size wd), Width.size wd, .load, true, loadBeyond h (Width.size wd), onLanes t.act (addressX t a wd lit)⟩
  | .stg _ _ a _ wd h => some ⟨same (Width.size wd), Width.size wd, .store, true, storeBeyond h, onLanes t.act (address t a wd)⟩
  | .stgx _ _ a _ wd h lit => some ⟨same (Width.size wd), Width.size wd, .store, true, storeBeyond h, onLanes t.act (addressX t a wd lit)⟩
  | .atom _ _ ty _ a _ lit | .red _ _ ty _ a _ lit =>
    let n := if ty.is64 then 8 else 4
    some ⟨same n, n, .atomic, false, fun _ _ _ => false, onLanes t.act (addressX t (.vec a) .w lit)⟩
  | .cas _ wide _ a _ lit =>
    let n := if wide then 8 else 4
    some ⟨same n, n, .atomic, false, fun _ _ _ => false, onLanes t.act (addressX t (.vec a) .w lit)⟩
  | .vsav _ d a _ h => some ⟨same 4, 4, .store, true, storeBeyond h, wordsAt (t.rp a).toNat (recordLen (t.rv d).tag)⟩
  | .vrst _ _ a _ h =>
    match t.vtag with
    | none => some ⟨same 4, 4, .load, true, loadBeyond h 4, wordsAt (t.rp a).toNat 1⟩
    | some (q, r) =>
      if q.err || q.held then none
      else some ⟨same 4, 4, .load, true, loadBeyond h 4, wordsAt ((t.rp a).toNat + 4) (recordLen (natOfBytes ((q.data.drop r.off).take 4) % 4) - 1)⟩
  | .ldp _ _ a _ wd n =>
    if t.pwinTrap then none
    else some ⟨windowWidth s n a wd, 1, .load, true, fun _ _ _ => true, paramMisses (s.core (s.cur / 64)) (s.sheaf t.sheaf).launch (windowLanes s n a wd)⟩
  | _ => none

/-- The scopes of a FENCE as R45 numbers them, and which of release and acquire it makes (R213). -/
def fenceOf (i : Instr) : Option (Bool × Bool × Bool × Nat × Ctr) :=
  let n (sc : Scope) : Nat := match sc with
    | .tl => 0
    | .wg => 1
    | .sh => 2
    | .dv => 3
    | .sy => 4
  match i with
  | .fenceAcq p sc c => some (p, false, true, n sc, c)
  | .fenceRel p sc c => some (p, true, false, n sc, c)
  | .fenceAr p sc c => some (p, true, true, n sc, c)
  | _ => none

/-- An ARRIVE: park bit, destination, object, rank, scope and bytes added (R217). -/
def arriveOf (i : Instr) (t : Tiller) : Option (Bool × SReg × Nat × Nat × Nat × Nat) :=
  match i with
  | .arrive p d a => some (p, d, (t.rs a).toNat, t.rank, 1, 0)
  | .arriveX p d a b => some (p, d, (t.rs a).toNat, t.rank, 1, (t.rs b).toNat)
  | .arriveR p d a b => some (p, d, (t.rs a).toNat, (t.rs b).toNat, 2, 0)
  | _ => none

/-- A barrier object's fields (R214). -/
def barrier (w : Wg) (o : Nat) : Nat × Nat × Nat × Nat × Nat :=
  (readNat w.bytes o 4, readNat w.bytes (o + 4) 2, readNat w.bytes (o + 6) 2, readNat w.bytes (o + 8) 4, readNat w.bytes (o + 12) 4)

end Sys2Proof.Says

namespace Sys2Proof.Says

open Sys2Proof.Machine

/-! ### The array and the engines (R15, R229 to R250, R296 to R318) -/

/-- What R231 allows in CFG: MODE 0 to 9, AF and WF in mode 0 alone, SCALE in modes 0 and 1 alone, and zeros above. -/
def cfgLegal (v : Word) : Prop :=
  v.toNat % 16 ≤ 9 ∧ (v.toNat / 16 % 4 ≠ 0 → v.toNat % 16 = 0) ∧ (v.toNat / 64 % 2 = 1 → v.toNat % 16 ≤ 1) ∧ v.toNat < 128

/-- The bytes of a plane, of its scales, of an activation row and of its scales, and whether scales are read, under a CFG (R229, R230). -/
def tileSizes (v : Word) : Nat × Nat × Nat × Nat × Bool :=
  let m := arrMode (v.toNat % 16)
  (m.n * m.col, m.n * (m.k / 48), m.row, m.k / 48, v.toNat / 64 % 2 = 1)

/-- The operand checks of an array instruction in their order: KIND, ENTRY and whether the check fails (R238, R242 to R248); `n k` is operand k. -/
def tileChecks (i : Instr) (t : Tiller) (w : Wg) : List (Nat × Nat × Bool) :=
  let (plane, scales, row, groups, sc) := tileSizes w.cfg
  let r (a : SReg) : Nat := (t.rs a).toNat
  let r1 (a : SReg) : Nat := (t.rs (a + 1)).toNat
  match i with
  | .mlds _ _ a => [(3, 0xFF, r a % 16 ≠ 0 ∨ sc = true ∧ r1 a % 16 ≠ 0), (2, 0xFF, w.spad < r a + plane ∨ sc = true ∧ w.spad < r1 a + scales)]
  | .mstr _ _ a b => [
      (4, 0xFF, r b = 0 ∨ 4096 < r b), (1, 0xFF, w.accRows < r1 b + r b), (3, 0xFF, r a % 16 ≠ 0 ∨ sc = true ∧ r1 a % 16 ≠ 0),
      (2, 0xFF, w.spad < r a + r b * row ∨ sc = true ∧ w.spad < r1 a + r b * groups)]
  | .mclr _ _ a b =>
    let count := r1 a % 8192
    [(4, 0xFF, count = 0 ∨ 4096 < count ∨ r1 a / 8192 % 2 ^ 18 ≠ 0), (1, 0xFF, w.accRows < r a + count),
      (3, 0xFF, 2 ^ 31 ≤ r1 a ∧ r b % 16 ≠ 0), (2, 0xFF, 2 ^ 31 ≤ r1 a ∧ w.spad < r b + 1024 * count)]
  | .mhist _ _ a _ => [(4, 0xFF, r1 a = 0 ∨ 4096 < r1 a), (1, 0xFF, w.accRows < r a + r1 a)]
  | .mgrp _ _ a =>
    let o := r a
    let f (k : Nat) : Nat := readNat w.bytes (o + 4 * k) 4
    let g (e k : Nat) : Nat := readNat w.bytes (o + 16 + 16 * e + 4 * k) 4
    let sum := ((List.range (f 3)).map fun e => g e 0).sum
    let head : List (Nat × Nat × Bool) := [(3, 0xFF, o % 16 ≠ 0), (2, 0xFF, w.spad < o + 16), (4, 0xFF, f 2 = 0 ∨ 4096 < f 2 ∨ f 3 = 0 ∨ 64 < f 3), (2, 0xFF, w.spad < o + 16 + 16 * f 3),
      (3, 0xFF, f 0 % 16 ≠ 0 ∨ sc = true ∧ f 1 % 16 ≠ 0), (2, 0xFF, w.spad < f 0 + f 2 * row ∨ sc = true ∧ w.spad < f 1 + f 2 * groups)]
    let each : List (Nat × Nat × Bool) := (List.range (f 3)).flatMap fun e =>
      [(4, e, 4096 < g e 0), (5, e, f 2 < g e 1 + g e 0), (1, e, w.accRows < g e 2 + g e 0)]
    let whole : List (Nat × Nat × Bool) := [(5, 0xFF, f 2 < sum), (1, 0xFF, w.accRows < sum)]
    head ++ each ++ whole
  | .mdrn _ _ a =>
    let o := r a
    let f (k n : Nat) : Nat := readNat w.bytes (o + k) n
    let fmt := f 0 4 % 16
    let bias := f 0 4 / 16 % 2 = 1
    let size := if fmt ≤ 1 then 4 else if fmt ≤ 3 then 2 else 1
    let bytes := if fmt = 6 then f 10 2 / 2 else f 10 2 * size
    [(3, 0xFF, o % 16 ≠ 0), (2, 0xFF, w.spad < o + 48),
      (4, 0xFF, 6 < fmt ∨ f 0 4 / 128 % 2 = 1 ∨ f 0 4 / 65536 ≠ 0 ∨ f 6 2 = 0 ∨ 4096 < f 6 2 ∨ f 10 2 = 0 ∨ 256 < f 8 2 + f 10 2 ∨ 4 ≤ fmt ∧ f 10 2 % 48 ≠ 0),
      (1, 0xFF, w.accRows < f 4 2 + f 6 2), (3, 0xFF, f 12 4 % size ≠ 0 ∨ f 16 4 % size ≠ 0),
      (2, 0xFF, w.spad < f 12 4 + (f 6 2 - 1) * f 16 4 + bytes ∨ 4 ≤ fmt ∧ w.spad < f 20 4 + (f 6 2 - 1) * f 24 4 + f 10 2 / 48),
      (3, 0xFF, bias ∧ f 28 4 % 4 ≠ 0), (2, 0xFF, bias ∧ w.spad < f 28 4 + 4 * (f 8 2 + f 10 2))]
  | _ => []

/-- What an array instruction enters into the queue: its park bit, its counter, the scalar it lands in, and the operation with its operands (R239, R242 to R248). -/
def arrayOp (i : Instr) (t : Tiller) (w : Wg) : Option (Bool × Option Nat × Option SReg × ArrKind) :=
  let r (a : SReg) : Nat := (t.rs a).toNat
  let r1 (a : SReg) : Nat := (t.rs (a + 1)).toNat
  match i with
  | .mlds p c a => some (p, some c.toNat, none, .mlds (r a) (r1 a))
  | .mswp p => some (p, none, none, .mswp)
  | .mstr p c a b => some (p, some c.toNat, none, .mstr (r a) (r1 a) (r b) (r1 b))
  | .mgrp p c a =>
    let f (k : Nat) : Nat := readNat w.bytes (r a + 4 * k) 4
    some (p, some c.toNat, none, .mgrp (f 0) (f 1) ((List.range (f 3)).map fun e =>
      (readNat w.bytes (r a + 16 + 16 * e) 4, readNat w.bytes (r a + 16 + 16 * e + 4) 4, readNat w.bytes (r a + 16 + 16 * e + 8) 4)))
  | .mclr p c a b => some (p, some c.toNat, none, .mclr (r a) (r1 a % 8192) (decide (2 ^ 31 ≤ r1 a)) (r b))
  | .mhist p d a b => some (p, none, some d, .mhist (r a) (r1 a) (r b % 2048))
  | .mdrn p c a => some (p, some c.toNat, none, .mdrn ((List.range 48).map fun k => readByte w.bytes (r a + k)))
  | _ => none

/-- A pair of scalars is named by its even register (R34). -/
def evenPairs (i : Instr) : Prop :=
  match i with
  | .mlds _ _ a | .mclr _ _ a _ | .mhist _ _ a _ => a.toNat % 2 = 0
  | .mstr _ _ a b => a.toNat % 2 = 0 ∧ b.toNat % 2 = 0
  | _ => True

/-- The park bit of an array instruction. -/
def isArray : Instr → Bool
  | .mcfg .. | .mlds .. | .mswp _ | .mstr .. | .mgrp .. | .mclr .. | .mhist .. | .mdrn .. => true
  | _ => false

/-- The workgroup of the tiller that issues. -/
def own (s : State) : Nat := 4 * s.tl.sheaf + s.tl.rank

/-- The array may be used: its workgroup owns it, and every lane is active (R15, R238). -/
def arrayUsable (s : State) : Prop := (s.wg (own s)).accRows ≠ 0 ∧ s.tl.act = 0xFFFFFFFF

/-- A chain that an engine runs and whose next command may start: it is not parked, its sheaf is resident and its cluster not held, no command is in progress,
and, where the command is a fence point or has ORD, the array holds nothing that the chain has dispatched (R303, R337, R374). -/
def commandDue (s : State) (u : Nat) (c : Chain) (fence : Prop) : Prop :=
  (s.engine u).chain = some c ∧ (s.engine u).work = none ∧ c.park = none ∧ (s.sheaf (c.wg / 4)).st = .resident ∧ (s.cluster (s.sheaf (c.wg / 4)).cluster).held = false ∧
  (s.engine u).ready = none ∧ (fence → ∀ o ∈ (s.array (u / 8)).queue, ∀ t sc k b z, o.who ≠ .chain u c.seq t sc k b z)

/-- An object of n bytes lies at a multiple of `al` within a chain's allocation, of a rank that there is (R205). -/
def inOwn (s : State) (c : Chain) (rank off n al : Nat) : Prop := off % al = 0 ∧ off + n ≤ (s.wg c.wg).spad ∧ rank < (s.launchOf c.tid).pkt.wg

/-- The flags of a command outside the bits it uses are 0 (R302). -/
def flagsWithin (cmd : Cmd) (used : Nat) : Prop := cmd.flags.toNat &&& (255 - used) = 0

/-- An ORD command (R302). -/
def ord (cmd : Cmd) : Prop := cmd.flags.getLsbD 7 = true

/-- The 32-bit field k of a descriptor that stands at an offset of a chain's allocation. -/
def field (s : State) (c : Chain) (o k n : Nat) : Nat := readNat (s.wg c.wg).bytes (o + k) n

/-- A field that names a place in a scratchpad leaves bits 63:34 zero (R304). -/
def placeOk (v : Nat) (spad : Bool) : Prop := spad = true → v < 2 ^ 34

/-- The bits of FLAGS as R302 names them. -/
def ssp (cmd : Cmd) : Bool := cmd.flags.getLsbD 0
def dsp (cmd : Cmd) : Bool := cmd.flags.getLsbD 1
def sizeField (cmd : Cmd) : Nat := cmd.flags.toNat / 16 % 4

/-- Data commands: their code, the size of their descriptor, the engines that take them, what they ask of X, Y, Z and FLAGS (R302), and of their descriptor's fields (R307 to R310). -/
def dataCommand (i : Instr) (s : State) (c : Chain) : Option (Nat × Cmd × Nat × Nat × Prop × Prop) :=
  let f := field s c
  match i with
  | .copy u x => some (u, x, 1, 32, x.y = 0 ∧ x.z = 0,
      let o := x.x.toNat
      placeOk (f o 0 8) (ssp x) ∧ placeOk (f o 8 8) (dsp x) ∧ f o 16 4 ≠ 0 ∧
      (sizeField x ≠ 0 → sizeField x ≠ 3 ∧ dsp x = false ∧ f o 16 4 % 4 = 0 ∧ f o 0 8 % 4 = 0 ∧ f o 8 8 % 4 = 0))
  | .copy2d u x => some (u, x, 2, 32, x.y = 0 ∧ x.z = 0,
      let o := x.x.toNat
      placeOk (f o 0 8) (ssp x) ∧ placeOk (f o 8 8) (dsp x) ∧ 1 ≤ f o 16 4 ∧ f o 16 4 ≤ 65536 ∧ 1 ≤ f o 20 4 ∧ f o 20 4 ≤ 65536 ∧
      (sizeField x ≠ 0 → sizeField x ≠ 3 ∧ dsp x = false ∧ f o 16 4 % 4 = 0 ∧ f o 0 8 % 4 = 0 ∧ f o 8 8 % 4 = 0 ∧ f o 24 4 % 4 = 0 ∧ f o 28 4 % 4 = 0))
  | .gather u x => some (u, x, 3, 32, x.z = 0 ∧ flagsWithin x 0xCF,
      let o := x.x.toNat
      x.y.toNat % 4 = 0 ∧ placeOk (f o 0 8) (ssp x) ∧ placeOk (f o 8 8) (dsp x) ∧ 1 ≤ f o 16 4 ∧ f o 16 4 ≤ 65536 ∧ 1 ≤ f o 20 4 ∧ f o 20 4 ≤ 65536)
  | .tgather u x => some (u, x, 4, 64, x.y = 0 ∧ x.z = 0 ∧ flagsWithin x 0xCC,
      let o := x.x.toNat
      f o 24 4 % 4 = 0 ∧ 1 ≤ f o 28 4 ∧ f o 28 4 ≤ 4096 ∧ f o 32 4 % 4 = 0 ∧ 64 ≤ f o 36 4 ∧ f o 36 4 ≤ 2 ^ 24 ∧ f o 36 4 % 64 = 0 ∧
      1 ≤ f o 44 4 ∧ f o 44 4 ≤ 4096 ∧ 1 ≤ f o 52 4 ∧ f o 48 4 + f o 52 4 ≤ f o 36 4)
  | .mcast u x => some (u, x, 5, 32, x.y.toNat < 16 ∧ x.z = 0 ∧ flagsWithin x 0xCD,
      let o := x.x.toNat
      placeOk (f o 0 8) (ssp x) ∧ f o 8 8 < 2 ^ 32 ∧ x.y ≠ 0 ∧ (∀ j, j < 4 → x.y.getLsbD j = true → j < (s.launchOf c.tid).pkt.wg) ∧
      1 ≤ f o 16 4 ∧ f o 16 4 ≤ 65536 ∧ 1 ≤ f o 20 4 ∧ f o 20 4 ≤ 65536)
  | .trans u x => some (u, x, 6, 32, x.y = 0 ∧ x.z = 0,
      let o := x.x.toNat
      placeOk (f o 0 8) (ssp x) ∧ placeOk (f o 8 8) (dsp x) ∧ 1 ≤ f o 16 4 ∧ f o 16 4 ≤ 4096 ∧ 1 ≤ f o 20 4 ∧ f o 20 4 ≤ 4096)
  | _ => none

/-- The ranges that a data command checks before its first piece (R304, R307 to R310), its barrier object among them (R302). -/
def dataRanges (i : Instr) (c : Chain) (d : List Byte) : List (Spot × Nat) :=
  let n (o k : Nat) : Nat := natOfBytes ((d.drop o).take k)
  let place (v : Nat) (spad : Bool) : Spot := if spad then .s (v / 2 ^ 32 % 4) (v % 2 ^ 32) else .g v
  let rank (p : Spot) : List Nat := match p with
    | .s r _ => [r]
    | .g _ => []
  let bar (cmd : Cmd) (ranks : List Nat) : List (Spot × Nat) :=
    if cmd.flags.getLsbD 6 = false then [] else if cmd.bar = 0xFFFF then [(.s (c.wg % 4) c.bar, 16)] else ranks.map fun r => (.s r (16 * cmd.bar.toNat), 16)
  let rows := n 20 4
  let len := n 16 4
  match i with
  | .copy _ x =>
    let dst := place (n 8 8) (dsp x)
    [(place (n 0 8) (ssp x), len), (dst, len)] ++ bar x (rank dst)
  | .copy2d _ x =>
    let dst := place (n 8 8) (dsp x)
    [(place (n 0 8) (ssp x), (rows - 1) * n 24 4 + len), (dst, (rows - 1) * n 28 4 + len)] ++ bar x (rank dst)
  | .mcast _ x =>
    let rs := (List.range 4).filter fun j => x.y.getLsbD j
    [(place (n 0 8) (ssp x), (rows - 1) * n 24 4 + len)] ++ (rs.map fun j => (.s j (n 8 8), (rows - 1) * n 28 4 + len)) ++ bar x rs
  | .gather _ x =>
    let dst := place (n 8 8) (dsp x)
    [(.s (c.wg % 4) x.y.toNat, 4 * rows), (place (n 0 8) (ssp x), if ssp x then 0 else 1), (dst, (rows - 1) * n 28 4 + len)] ++ bar x (rank dst)
  | .trans _ x =>
    let dst := place (n 8 8) (dsp x)
    let e := 2 ^ sizeField x
    [(place (n 0 8) (ssp x), (rows - 1) * n 24 4 + len * e), (dst, (len - 1) * n 28 4 + rows * e)] ++ bar x (rank dst)
  | .tgather _ x =>
    [(.s (c.wg % 4) (n 24 4), 4 * n 28 4), (.s (c.wg % 4) (n 56 4), (n 28 4 - 1) * n 60 4 + n 44 4 * n 52 4), (.g (n 0 8), 1), (.g (n 8 8), 1), (.g (n 16 8), 1)] ++
      bar x [c.wg % 4]
  | _ => []

/-- A range lies within the allocation of a rank that there is, or, in global memory, its first and its last byte below 2^56 (R304). -/
def rangeOk (s : State) (c : Chain) (e : Spot × Nat) : Prop :=
  match e.1 with
  | .s r o => r < (s.launchOf c.tid).pkt.wg ∧ (e.2 = 0 ∨ o + e.2 ≤ (s.wg c.wg).spad)
  | .g va => va < 2 ^ 56 ∧ (va + (e.2 - 1)) % 2 ^ 64 < 2 ^ 56

/-- The array commands, as the operation each enters: its unit, its command, the operation's checks on its workgroup, and the place of an MHIST result (R313). -/
def arrayCommand (i : Instr) (w : Wg) : Option (Nat × Cmd × ArrCheck × Option Nat × Prop × Nat) :=
  match i with
  | .cmdMlds u x => some (u, x, w.mlds x.x.toNat x.y.toNat, none, x.z = 0, 0xC0)
  | .cmdMswp u x => some (u, x, .ok .mswp, none, x.x = 0 ∧ x.y = 0 ∧ x.z = 0, 0xC0)
  | .cmdMstr u x => some (u, x, w.mstr x.x.toNat x.y.toNat (x.z.toNat % 2 ^ 13) (x.z.toNat / 2 ^ 16 % 2 ^ 12), none, x.z.toNat / 2 ^ 13 % 8 = 0 ∧ x.z.toNat / 2 ^ 28 = 0, 0xC0)
  | .cmdMgrp u x => some (u, x, w.mgrp x.x.toNat, none, x.y = 0 ∧ x.z = 0, 0xC0)
  | .cmdMdrn u x => some (u, x, w.mdrn x.x.toNat, none, x.y = 0 ∧ x.z = 0, 0xC0)
  | .cmdMhist u x => some (u, x, w.mhist (x.x.toNat % 2 ^ 12) (x.x.toNat / 2 ^ 16 % 2 ^ 13) x.y.toNat, if x.z = 0xFFFFFFFF then none else some x.z.toNat,
      x.x.toNat / 2 ^ 12 % 16 = 0 ∧ x.x.toNat / 2 ^ 29 = 0, 0xC0)
  | .cmdMclr u x => some (u, x, w.mclr x.x.toNat x.y.toNat x.z.toNat, none, True, 0xC0)
  | _ => none

/-- Whether an operation reads or writes the scratchpad (R235). -/
def usesBytes : ArrKind → Bool
  | .mlds .. | .mstr .. | .mgrp .. | .mdrn _ => true
  | .mclr _ _ load _ => load
  | .mswp | .mhist .. => false

/-- The accesses of the tiller that issues to other ranks' allocations that have not performed, which its array operations come after (R235). -/
def elsewhere (s : State) : List Nat :=
  (s.flights.filter fun e => e.2.tid == s.cur && (match e.2.kind with
    | .remote .. | .spadStore .. => true
    | _ => false)).map (·.1)

/-- An operation as it enters the queue (R233). -/
def entered1 (k : ArrKind) (cfg : Word) (who : ArrBy) (g : Nat) (after : List Nat) : ArrOp :=
  { kind := k, cfg := cfg, who := who, wg := g, started := false, step := 0, grp := 0, row := 0, swap := false, flags := 0, segs := [], due := [], after := after, undo := [], planes := none }

/-- An operation that runs on bytes and rows that stand under no error (R240). -/
def sound (s : State) (o : ArrOp) : Prop := o.started = true ∧ (s.wg o.wg).badUnits = [] ∧ (s.wg o.wg).badRows = []

/-- The accumulator entry of a workgroup at a row and column (R232). -/
def accEntry (w : Wg) (r c : Nat) : Word := tget 0 w.acc (256 * r + c)

/-- What row j of an activation tile at an offset makes of an accumulator row, under the planes and the PE's passes: its results and their flags (R76 to R80, R230, R244). -/
def streamed (o : ArrOp) (u : ArrayUnit) (w : Wg) (aoff asoff j crow : Nat) : List Word × Flags :=
  let (_, _, row, groups, sc) := tileSizes o.cfg
  passRow o.cfg (u.active.elems, u.active.scales) (accEntry w crow) (readBytes w.bytes (aoff + j * row) row)
    (if sc = true then (readBytes w.bytes (asoff + j * groups) groups).map BitVec.toNat else [])

/-- Bytes at rising offsets. -/
def bytesFrom (a : Nat) (bs : List Byte) : List Host.Cell := bs.zipIdx.map fun e => (a + e.2, e.1)

/-! ### What pieces move (R304 to R311) -/

/-- A place some bytes further; global addresses wrap at 2^64 (R304). -/
def further (p : Spot) (k : Nat) : Spot :=
  match p with
  | .g va => .g ((va + k) % 2 ^ 64)
  | .s r o => .s r (o + k)

/-- An address field (R304). -/
def placeOf (v : Nat) (spad : Bool) : Spot := if spad then .s (v / 2 ^ 32 % 4) (v % 2 ^ 32) else .g v

/-- The rows of a data command and their bytes; and, for row r whose index or table word is x, where byte k goes and whence it comes, none where it is 0 (R307 to R310). -/
def rowShape (w : Work) (own r x : Nat) : Nat × Nat × (Nat → List Spot) × (Nat → Option Spot) :=
  let f (o n : Nat) : Nat := natOfBytes ((w.desc.drop o).take n)
  let src := placeOf (f 0 8) (ssp w.cmd)
  let dst := placeOf (f 8 8) (dsp w.cmd)
  let e := 2 ^ sizeField w.cmd
  match w.op with
  | 1 => (1, f 16 4, fun k => [further dst k], fun k => some (further src k))
  | 2 => (f 20 4, f 16 4, fun k => [further dst (r * f 28 4 + k)], fun k => some (further src (r * f 24 4 + k)))
  | 3 => (f 20 4, f 16 4, fun k => [further dst (r * f 28 4 + k)], fun k => if x = 0xFFFFFFFF then none else some (further src (x * f 24 4 + k)))
  | 4 => (f 28 4 * f 44 4, f 52 4, fun k => [.s own (f 56 4 + r / f 44 4 * f 60 4 + r % f 44 4 * f 52 4 + k)],
      fun k => if x = 0xFFFFFFFF then none else some (further (.g (f 0 8)) (x * f 36 4 + f 48 4 + k)))
  | 5 => (f 20 4, f 16 4, fun k => ((List.range 4).filter fun j => w.cmd.y.getLsbD j).map fun j => .s j (f 8 8 + r * f 28 4 + k), fun k => some (further src (r * f 24 4 + k)))
  | _ => (f 16 4, f 20 4 * e, fun k => [further dst (r * f 28 4 + k)], fun k => some (further src (k / e * f 24 4 + r * e + k % e)))

/-- The line a place stands in. -/
def lineAt (p : Spot) : Nat × Nat :=
  match p with
  | .g va => (4, va / 64)
  | .s r o => (r, o / 64)

/-- A byte as it stands: in an allocation of the chain's sheaf, in memory, or in a coded block's logical bytes (R91), `ref` giving the line of each 64 bytes of addresses. -/
def byteAt (s : State) (c : Chain) (ref : Nat → LineRef) (p : Spot) : Byte :=
  match p with
  | .s r o => readByte (s.wg (4 * (c.wg / 4) + r)).bytes o
  | .g va =>
    let q := ref (va / 64)
    if q.coded = true then (s.blockLogical q.key.base q.key.rate).getD (64 * q.key.h + va % 64) 0 else readByte s.mem (q.pa + va % 64)

/-- A line of this package's memory that stands under no error: a plain one, or, where `codec` lets it, one of a coded block that is not held. -/
def soundLine (s : State) (codec : Bool) (r : LineRef) : Prop :=
  ((∃ d, physKind r.pa = .hbm d) ∨ physKind r.pa = .granary) ∧
  if r.coded = true then codec = true ∧ r.pa = r.key.base ∧ r.key.h < 2 ∧ 0 < r.key.rate ∧ s.blockHeld r.key.base = false ∧ s.blockBad r.key.base r.key.rate = false
  else r.pa % 64 = 0 ∧ r.key = ⟨r.pa, 0, 0⟩ ∧ s.bad r.pa = false

/-- Addresses, each with the access a chain makes, translate to lines of this package's memory, those of the first list to plain ones, whichever of them are translated before, and while other accesses are served (R294, R321). -/
def mapped (s : State) (c : Chain) (ref : Nat → LineRef) (plain l : List (Nat × Access)) : Prop :=
  (∀ e ∈ plain, soundLine s false (ref (e.1 / 64))) ∧ (∀ e ∈ l, soundLine s true (ref (e.1 / 64))) ∧
  ∃ keeps : State → Prop, keeps s ∧
    (∀ st x : State, keeps st → keeps { st with slices := x.slices, banks := x.banks, clusters := x.clusters, engines := x.engines, waits := x.waits }) ∧
    ∀ st, keeps st → ∀ e ∈ plain ++ l, ∀ va, va / 64 = e.1 / 64 →
      let q := st.translate (c.tid / 64) (c.tid / 16 % 4) (st.tenantOf c.tid) (st.rootOf c.tid) va e.2
      q.1 = .ok (ref (va / 64)) ∧ keeps q.2

/-- A core's cache and its requests under way hold nothing of a line (R294). -/
def untouched (s : State) (core : Nat) (r : LineRef) : Prop :=
  (∀ l ∈ (s.core core).l1, l.key ≠ r.key) ∧ ∀ q ∈ s.links.map (·.req) ++ s.transit, q.key ≠ r.key

/-- The word that the row of a gather or a tgather depends on: kept from the row's first piece, or read now from the list or the tables; `acc` are the addresses of the table words (R308, R310). -/
def rowWordIs (s : State) (c : Chain) (w : Work) (ref : Nat → LineRef) (r x : Nat) (acc : List (Nat × Access)) : Prop :=
  let f (o n : Nat) : Nat := natOfBytes ((w.desc.drop o).take n)
  let fresh : Prop := ∀ y, w.row ≠ some (r, y)
  let word (va : Nat) : Nat := natOfBytes ((List.range 4).map fun k => byteAt s c ref (.g (va + k)))
  match w.op with
  | 3 => (w.row = some (r, x) ∨ fresh ∧ x = readNat (s.wg c.wg).bytes (w.cmd.y.toNat + 4 * r) 4) ∧ acc = []
  | 4 => w.row = some (r, x) ∧ acc = [] ∨ fresh ∧
      let i := r / f 44 4
      let ia := (f 16 8 + 4 * readNat (s.wg c.wg).bytes (f 24 4 + 4 * i) 4) % 2 ^ 64
      ∃ q, let ba := (f 8 8 + q * f 32 4 + 4 * (f 40 4 + r % f 44 4)) % 2 ^ 64
        ba % 4 = 0 ∧ ba < 2 ^ 56 ∧ x = word ba ∧
        (w.sel = some (i, q) ∧ acc = [(ba, .table)] ∨
          (∀ y, w.sel ≠ some (i, y)) ∧ ia % 4 = 0 ∧ ia < 2 ^ 56 ∧ q = word ia ∧ acc = [(ia, .table), (ba, .table)])
  | _ => acc = []

/-- The addresses of global places, with an access. -/
def globals (acc : Access) (ps : List Spot) : List (Nat × Access) := ps.filterMap fun p =>
  match p with
  | .g va => some (va, acc)
  | .s _ _ => none

/-- An engine that is in the middle of a data command: its chain is neither parked nor held up, and no watch stands anywhere. -/
def atWork (s : State) (u : Nat) (c : Chain) (w : Work) : Prop :=
  (s.engine u).chain = some c ∧ (s.engine u).work = some w ∧ c.park = none ∧ (s.sheaf (c.wg / 4)).st = .resident ∧ (s.cluster (s.sheaf (c.wg / 4)).cluster).held = false ∧
  (∀ e ∈ s.slices, e.2.watches = []) ∧ (∀ g, Memory.wf (s.wg g).bytes = true) ∧ Memory.wf s.mem = true

/-- No piece of a unit is with its core's codec. -/
def noPiece (s : State) (u : Nat) : Prop := ∀ j ∈ (s.core (u / 8)).jobs, ∀ a b p, j.kind ≠ .engine u a b p

/-- The event by which a unit's piece performs: its own, where it reads and writes no coded block, or the end of its job in the codec (R105). -/
def turnOf (s : State) (u : Nat) (coded : Prop) (e : Instr) : Prop :=
  ¬coded ∧ noPiece s u ∧ e = .pieceWrite u ∨
  ∃ j rest a b p, (s.core (u / 8)).jobs = j :: rest ∧ j.kind = .engine u a b p ∧ j.started = true ∧ j.left = 0 ∧
    (b = [] ∧ e = .codecDecode (u / 8) ∨ b ≠ [] ∧ e = .codecWriteBack (u / 8) false)

/-- The coded block of a place, where it stands in one. -/
def blockOf (ref : Nat → LineRef) (p : Spot) : Option LineRef :=
  match p with
  | .g va => if (ref (va / 64)).coded = true then some (ref (va / 64)) else none
  | .s _ _ => none

/-- The object at which bytes of a rank's allocation land, and the scope: the workgroup, the offset, the scope (R302, R305). -/
def landing (c : Chain) (w : Work) (r : Nat) : Nat × Nat × Nat :=
  (if w.cmd.bar = 0xFFFF then c.wg else 4 * (c.wg / 4) + r, if w.cmd.bar = 0xFFFF then c.bar else 16 * w.cmd.bar.toNat, if r = c.wg % 4 then c.scope else max 2 c.scope)

/-- Some numbers of bytes have landed, by rank: each object is as their landings leave it (R221). -/
def landed (s s' : State) (c : Chain) (w : Work) (ls : List (Nat × Nat)) : Prop :=
  ∀ g o, (∃ e ∈ ls, (landing c w e.1).1 = g ∧ (landing c w e.1).2.1 = o) →
    let x := (ls.filter fun e => (landing c w e.1).1 = g).foldl (fun (y : Wg) e => y.land o (landing c w e.1).2.2 e.2) (s.wg g)
    barrier (s'.wg g) o = barrier x o ∧ (s'.wg g).lScope o = x.lScope o ∧ (s'.wg g).pScope o = x.pScope o

/-- Places that lie apart from the objects at which some ranks' bytes land. -/
def apart (c : Chain) (w : Work) (ls : List (Nat × Nat)) (ps : List Spot) : Prop :=
  ∀ e ∈ ls, ∀ p ∈ ps, ∀ r x, p = .s r x → 4 * (c.wg / 4) + r = (landing c w e.1).1 → x < (landing c w e.1).2.1 ∨ (landing c w e.1).2.1 + 16 ≤ x

/-- An offset of an allocation that no landing changes. -/
def awayFrom (c : Chain) (w : Work) (ls : List (Nat × Nat)) (g o : Nat) : Prop :=
  ∀ e ∈ ls, (landing c w e.1).1 = g → o < (landing c w e.1).2.1 ∨ (landing c w e.1).2.1 + 16 ≤ o

/-- A piece of n bytes from byte k of a row on: the longest run within one line of each side and within the row (R305). -/
def longestRun (dst : Nat → List Spot) (src : Nat → Option Spot) (k len n : Nat) : Prop :=
  let alike (j : Nat) : Prop := (dst (k + j)).map lineAt = (dst k).map lineAt ∧ (src (k + j)).map lineAt = (src k).map lineAt
  1 ≤ n ∧ k + n ≤ len ∧ (∀ j, j < n → alike j) ∧ (k + n < len → ¬alike n)

/-- The release that an engine arrival makes first is over: it found nothing to wait for, or what it waited for has performed (R213, R217). -/
def engReleased (s : State) (u : Nat) (c : Chain) (sc : Nat) (s0 : State) : Prop :=
  ((∃ ws, (s.engine u).read = some (c.cidx, ws)) ∧ tfind s.flights c.rel = none ∧ s0 = s) ∨
  ((∀ e, (s.engine u).read = some e → e.1 ≠ c.cidx) ∧
    (sc < 2 ∧ s0 = s ∨ 2 ≤ sc ∧ s0 = s.writeBackAll (c.tid / 64) (some c.tid) (fun _ => true) ∧ s0.pendingWrites (c.tid / 64) sc = []))

/-- It has to wait: for what it sends now, or for what it has sent. -/
def engReleasing (s : State) (u : Nat) (c : Chain) (sc : Nat) : Prop :=
  ((∃ ws, (s.engine u).read = some (c.cidx, ws)) ∧ tfind s.flights c.rel ≠ none) ∨
  ((∀ e, (s.engine u).read = some e → e.1 ≠ c.cidx) ∧ 2 ≤ sc ∧ (s.writeBackAll (c.tid / 64) (some c.tid) (fun _ => true)).pendingWrites (c.tid / 64) sc ≠ [])

/-- A command that waits for its release: its chain is where it was, with the words of the command and the operation it waits for, and no allocation nor memory has changed. -/
def waitsRelease (s s' : State) (u : Nat) (c : Chain) (i : Instr) : Prop :=
  (∃ c', (s'.engine u).chain = some c' ∧ c' = { c with rel := c'.rel } ∧ tfind s'.flights c'.rel ≠ none) ∧ s'.wgs = s.wgs ∧ s'.mem = s.mem ∧
  ((∃ ws, (s.engine u).read = some (c.cidx, ws)) ∧ s' = s ∨ ∃ a b d e, decodeCmd u ⟨a, b, d, e⟩ = some i ∧ (s'.engine u).read = some (c.cidx, [a, b, d, e]))

/-- How far a range walker has come through the cores, from the first (R295). -/
def walked (s : State) (u : Nat) : Flushing := (s.engine u).walk.getD ⟨0, 0, [], [], []⟩

/-- A core holds nothing dirty of a range, and no write-back of its to the range has yet to perform. -/
def cleanIn (s : State) (inside : LKey → Bool) (n : Nat) : Prop := (s.core n).dirtyLines inside = [] ∧ s.writesOf n inside = []

/-- Step 3 of R295 for the next core that holds dirty lines of a range, `pre` being those before it that hold none: each is on its way home, its bytes with it, and counted; a line with a byte that was dirty in an earlier core is a dirty-overlap event; and no line of the range is left in these cores. -/
def sentHome (s s' : State) (u : Nat) (c : Chain) (inside : LKey → Bool) (pre : List Nat) (n : Nat) : Prop :=
  let f := walked s u
  let ls := (s.core n).dirtyLines inside
  (s'.engine u).chain = some c ∧ (s'.engine u).work.isSome = true ∧ s'.mem = s.mem ∧
  (∀ l ∈ ls,
    (l.key.rate = 0 → ∃ r ∈ s'.transit, r.src = n ∧ r.flight = none ∧ r.key = l.key ∧ r.pa = l.key.base ∧ r.op = .write l.dirtyBytes false) ∧
    (l.key.rate ≠ 0 → ∃ j ∈ (s'.core n).jobs, j.base = l.key.base ∧ j.rate = l.key.rate ∧ ∃ id w, j.kind = .write id none w c.tid ∧ ∀ e ∈ l.blockDirty, e ∈ w)) ∧
  (∀ m ∈ pre ++ [n], ∀ l ∈ (s'.core m).l1, inside l.key = false) ∧
  ∃ f' : Flushing, (s'.engine u).walk = some f' ∧ f'.core = n + 1 ∧ f'.count = f.count + ls.length ∧
    (∀ q, q ∈ f'.seen ↔ q ∈ f.seen ∨ ∃ l ∈ ls, l.key = q.1 ∧ ∃ e ∈ l.dirtyBytes, e.1 = q.2) ∧
    (∀ k, k ∈ f'.laps ↔ k ∈ f.laps ∨ ∃ l ∈ ls, l.key = k ∧ ∃ e ∈ l.dirtyBytes, (k, e.1) ∈ f.seen)

/-- A command's progress after a piece: the next piece, or the next command after the last one (R303, R305). -/
def progressed (s' : State) (u : Nat) (c : Chain) (pos total : Nat) : Prop :=
  (pos < total → (s'.engine u).chain = some { c with done := c.done + 1 } ∧ (s'.engine u).work.map Work.pos = some pos) ∧
  (total ≤ pos → (s'.engine u).chain = some { c with cidx := c.cidx + 1, done := 0 } ∧ (s'.engine u).work = none)

/-- The landings of a piece of n bytes with LAND: in each rank it writes, or, where it writes a coded block, at the chain's own barrier (R105, R302, R305). -/
def landings (c : Chain) (w : Work) (ref : Nat → LineRef) (ps : List Spot) (n : Nat) : List (Nat × Nat) :=
  if w.cmd.flags.getLsbD 6 = false then []
  else ps.filterMap fun p =>
    match p with
    | .s r _ => some (r, n)
    | .g _ => if (blockOf ref p).isSome ∧ w.cmd.bar = 0xFFFF then some (c.wg % 4, n) else none

/-- What a piece of n bytes, from byte k of row r on, leaves: its bytes at every destination, a reduction's words, a coded block encoded again from its bytes, its landings, its progress, and everything else as it was (R102, R303 to R310). -/
def pieceDone (s s' : State) (u : Nat) (c : Chain) (w : Work) (ref : Nat → LineRef) (x n : Nat) : Prop :=
  let len := (rowShape w (c.wg % 4) 0 0).2.1
  let (r, k) := (w.pos / len, w.pos % len)
  let (rows, _, dst, src) := rowShape w (c.wg % 4) r x
  let red := if w.op ≤ 2 then sizeField w.cmd else 0
  let value (j : Nat) : Byte := match src (k + j) with
    | some q => byteAt s c ref q
    | none => 0
  let into := ((dst k).head?.bind (blockOf ref))
  let ls := landings c w ref (dst k) n
  (red = 0 → into = none → ∀ j, j < n → ∀ p ∈ dst (k + j), byteAt s' c ref p = value j) ∧
  (∀ q va, into = some q → dst k = [.g va] →
    let old := s.blockLogical q.key.base q.key.rate
    let new := (List.range 128).map fun i => if va % 128 ≤ i ∧ i < va % 128 + n then value (i - va % 128) else old.getD i 0
    readBytes s'.mem q.key.base (2 * q.key.rate) = if n < 128 ∧ new = old then readBytes s.mem q.key.base (2 * q.key.rate) else encodeBlock q.key.rate (s64OfBytes 16 new)) ∧
  (red ≠ 0 → ∀ j, j < n → j % 4 = 0 → ∀ p, dst (k + j) = [.g p] →
    let a := (ref (p / 64)).pa + p % 64
    let v := natOfBytes ((List.range 4).map fun i => value (j + i))
    readNat s'.mem a 4 = if red = 1 then (readNat s.mem a 4 + v) % 2 ^ 32 else (atomNew .fadd .f32 (readNat s.mem a 4) v).1) ∧
  landed s s' c w ls ∧
  (∀ g o, (∀ j, j < n → ∀ r, Spot.s r o ∈ dst (k + j) → g ≠ 4 * (c.wg / 4) + r) → awayFrom c w ls g o → readByte (s'.wg g).bytes o = readByte (s.wg g).bytes o) ∧
  (∀ a, (into = none → ∀ j, j < n → ∀ p, Spot.g p ∈ dst (k + j) → a ≠ (ref (p / 64)).pa + p % 64) →
    (∀ q, into = some q → (a < q.key.base ∨ q.key.base + 2 * q.key.rate ≤ a) ∧
      let rec0 := s.crtbase / 4096 * 4096 + 32 * q.crid
      (s.crtbase % 2 = 1 → a < rec0 ∨ rec0 + 32 ≤ a)) →
    readByte s'.mem a = readByte s.mem a) ∧
  progressed s' u c (w.pos + n) (rows * len)

/-- A score as select ranks it, none for a NaN: the greater first, and of equal ones the lower index (R311). -/
def ranked (f : Fmt) (xs : List Nat) (i j : Nat) : Prop :=
  ∃ a b, xs[i]? = some a ∧ xs[j]? = some b ∧ ((f.num a).cmp (f.num b) = some .gt ∨ (f.num a).cmp (f.num b) = some .eq ∧ i < j)

end Sys2Proof.Says

namespace Sys2Proof.Says

open Sys2Proof.Machine

/-! ### Cycles, power and frequency (R9, R17, R183 to R199, R354, R369, R373, R374, R377) -/

/-- The length of a cycle of a class at a frequency of 25 n MHz, in ticks: 40, 50, 80 or 100 parts of 40 of the clock's period (R9, R186). -/
def cycleLength (mhz cls : Nat) : Nat := lget 40 [40, 50, 80, 100] cls * (ticksPerNs / (mhz / 25))

/-- The FLL after the end of a step at a time: the frequency, and the next step where the target is not reached (R193). -/
def fllNext (c : Cluster) (cur now : Nat) : Cluster :=
  if c.tgt ≤ cur ∧ cur < c.tgt + 25 then { c with step := false, cur := cur }
  else if cur < c.tgt then { c with step := true, up := true, cur := cur, stepEnd := now + 500 }
  else { c with step := true, up := false, cur := cur - 25, stepEnd := now + 250 }

/-- The target of R192: the base of CLKCTL and the minimum the resident sheaves ask, under the cap. -/
def target (s : State) (cl cap base : Nat) : Nat := min cap (max (600 + 25 * min base 60) (s.minFreqOf cl))

/-- How far a position stands behind a slot's round-robin pointer (R189). -/
def behindRr (rr tid : Nat) : Nat := (tid % 16 + 16 - (rr + 1)) % 16

/-- Oldest of R189: the longest wait, and of those the first position after the pointer. -/
def isOldest (s : State) (rr : Nat) (l : List Offer) (o : Offer) : Prop :=
  o ∈ l ∧ ∀ x ∈ l, (s.tiller x.tid).wait < (s.tiller o.tid).wait ∨ (s.tiller x.tid).wait = (s.tiller o.tid).wait ∧ behindRr rr o.tid ≤ behindRr rr x.tid

/-- Those of a list that pass a test, or all where none does. -/
def preferred (l : List Offer) (p : Offer → Bool) : List Offer := if l.filter p = [] then l else l.filter p

/-- The floor of a core's cycle (R183, R184): the greatest class of what is in progress and of the clauses that continue. -/
def floorIs (s : State) (core : Nat) (going : List Nat) (n : Nat) : Prop :=
  let slow : Prop := (∃ e ∈ s.flights, e.2.core = core ∧ e.2.left ≠ 0 ∧ ∃ r, e.2.kind = .result r ∧ (r = .cord ∨ r = .divf ∨ r = .divi)) ∨ ∃ j ∈ (s.core core).jobs, j.started = true
  let array : Prop := ∃ o ∈ (s.array core).queue, o.started = true
  let clause (k : Nat) : Prop := ∃ t ∈ going, ∃ r, (s.tiller t).run = some r ∧ r.cls = k
  (slow → 3 ≤ n) ∧ (array → 2 ≤ n) ∧ (∀ k, clause k → k ≤ n) ∧ (n = 0 ∨ n = 3 ∧ slow ∨ n = 2 ∧ array ∨ clause n)

/-- The numbers of a table rise, so that it lists none twice. -/
def rising {α : Type} (t : Table α) : Prop := t.Pairwise fun a b => a.1 < b.1

/-- The control space answers a write of the host: no boot has failed (R371). -/
def ctlServes (s : State) : Prop := s.pkg.err = 0

end Sys2Proof.Says

namespace Sys2Proof.Says

open Sys2Proof.Machine

/-! ### Homes, caches, the codec and HBM (R101 to R106, R111, R222, R223, R251 to R270, R279, R286, R375) -/

/-- The distance of a source after a round-robin pointer, among the 256 cores and the host's place (R254, R264). -/
def after (ptr src : Nat) : Nat := (src + 257 - (ptr + 1) % 257) % 257

/-- A write-back with an earlier one of its core to the same slice before it, in the slice's queue or waiting for the host (R270). -/
def waitsItsTurn (s : State) (sl : Nat) (r : Req) : Prop :=
  let back (q : Req) : Prop := q.src ≠ 256 ∧ q.flight = none ∧ q.op.writes = true
  back r ∧ ∃ q, back q ∧ q.src = r.src ∧ q.id < r.id ∧ (q ∈ (s.slice sl).queue ∨ ∃ l ∈ s.links, l.snoop = true ∧ l.req = q ∧ s.home q.pa = sl)

/-- A line of an operation that has been served, with its bytes and whether they are bad. -/
def served (s : State) (id : Nat) (k : LKey) (data : List Byte) (err : Bool) : Prop :=
  ∃ q ∈ (s.flight id).parts, q.key = k ∧ q.st = .done ∧ q.data = data ∧ q.err = err

/-- An outstanding load that waits for a line at the home, the codec or a link. -/
def waitsFor (s : State) (id : Nat) (k : LKey) (st : LineSt) (q : Part) : Prop :=
  (∃ d wd refs, (s.flight id).kind = .load d wd refs) ∧ tfind s.flights id = some (s.flight id) ∧ q ∈ (s.flight id).parts ∧ q.key = k ∧ q.st = st

/-- The clean table of a 5-level walk: the entry at a level, found from its table's address (R319). -/
def entryAt (s : State) (table va lo n : Nat) : Nat := readNat s.mem (table + 8 * (va / 2 ^ lo % 2 ^ n)) 8

/-- An entry that points to a table: V set, LEAF clear, and the bits between clear; its address stands in bits 63:24 (R320). -/
def pointsTo (e table : Nat) : Prop := e % 2 ^ 24 = 1 ∧ table = e / 2 ^ 24 * 4096

/-- A place where an entry can be read (R321). -/
def readable (s : State) (pa : Nat) : Prop := s.populated pa = true ∧ physKind pa ≠ .control

/-- Whether the registers of TLBINV cover a page of a root (R323). -/
def covered (k : Pkg) (root page : Nat) : Prop := (k.tlbRoot = 0 ∨ k.tlbRoot = root) ∧ (k.tlbCount = 0 ∨ k.tlbVpn ≤ page ∧ page < k.tlbVpn + k.tlbCount)

/-- The lanes of an atomic in order, over memory: each takes what the operation makes of the number it finds, and gives that number back (R279, R280, R283). -/
def applied (op : AtomOp) (ty : AtomTy) (cas : Bool) : List Host.Cell → List AtomLane → List Host.Cell × List (Nat × Nat)
  | m, [] => (m, [])
  | m, l :: rest =>
    let n := if ty.is64 then 8 else 4
    let old := readNat m l.pa n
    let new := if cas then (if old = l.cmp then l.operand else old) else (atomNew op ty old l.operand).1
    let r := applied op ty cas (writeNat m l.pa n new) rest
    (r.1, (l.lane, old) :: r.2)

/-- A byte of a line as a core sees it: what its first-level cache holds dirty stands over the home's (R294). -/
def overWith (c : Core) (k : LKey) (o : Nat) (b : Byte) : Byte :=
  match c.l1.find? fun l => decide (l.key = k) with
  | some l =>
    (match lget .invalid l.cells o with
    | .dirty d => d
    | .clean _ | .invalid => b)
  | none => b

/-- The bytes of a block with bytes merged in, the last given for an offset counting (R102). -/
def merged (old : List Byte) (dirty : List (Nat × Byte)) : List Byte := old.zipIdx.map fun e =>
  match (dirty.filter fun d => decide (d.1 = e.2)).getLast? with
  | some d => d.2
  | none => e.1

/-- The memory after a write-back of a block: nothing changes where no byte does, and otherwise the encoding of the merged values stands in its backing (R102). -/
def writtenBack (m : List Host.Cell) (base rate : Nat) (dirty : List (Nat × Byte)) : List Host.Cell :=
  let old := bytesOf64s (decodeBlock rate (readBytes m base (2 * rate)))
  let new := merged old dirty
  if dirty.length < 128 ∧ new = old then m
  else writeBytes m base (encodeBlock rate ((List.range 16).map fun i => natOfBytes ((new.drop (8 * i)).take 8)))

/-- A job at the head of a core's codec whose cycles are over (R111). -/
def jobDone (s : State) (core : Nat) (j : CodecJob) (rest : List CodecJob) : Prop := (s.core core).jobs = j :: rest ∧ j.started = true ∧ j.left = 0

/-- The job leaves, the locks of its core are free, and the next asks for its lines and its lock; one without a block starts at once (R103, R111). -/
def jobLeft (s s' : State) (core : Nat) (rest : List CodecJob) : Prop :=
  (∀ e ∈ s'.slices, ∀ x ∈ e.2.locks, x.2 = core → ∃ j ∈ (s'.core core).jobs.head?, j.started = true ∧ ∃ b ∈ j.writes, x.1 = b.1) ∧
  (s'.core core).jobs.map (fun j => (j.kind, j.base, j.rate, j.va)) = rest.map (fun j => (j.kind, j.base, j.rate, j.va)) ∧
  (∀ j r, rest = j :: r → j.kind = .busy → j.rate = 0 → j.started = false → (s'.core core).jobs.head? = some { j with started := true, touched := some (j.touched.getD s.now) })

/-- The room that an entry claims in each slice of its placement (R258). -/
def claimOf (e : ResEntry) : Nat :=
  let n := if e.place = 0 then 16384 else if e.place = 1 then 512 else 64
  if e.kind = 0 then 64 * (256 * e.quota / n) else if e.kind = 1 then e.size / n else 16384 * (e.quota / n)

/-- The claims of entries fit in every slice; the slices of one vault are alike (R258). -/
def fit (es : List ResEntry) : Prop := ∀ die vault, die < 32 → vault < 8 →
  ((es.filter fun e => decide (e.place = 0 ∨ e.place = 1 ∧ e.die = die ∨ e.place ≠ 0 ∧ e.place ≠ 1 ∧ e.die = die ∧ e.vault = vault)).map claimOf).sum ≤ 4194304

/-- The entries that stand in the map beside one, those under removal among them. -/
def others (s : State) (n : Nat) : List ResEntry := (s.resid.filter fun e => decide (e.1 ≠ n ∧ (e.2.valid = true ∨ e.2.change = 2))).map (·.2)

/-- Why a commit is rejected: the reasons of R257 by their codes 1 to 6. -/
def rejects (s : State) (n : Nat) (e : ResEntry) (code : Nat) : Prop :=
  (code = 1 ∧ (e.kind = 3 ∨ e.place = 3 ∨ e.policy = 3 ∨ e.policy ≠ 0 ∧ e.kind ≠ 0)) ∨
  (code = 2 ∧ (e.base % 65536 ≠ 0 ∨ e.size % 65536 ≠ 0 ∨ e.size = 0 ∨ e.kind = 1 ∧ e.place = 0 ∧ (e.base % 2 ^ 20 ≠ 0 ∨ e.size % 2 ^ 20 ≠ 0))) ∨
  (code = 3 ∧ ¬(if e.kind = 1 then physKind e.base = .granary ∧ physKind (e.base + e.size - 1) = .granary
    else ∃ d, physKind e.base = .hbm d ∧ physKind (e.base + e.size - 1) = .hbm d)) ∨
  (code = 4 ∧ ∃ o ∈ others s n, e.base < o.base + o.size ∧ o.base < e.base + e.size) ∨
  (code = 5 ∧ ¬fit (e :: others s n)) ∨
  (code = 6 ∧ e.kind = 2 ∧ (e.metabase % 64 ≠ 0 ∨ ¬∃ o ∈ others s n, o.valid = true ∧ o.kind = 1 ∧
    o.base ≤ e.metabase ∧ e.metabase < o.base + o.size ∧ o.base ≤ e.metabase + e.size / 2048 - 1 ∧ e.metabase + e.size / 2048 - 1 < o.base + o.size))

/-- Blocks of a KV contract at a slice that are to be kept: their metadata has retention 7 (R262). -/
def retained (s : State) (e : ResEntry) (b : KvBlock) : Prop := readNat s.mem (e.metabase + 8 * ((b.base - e.base) / 16384)) 8 / 2 ^ 48 % 8 = 7

/-- The fields of a residency-map entry as bytes 0 to 7 give them (R256). -/
def fieldsOf (e : ResEntry) (v : Nat) : ResEntry := { e with
  kind := v / 2 % 4, place := v / 8 % 4, policy := v / 32 % 4, die := v / 256 % 32, vault := v / 8192 % 8, tenant := v / 65536 % 65536 }

end Sys2Proof.Says

namespace Sys2Proof.Says

open Sys2Proof.Machine

/-! ### The scheduler and the package (R12, R337 to R344, R345 to R377) -/

/-- Whether the sheaf with a number holds its cluster. -/
def isResident (h : Sheaf) : Prop := h.st = .resident ∨ h.st = .pending ∨ h.st = .saving ∨ h.st = .resuming

/-- Every tiller of a sheaf has exited, with nothing outstanding and no chain left (R12, R357). -/
def mayEnd (s : State) (i : Nat) : Prop :=
  isResident (s.sheaf i) ∧ (∀ e ∈ (s.sheaf i).tids, (s.tiller e.2).exited = true ∧ (s.tiller e.2).steward = false) ∧ s.sheafQuiet i = true ∧ s.hasChains i = false

/-- The 64-byte lines of a range of addresses (R364, R365). -/
def lines (addr len : Nat) : List Nat := (List.range ((addr + len + 63) / 64 - addr / 64)).map fun k => addr / 64 + k

/-- The requests that an access from outside makes: one for each of its lines, from source 256, with the bytes of a write that fall in the line (R254, R365, R367). -/
def outer (who addr len : Nat) (wr : Option (List Byte)) (rs : List Req) : Prop :=
  rs.map (fun r => r.pa / 64) = lines addr len ∧ ∀ r ∈ rs, r.src = 256 ∧ r.tid = who ∧ r.flight = none ∧ r.pa % 64 = 0 ∧
    match wr with
    | none => r.op = .read false false false
    | some bs => ∃ w, r.op = .write w false ∧ ∀ o b, (o, b) ∈ w ↔ ∃ j, bs[j]? = some b ∧ addr + j = r.pa + o ∧ o < 64

/-- The tillers of a sheaf that have not exited. -/
def live (s : State) (i : Nat) : List Nat := ((s.sheaf i).tids.map (·.2)).filter fun t => !(s.tiller t).exited

/-- A tiller as its save begins: in its pre-empt vector, with the address of its frame in k0:k1 (R332, R338, R339). -/
def saved (s s' : State) (i j tid : Nat) : Prop :=
  let p := (s.launch (s.sheaf i).launch).pkt
  let t := s.tiller tid
  let t' := s'.tiller tid
  let vec := BitVec.ofNat 32 (lget 1 p.trapv 2)
  let frame := p.tillerFrame j t.rank t.num
  t'.hnd = true ∧ t'.halt = .saving ∧ t'.hpc = vec ∧ t'.resumev = vec ∧ t'.tcause.toNat % 256 = 0x11 ∧ t'.v = t.v ∧ t'.m = t.m ∧ t'.flags = t.flags ∧
  (t'.rs 60).toNat = frame % 2 ^ 32 ∧ (t'.rs 61).toNat = frame / 2 ^ 32 % 2 ^ 32 ∧ (∀ r : SReg, r.toNat < 60 → t'.rs r = t.rs r)

/-- The bytes 0x000 to 0x15F of a tiller's frame: its specials, its PC slots, its masks and its scalars (R340). HND is written 0 (log entry 27, the model's choice). -/
def frameOf (t : Tiller) (vec : Word) (wgFrame : Nat) : List Byte :=
  let w (x : Word) : List Byte := bytesOfNat x.toNat 4
  let tstat := t.flags.toNat + 2 ^ 8 * (t.widx % 16) + 2 ^ 12 * (t.cln % 16) + 2 ^ 16 * (t.clk % 4) + 2 ^ 18 * (if t.rslot = true then 1 else 0)
  w t.tpc ++ bytesOfNat tstat 4 ++ w t.tctl ++ bytesOfNat t.repcnt 4 ++
  w t.slotA.pcWord ++ w t.slotB.pcWord ++ w t.slotA.mask ++ w t.slotB.mask ++ w t.slotA.join ++ w t.slotB.join ++ w t.slotA.outr ++ w t.slotB.outr ++
  w t.spillp ++ w vec ++ bytesOfNat wgFrame 8 ++ ((List.range 8).flatMap fun k => w (t.rm (BitVec.ofNat 3 k))) ++
  ((List.range 60).flatMap fun k => w (t.rs (BitVec.ofNat 6 k))) ++ List.replicate 16 0

/-- The parts of a workgroup's frame, by offset: CFG, HCLIP and the counts, the chain list, the PWP segments, the hidden fields and the image (R341). -/
def wgFrameOf (s : State) (i rank : Nat) : List (Nat × List Byte) :=
  let w := s.wg (4 * i + rank)
  let n (v : Nat) : List Byte := bytesOfNat v 4
  let cs := ((s.chainsOf i).filter fun e => decide (e.2.wg % 4 = rank)).take 16
  [(0, n w.cfg.toNat ++ n w.hclip ++ n w.segs.length ++ n cs.length),
    (0x10, cs.flatMap fun e => n (e.1 % 8) ++ n e.2.off ++ n e.2.bar ++ bytesOfNat (s.tiller e.2.tid).num 2 ++ bytesOfNat e.2.scope 2),
    (0x200, w.segs.flatMap fun g => n g.b.toNat ++ n g.c0.toNat ++ n g.c1.toNat ++ n g.c2.toNat ++ n g.c3.toNat),
    (0x800, (List.range (w.spad / 16)).flatMap fun k => n (w.pScope (16 * k) + 8 * w.lScope (16 * k) +
      (match tfind w.marks k with
      | some m => 64 + 256 * m.tiller + 4096 * m.engine + 65536 * (m.chain / 16)
      | none => 0))),
    (0x30800, readBytes w.bytes 0 w.spad)]

/-- The device's stores of the tillers' frames, in turn; `s'` holds the tillers as their saves begin. -/
def storeFrames (s' : State) (p : Packet) (j : Nat) (st : State) (ts : List Nat) : State := ts.foldl (fun st tid =>
  let t := st.tiller tid
  let frame := p.tillerFrame j t.rank t.num
  let out := match st.devStore tid .store frame 22 (frameOf (s'.tiller tid) (BitVec.ofNat 32 (lget 1 p.trapv 2)) (p.wgFrame j t.rank)) with
    | (.error _, x) | (.ok x, _) => x
  out.setTiller tid (s'.tiller tid)) st

/-- The device's stores of the workgroups' frames, in turn. -/
def storeWgFrames (p : Packet) (root i j : Nat) (st : State) (ranks : List Nat) : State := ranks.foldl (fun st w =>
  (wgFrameOf st i w).foldl (fun x e => x.vwrite (st.wg (4 * i + w)).core root (p.wgFrame j w + e.1) e.2 (e.2.length / 64 + 2)) st) st

/-- An image that the boot ROM or the firmware accepts (R371). -/
def accepted (x : BootImage) (fused : Nat) : Prop := x.ed25519 = true ∧ x.mldsa = true ∧ fused ≤ x.svn.toNat ∧ x.format = true

/-- The ERR of an image that is not accepted, as R371 tables it. Where several failures hold, the lower code is the model's choice (log entry 90). -/
def bootCode (x : BootImage) (fused code : Nat) : Prop :=
  (x.ed25519 = false ∧ x.mldsa = false ∧ code = 3) ∨ (x.ed25519 = false ∧ x.mldsa = true ∧ code = 1) ∨ (x.ed25519 = true ∧ x.mldsa = false ∧ code = 2) ∨
  (x.ed25519 = true ∧ x.mldsa = true ∧ x.svn.toNat < fused ∧ code = 4) ∨ (x.ed25519 = true ∧ x.mldsa = true ∧ fused ≤ x.svn.toNat ∧ x.format = false ∧ code = 5)

/-- A victim of R355 for a candidate of a priority: resident, of lower priority, pre-emptible, with a frame, a vector and a tiller that has not exited, and not the steward's. -/
def victimOk (s : State) (prio : Nat) (e : Nat × Sheaf) : Prop :=
  let l := s.launch e.2.launch
  e.2.st = .resident ∧ s.effPrio l.pkt.region < prio ∧ s.effPreempt l.pkt.region = true ∧ lget 1 l.pkt.trapv 2 % 2 = 0 ∧ l.pkt.nframes ≠ 0 ∧
    (∃ x ∈ e.2.tids, (s.tiller x.2).exited = false) ∧ ∀ x ∈ e.2.tids, (s.tiller x.2).steward = false

end Sys2Proof.Says

namespace Sys2Proof.Says

open Sys2Proof.Machine

/-! ### The machine as a whole -/

/-- The registers that an instruction on registers alone may write, and whether it may raise flags. -/
def dests (i : Instr) (s : State) : Option (List SReg × List MReg × List VNum × Bool) :=
  match scalarWrite i s.tl, pairWrite i s.tl, maskWrite i s.tl, vecWrite i s.tl, fpWrite i s with
  | some (_, d, _), _, _, _, _ => some ([d], [], [], false)
  | none, some (_, d, _), _, _, _ => some ([d, pairHi d], [], [], false)
  | none, none, some (_, d, _), _, _ => some ([], [d], [], false)
  | none, none, none, some (_, d, _, _), _ => some ([], [], [d], false)
  | none, none, none, none, some (_, wide, d, _, _) => some ([], [], if wide then [d, d + 1] else [d], true)
  | none, none, none, none, none => none

/-- A word of code at an address, as memory holds it, or as the control space reads: it lies in a line that the code address translates to. -/
def codeAt (s : State) (tid : Nat) (pc : Word) (w : Word) : Prop :=
  ∃ r : LineRef, s.codeLine tid pc = (.ok r, s) ∧
    let a := r.key.base + ((s.launchOf tid).pkt.codeBase + pc.toNat) % 64
    if physKind r.pa = .control then w.toNat = s.ctlWord (a % 2 ^ 32 / 8 * 8) / 2 ^ (8 * (a % 8)) % 2 ^ 32 else bytesOf w = readBytes s.mem a 4

/-- A tiller keeps every register but those named, and its flags where these are not named. -/
def keeps (t t' : Tiller) (ss : List SReg) (ms : List MReg) (vs : List VNum) (fp : Bool) : Prop :=
  (∀ x, x ∉ ss → t'.rs x = t.rs x) ∧ (∀ x, x ∉ ms → t'.rm x = t.rm x) ∧ (∀ x, x ∉ vs → t'.rv x = t.rv x) ∧ (fp = false → t'.flags = t.flags)

end Sys2Proof.Says

open Sys2Proof Sys2Proof.Machine

/-- R127, R129, R131 (BFX), R133, R134: each scalar instruction of these rules answers the state in which its destination alone has been written and its word is done; S numbers the conditions as R129's table does. R132: the instructions on scalar pairs, and the S numbers of the shifts. -/
def Obligations.ScalarResults : Prop :=
  ((∀ (i : Instr) (s : State) (p : Bool) (d : SReg) (x : Word),
      Says.scalarWrite i s.tl = some (p, d, x) → exec i s = .next ((s.setTl (s.tl.ws d x)).finish p)) ∧
    [0, 1, 2, 3, 4, 5, 6, 7].map Cond.ofCode = [some .eq, some .ne, some .lt, some .le, some .ltu, some .leu, some .tst, none]) ∧
  ((∀ (i : Instr) (s : State) (p : Bool) (d : SReg) (x : DWord),
      Says.pairWrite i s.tl = some (p, d, x) → exec i s = .next ((s.setTl (s.tl.wp d x)).finish p)) ∧
    [0, 1, 2].map Sh64Fn.ofCode = [some .shl, some .shr, some .sar])

/-- R130, R131, R141: BITU and MQ by what they count, BFX and BFI bit by bit, and the S numbers of the operations. -/
def Obligations.BitFieldResults : Prop :=
  (∀ (p : Bool) (f : BitFn) (d a : SReg) (s : State),
    ∃ x, Says.bituIs f (s.tl.rs a) x ∧ exec (.bitu p f d a) s = .next ((s.setTl (s.tl.ws d x)).finish p)) ∧
  (∀ (p : Bool) (f : MqFn) (d : SReg) (m : MReg) (s : State),
    ∃ x, Says.mqIs f (s.tl.rm m) x ∧ exec (.mq p f d m) s = .next ((s.setTl (s.tl.ws d x)).finish p)) ∧
  (∀ (p : Bool) (d a b : SReg) (s : State),
    ∃ x, exec (.bfx p d a b) s = .next ((s.setTl (s.tl.ws d x)).finish p) ∧
      Says.bitsAre x fun k => decide (k < Says.fieldLen (s.tl.rs b)) && (s.tl.rs a).getLsbD ((s.tl.rs b).toNat % 32 + k)) ∧
  (∀ (p : Bool) (d a b : SReg) (s : State),
    ∃ x, exec (.bfi p d a b) s = .next ((s.setTl (s.tl.ws d x)).finish p) ∧
      Says.bitsAre x fun k =>
        let pos := (s.tl.rs b).toNat % 32
        if pos ≤ k ∧ k < pos + Says.fieldLen (s.tl.rs b) then (s.tl.rs a).getLsbD (k - pos) else (s.tl.rs d).getLsbD k) ∧
  [0, 1, 2, 3, 4, 5, 6, 7].map BitFn.ofCode = [.popc, .clz, .ctz, .brev, .sext8, .sext16, .zext8, .zext16] ∧
  [0, 1, 2, 3, 4].map MqFn.ofCode = [some .popc, some .first, some .last, some .any, some .all]

/-- R134 (MOVS.tom), R137, R140, R151: each instruction whose destination is a mask writes every bit of it, as its rule says, and nothing else; and the S numbers of MOP's operations. -/
def Obligations.MaskResults : Prop :=
  (∀ (i : Instr) (s : State) (p : Bool) (m : MReg) (f : Nat → Bool),
    Says.maskWrite i s.tl = some (p, m, f) →
      ∃ x, Says.bitsAre x f ∧ exec i s = .next ((s.setTl (s.tl.wm m x)).finish p)) ∧
  [0, 1, 2, 3, 4, 5, 6, 7].map MopFn.ofCode = [.and, .or, .xor, .andn, .not, .mov, .set, .clear]

/-- R113, R33: what a written scalar, pair half or mask reads, that s0 and m0 hold their constants whatever is written, and that a write reaches nothing else. R33, R113, R117: what a register instruction leaves as it was: every byte of memory, every other tiller, and of its own tiller every register but its destinations and, unless it is a floating-point instruction, the flags; and where its clause goes on, its general slots holding the results, also every workgroup and all the rest of its tiller but the place in the clause. The first half holds at the last word of a clause and for a result that overflows the general slots too, for a tiller without a spill list. -/
def Obligations.RegistersKeep : Prop :=
  ((∀ (t : Tiller) (d r : SReg) (x : Word),
      (t.ws d x).rs r = (if r = 0 then 0 else if r = d then x else t.rs r) ∧ { t.ws d x with s := t.s } = t) ∧
    (∀ (t : Tiller) (d r : MReg) (x : Word),
      (t.wm d x).rm r = (if r = 0 then 0xFFFFFFFF else if r = d then x else t.rm r) ∧ { t.wm d x with m := t.m } = t) ∧
    (∀ (t : Tiller) (d : SReg) (x : DWord), d.getLsbD 0 = false →
      (t.wp d x).rp d = (if d = 0 then x &&& 0xFFFFFFFF00000000 else x) ∧
      (∀ r, r ≠ d → r ≠ pairHi d → (t.wp d x).rs r = t.rs r) ∧ { t.wp d x with s := t.s } = t) ∧
    (∀ (t : Tiller) (d r : VNum) (x : VReg),
      (t.wv d x).rv r = (if r = d then x else t.rv r) ∧ { t.wv d x with v := t.v } = t)) ∧
  (∀ (i : Instr) (s s' : State) (r : Run) (ss : List SReg) (ms : List MReg) (vs : List VNum) (fp : Bool),
      Says.dests i s = some (ss, ms, vs, fp) → s.tl.run = some r → exec i s = .next s' →
      let t := s.tl
      let t' := s'.tl
      (r.idx + 2 ≤ r.n → s.tl.gCount + vs.length ≤ s.tl.ng ∨ (∀ d ∈ vs, (s.tl.rv d).tag = 2) →
        (∀ a, readByte s'.mem a = readByte s.mem a) ∧ s'.wgs = s.wgs ∧ s'.flights = s.flights ∧ s'.cores = s.cores ∧ s'.cur = s.cur ∧
        (∀ tid, tid ≠ s.cur → s'.tiller tid = s.tiller tid) ∧ Says.keeps t t' ss ms vs fp ∧
        { t' with s := t.s, m := t.m, v := t.v, flags := t.flags, run := t.run, repcnt := t.repcnt, parkP := t.parkP, again := t.again } = t ∧
        t'.run.map (fun x => { x with idx := r.idx, rep := r.rep }) = some r) ∧
      (s.tl.count = 0 →
        (∀ a, readByte s'.mem a = readByte s.mem a) ∧ s'.flights = s.flights ∧ s'.cores = s.cores ∧ s'.cur = s.cur ∧
        (∀ tid, tid ≠ s.cur → s'.tiller tid = s.tiller tid) ∧ Says.keeps t t' ss ms vs fp))

/-- R31, R142, R175, R185: after a word that has issued, the next repeat, the next word, or the end of its clause at the address after it, which Settle follows as of that word. R24, R176, R178, R189, R190: the end of a clause on the only path of a tiller, and in handler mode, whatever instruction ends it; nothing but the tiller changes, and of it only what is named. R170, R178: a path that comes to its join point parks there; two paths of one join point become one that holds both their lanes, in slot A, with the outer join restored. That the slot left empty keeps its PC is the model's reading (log 75, DEDUCED), not R178's words. -/
def Obligations.WordsAndClausesEnd : Prop :=
  (∀ (s : State) (p : Bool) (r : Run), s.tl.run = some r →
      let t := s.tl
      let next := r.idx + if opTakesLit (fOp (lget 0 r.words r.idx)).toNat = true then 2 else 1
      (r.rep = true → 1 < t.repcnt → s.finish p = s.setTl { t with repcnt := t.repcnt - 1, parkP := p, again := false }) ∧
      ((r.rep = true → t.repcnt ≤ 1) →
        let t1 := { t with run := some { r with idx := next, rep := false }, repcnt := if r.rep then 0 else t.repcnt, parkP := p }
        s.finish p = if next ≤ r.n then s.setTl { t1 with again := false }
          else (s.setTl t1).endFrom (r.hdr + BitVec.ofNat 32 (4 * r.idx)) (r.hdr + BitVec.ofNat 32 (4 * (r.n + 1))) p false)) ∧
  ((∀ (s : State) (pc : Word) (p demote : Bool) (r : Run), Says.onePath s.tl r → pc ≠ (s.tl.slot r.slotB).join →
      ∀ ipc, s.endFrom ipc pc p demote = s.setTl (Says.clauseEnd s (s.tl.setSlot r.slotB { s.tl.slot r.slotB with pc := pc }) r p demote)) ∧
    (∀ (s : State) (pc : Word) (p demote : Bool) (r : Run), s.tl.run = some r → s.tl.hnd = true →
      ∀ ipc, s.endFrom ipc pc p demote = s.setTl (Says.clauseEnd s { s.tl with hpc := pc } r p demote))) ∧
  ((∀ (s : State) (tid : Nat) (pc : Word) (a b : Slot), (s.tiller tid).slotA = a → (s.tiller tid).slotB = b →
      (s.tiller tid).count = 0 → (s.tiller tid).exited = false → a.st = .ready → b.st = .ready → a.pc = a.join → b.pc ≠ b.join → b.join = a.join → b.outr = a.outr →
      a.join ≠ joinNone →
      s.settle tid none pc = s.setTiller tid { s.tiller tid with slotA := { a with st := .parked } }) ∧
    (∀ (s : State) (tid : Nat) (pc : Word) (a b : Slot), (s.tiller tid).slotA = a → (s.tiller tid).slotB = b →
      (s.tiller tid).count = 0 → (s.tiller tid).exited = false → (a.st = .ready ∧ a.pc = a.join ∨ a.st = .parked) → b.st = .ready → b.pc = b.join → b.join = a.join → b.outr = a.outr →
      a.join ≠ joinNone → a.outr ≠ a.join →
      s.settle tid none pc = s.setTiller tid { s.tiller tid with
        slotA := ⟨.ready, a.join, a.mask ||| b.mask, a.outr, joinNone⟩, slotB := ⟨.empty, b.pc, 0, joinNone, joinNone⟩ }))

/-- R40, R176: NOP only goes on; BRA, BZ, BNZ, JMPR and a forward BRA.spin go on at the address the rules give, and CALL also writes its scalar with the address after the clause. R142: REP starts the repeats of the next word, their number being N and one more. -/
def Obligations.Branches : Prop :=
  ((∀ (p : Bool) (s : State), exec (.nop p) s = .next (s.finish p)) ∧
    (∀ (i : Instr) (s : State) (r : Run) (p : Bool) (pc : Word), s.tl.run = some r → Says.branchTo i s.tl r = some (p, pc) →
      exec i s = .next (s.endAt pc p false)) ∧
    (∀ (p : Bool) (x : SReg) (o : BitVec 18) (s : State) (r : Run), s.tl.run = some r →
      exec (.call p x o) s = .next ((s.setTl (s.tl.ws x (r.hdr + BitVec.ofNat 32 (4 * (r.n + 1))))).endAt (r.hdr + Says.w32 (4 * o.toInt)) p false))) ∧
  (∀ (p : Bool) (n : BitVec 6) (d a b : Bool) (s : State) (r : Run), s.tl.run = some r →
      exec (.rep p n d a b) s = .next (s.setTl { s.tl with run := some { r with idx := r.idx + 1, rep := true }, repcnt := n.toNat + 1, parkP := p }))

/-- R177: BM and BMN with all lanes on one side are plain branches; else the path splits, the target path going to the empty slot, else to the end of the spill list, else faulting as a spill overflow. R178: JSET to the join point in force changes no path; to another, the join point in force becomes the outer one where none is set, and else the join overflow fault is taken. That the issuing path does not arrive at a join point while its clause is under way, be it the header of that clause, is the model's reading (log 22, DEDUCED). R180: YIELD, YIELD.spin and a backward BRA.spin exchange the issuing path with the oldest ready entry of the spill list, the entries before it moving one place and the issuing path standing last, and go on where the list has none. -/
def Obligations.DivergentPaths : Prop :=
  (∀ (i : Instr) (s : State) (r : Run) (p : Bool) (tk tgt : Word), s.tl.run = some r → s.tl.hnd = false → Says.lanesTaken i s.tl r = some (p, tk, tgt) →
      let t := s.tl
      let x := t.slot r.slotB
      let nt := x.mask &&& ~~~tk
      let q : Slot := ⟨.ready, tgt, tk, x.join, x.outr⟩
      let fall := r.hdr + BitVec.ofNat 32 (4 * (r.n + 1))
      (tk = 0 → exec i s = .next (s.endAt fall p false)) ∧
      (tk ≠ 0 → nt = 0 → exec i s = .next (s.endAt tgt p false)) ∧
      (tk ≠ 0 → nt ≠ 0 → (t.slot (!r.slotB)).st = .empty →
        exec i s = .next ((s.setTl ((t.setSlot r.slotB { x with mask := nt }).setSlot (!r.slotB) q)).endAt fall p false)) ∧
      (tk ≠ 0 → nt ≠ 0 → (t.slot (!r.slotB)).st ≠ .empty → t.count < t.depth → ∀ (s1 s2 : State),
        s.devPuts s.cur .spillWr [(t.entryVa t.count, q.entryBytes)] = (.ok s2, s1) →
        let s3 := s2.setTiller s.cur { s2.tiller s.cur with count := t.count + 1 }
        exec i s = .next ((s3.setTl (s3.tl.setSlot r.slotB { x with mask := nt })).endAt fall p false)) ∧
      (tk ≠ 0 → nt ≠ 0 → (t.slot (!r.slotB)).st ≠ .empty → t.depth ≤ t.count →
        exec i s = .next (s.trapHere 0x04 (BitVec.ofNat 32 (t.head + 4096 * t.count)) t.word))) ∧
  (∀ (p : Bool) (o : BitVec 20) (s : State) (r : Run), s.tl.run = some r → s.tl.hnd = false → s.tl.step = none →
      let t := s.tl
      let x := t.slot r.slotB
      let j := r.hdr + Says.w32 (4 * o.toInt)
      (x.join = j → Says.onePath t r → r.idx + 1 ≤ r.n → (fOp (lget 0 r.words r.idx)).toNat = 0x04 → r.rep = false →
        exec (.jset p o) s = .next (s.setTl { t with run := some { r with idx := r.idx + 1 }, parkP := p, again := false })) ∧
      (x.join ≠ j → x.outr = joinNone → Says.onePath t r → r.idx + 1 ≤ r.n → (fOp (lget 0 r.words r.idx)).toNat = 0x04 → r.rep = false →
        exec (.jset p o) s = .next (s.setTl
          { t.setSlot r.slotB { x with outr := x.join, join := j } with run := some { r with idx := r.idx + 1 }, parkP := p, again := false })) ∧
      (x.join ≠ j → x.outr ≠ joinNone → exec (.jset p o) s = .next (s.trapHere 0x05 x.join t.word))) ∧
  (∀ (i : Instr) (s : State) (r : Run) (p : Bool) (pc : Word) (spin : Bool), s.tl.run = some r → s.tl.hnd = false → Says.rotates i r = some (p, pc, spin) →
      (s.tl.count = 0 → exec i s = .next (s.endAt pc p spin)) ∧
      (∀ (pre : List Slot) (e : Slot) (s1 s2 s3 : State), s.readReady s.cur 0 s.tl.count = (.ok (some (pre ++ [e])), s1) →
        let t := s1.tl
        let x : Slot := { s.tl.slot r.slotB with pc := pc }
        let m := e.mask &&& t.lanes
        let u := { t with head := if t.depth = 0 then 0 else (t.head + 1) % t.depth, count := t.count - 1 + 1 }
        m ≠ 0 →
        s1.devPuts s.cur .spillWr ((changedEntries 1 (pre ++ [e]) 0 pre ++ [(t.count - 1, x)]).map fun w => (u.entryVa w.1, w.2.entryBytes)) = (.ok s2, s3) →
        exec i s = .next ((((s2.setTiller s.cur (u.setSlot r.slotB { e with mask := m })).setTl
          { (s2.setTiller s.cur (u.setSlot r.slotB { e with mask := m })).tl with parkP := p }).clauseOver spin).settle s.cur none (r.hdr + BitVec.ofNat 32 (4 * r.idx)))))

/-- R329, R330, R332: a precise fault outside handler mode, with an even vector and no spill list, saves the point, sets TCAUSE, TINFO0, TINFO1 and TPC, and goes to the handler in handler mode; nothing else changes. R332, R335: TRAP enters the handler with its code in TINFO0, to resume at the address after its clause; in handler mode it is a second cause, which ends every path and reports both. -/
def Obligations.TrapEntry : Prop :=
  (∀ (s : State) (kind : Nat) (i0 i1 : Word) (r : Run), s.tl.run = some r → s.tl.hnd = false → s.tl.count = 0 → (s.tl.slot r.slotB).st ≠ .empty →
      (Says.vector s.tl s kind).getLsbD 0 = false →
      s.trapHere kind i0 i1 = s.setTl (Says.entered s.tl kind i0 i1 (r.hdr + BitVec.ofNat 32 (4 * r.idx)) r.idx r (Says.vector s.tl s kind))) ∧
  ((∀ (c : BitVec 16) (s : State) (r : Run), s.tl.run = some r → s.tl.hnd = false → s.tl.count = 0 → (s.tl.slot r.slotB).st ≠ .empty →
      (Says.vector s.tl s 0x0D).getLsbD 0 = false →
      exec (.trap c) s = .next (s.setTl (Says.entered s.tl 0x0D (BitVec.ofNat 32 c.toNat) s.tl.word (r.hdr + BitVec.ofNat 32 (4 * (r.n + 1))) 0 r (Says.vector s.tl s 0x0D)))) ∧
    (∀ (c : BitVec 16) (s : State) (r : Run), s.tl.run = some r → s.tl.hnd = true →
      exec (.trap c) s = .next (s.killTiller s.cur 0x0D (r.hdr + BitVec.ofNat 32 (4 * r.idx)))))

/-- R51, R334: JMPR to an address that is no multiple of 4, and outside-handler words issued in handler mode, are illegal instructions with their reasons. R332, R334: an unavailable vector, or a fault in handler mode, ends every path of the tiller, and the tiller has exited. -/
def Obligations.FatalFaults : Prop :=
  ((∀ (p : Bool) (x : SReg) (s : State), (s.tl.rs x).toNat % 4 ≠ 0 →
      exec (.jmpr p x) s = .next (s.trapHere 0x01 (illegalInfo (fOp s.tl.word).toNat 0x08 s.tl.wordIdx) s.tl.word)) ∧
    (∀ (i : Instr) (s : State), Says.notInHandler i → s.tl.hnd = true →
      exec i s = .next (s.trapHere 0x01 (illegalInfo (fOp s.tl.word).toNat 0x09 s.tl.wordIdx) s.tl.word)) ∧
    (∀ (s : State), s.tl.hnd = false →
      exec .rte s = .next (s.trapHere 0x01 (illegalInfo (fOp s.tl.word).toNat 0x09 s.tl.wordIdx) s.tl.word))) ∧
  ((∀ (s : State) (kind : Nat) (i0 i1 : Word), s.tl.hnd = true → (s.trapHere kind i0 i1).tl.exited = true ∧ (s.trapHere kind i0 i1).tl.paths = 0) ∧
    (∀ (s : State) (kind : Nat) (i0 i1 : Word), s.tl.hnd = false → (Says.vector s.tl s kind).getLsbD 0 = true →
      (s.trapHere kind i0 i1).tl.exited = true ∧ (s.trapHere kind i0 i1).tl.paths = 0 ∧
      (s.trapHere kind i0 i1).tl.tcause = BitVec.ofNat 32 (kind + 256 * vecOf kind) ∧ (s.trapHere kind i0 i1).tl.tinfo0 = i0 ∧ (s.trapHere kind i0 i1).tl.tinfo1 = i1))

/-- R179: EXIT of the only path ends the tiller's work, the slot keeping its program counter; in handler mode it ends every path. R336, R340, R344: RTE leaves handler mode and goes on at TPC: at the header TPC names where the saved index is 0, else in the middle of the interrupted clause. Whatever its slots and its list, they are made to agree with R170 and Settle follows; with one ready path, or with two that have not arrived, and no list, the tiller so made is the outcome. After a resume (KIND 0x12) the scalars and masks are read from the frame first, and the tiller then waits for the others. -/
def Obligations.ExitsAndReturns : Prop :=
  (∀ (s : State) (r : Run), s.tl.errs = [] → (∀ e ∈ (s.wg (wgOf s.tl.sheaf s.tl.rank)).marks, e.2.tiller ≠ s.tl.num) →
      (Says.onePath s.tl r → ∃ t, exec .exit s = .next t ∧ t.tl.exited = true ∧ t.tl.paths = 0 ∧ t.tl.run = none ∧
        t.tl.lanes = s.tl.lanes &&& ~~~(s.tl.slot r.slotB).mask ∧ (t.tl.slot r.slotB).pc = (s.tl.slot r.slotB).pc ∧
        t.tl.s = s.tl.s ∧ t.tl.v = s.tl.v ∧ t.tl.m = s.tl.m ∧ t.tl.flags = s.tl.flags ∧ t.mem = s.mem) ∧
      (s.tl.run = some r → s.tl.hnd = true → ∃ t, exec .exit s = .next t ∧ t.tl.exited = true ∧ t.tl.paths = 0 ∧ t.tl.hnd = false ∧
        t.tl.lanes = 0 ∧ t.tl.s = s.tl.s ∧ t.tl.v = s.tl.v ∧ t.tl.m = s.tl.m ∧ t.tl.flags = s.tl.flags ∧ t.mem = s.mem)) ∧
  ((∀ (s : State) (r : Run), s.tl.run = some r → s.tl.hnd = true → s.tl.tcause.toNat % 256 ≠ 0x12 →
      let g := Says.goesOnAt (Says.outOfHandler (Says.clauseEnd s s.tl r s.tl.parkP false))
      exec .rte s = .next ((s.setTl g.1).settle s.cur g.2 (r.hdr + BitVec.ofNat 32 (4 * r.idx))) ∧
      (s.tl.count = 0 → s.tl.exited = false → g.1.slotA.st = .ready → g.1.slotB.st = .ready →
        (g.1.slotA.pc ≠ g.1.slotA.join ∨ g.2 = some false) → (g.1.slotB.pc ≠ g.1.slotB.join ∨ g.2 = some true) → exec .rte s = .next (s.setTl g.1))) ∧
    (∀ (s : State) (r : Run) (bs : List Byte) (s1 : State), s.tl.run = some r → s.tl.hnd = true → s.tl.tcause.toNat % 256 = 0x12 →
      s.devRead s.cur .load (s.tl.frame + 0x40) 18 = (.ok bs, s1) → s1.tl = s.tl → s1.cur = s.cur →
      ∃ (u : Tiller) (t : State), Says.framed s.tl u bs ∧
        (let g := Says.goesOnAt (Says.outOfHandler (Says.clauseEnd s1 u r u.parkP false))
         t = (s1.setTl g.1).settle s.cur g.2 (r.hdr + BitVec.ofNat 32 (4 * r.idx))) ∧
        exec .rte s = .next (t.setTl { t.tl with halt := .waiting })) ∧
    ∀ (s : State) (r : Run), s.tl.run = some r → s.tl.hnd = true → (s.tl.tcause.toNat % 256 ≠ 0x12) → s.tl.count = 0 → s.tl.exited = false →
      s.tl.rslot = false → s.tl.slotA.st = .ready → s.tl.slotA.mask ≠ 0 → s.tl.slotB = s.tl.slotB.vacate →
      normJoin s.tl.slotA.join = s.tl.slotA.join → normJoin s.tl.slotA.outr = s.tl.slotA.outr →
      let t := s.tl
      let t1 := Says.clauseEnd s t r t.parkP false
      (t.widx = 0 → t.tpc ≠ t.slotA.join →
        exec .rte s = .next (s.setTl { t1 with hnd := false, slotA := { t.slotA with pc := t.tpc }, lanes := t.lanes ||| t.slotA.mask })) ∧
      (t.widx ≠ 0 → 4 ≤ (t.tpc - t.slotA.pc).toNat → (t.tpc - t.slotA.pc).toNat ≤ 4 * t.cln →
        exec .rte s = .next (s.setTl { t1 with hnd := false, lanes := t.lanes ||| t.slotA.mask, run := some ⟨t.slotA.pc, t.cln, [], (t.tpc - t.slotA.pc).toNat / 4, false, t.clk, false, Nat.blt 0 t.repcnt⟩ })))

/-- R117, R120, R135, R138, R139, R164, R167: an integer vector instruction writes its value in the active lanes and keeps the others, gives its result the tag of R120, and completes where the register fits the tiller's general slots; nothing else changes but the end of its word. R122, R123: an instruction whose vector result would take the tiller over its general slots faults with the register, the count and the grant, and writes nothing. -/
def Obligations.VectorResults : Prop :=
  (∀ (i : Instr) (s : State) (p : Bool) (d : VNum) (f : Nat → Word) (g : Nat), Says.vecWrite i s.tl = some (p, d, f, g) →
      ∃ r : VReg, Says.lanesAre s.tl.act (s.tl.rv d) r f ∧ r.tag = (if s.tl.act = 0xFFFFFFFF then g else 2) ∧
        (s.tl.gCount < s.tl.ng ∨ Says.fits s.tl [(d, r)] → exec i s = .next ((s.setTl (s.tl.wv d r)).finish p))) ∧
  (∀ (i : Instr) (s : State) (p : Bool) (d : VNum) (f : Nat → Word) (g : Nat), Says.vecWrite i s.tl = some (p, d, f, g) →
      (if s.tl.act = 0xFFFFFFFF then g else 2) = 2 → (s.tl.rv d).tag ≠ 2 → s.tl.ng ≤ s.tl.gCount →
      s.tl.v.Pairwise (fun e e' => e.1 < e'.1) →
      exec i s = .next (s.trapHere 0x03 (Says.w32 (d.toNat + 256 * s.tl.gCount + 65536 * s.tl.ng : Nat)) s.tl.word))

/-- R130, R136, R139, R145, R165, R166: VBITU, VINS, V64, VRED, VSCAN and VTAG. -/
def Obligations.CrossLaneResults : Prop :=
  (∀ (p : Bool) (fn : BitFn) (d a : VNum) (s : State), s.tl.gCount < s.tl.ng ∨ (s.tl.rv d).tag = 2 →
    ∃ (r : VReg) (f : Nat → Word), (∀ k, k < 32 → Says.bituIs fn ((s.tl.rv a).lane k) (f k)) ∧ Says.lanesAre s.tl.act (s.tl.rv d) r f ∧ r.tag = 2 ∧
      exec (.vbitu p fn d a) s = .next ((s.setTl (s.tl.wv d r)).finish p)) ∧
  (∀ (p : Bool) (d : VNum) (a : SReg) (l : BitVec 5) (s : State), s.tl.gCount < s.tl.ng ∨ (s.tl.rv d).tag = 2 →
    ∃ r : VReg, (∀ k, k < 32 → r.lane k = if k = l.toNat then s.tl.rs a else (s.tl.rv d).lane k) ∧ r.tag = 2 ∧
      exec (.vins p d a l) s = .next ((s.setTl (s.tl.wv d r)).finish p)) ∧
  (∀ (p : Bool) (fn : V64Fn) (d a b : VNum) (s : State), s.tl.gCount + 1 < s.tl.ng ∨ (s.tl.rv d).tag = 2 ∧ (s.tl.rv (d + 1)).tag = 2 →
    let x (k : Nat) : Int := (((s.tl.rv (a + 1)).lane k) ++ ((s.tl.rv a).lane k) : DWord).toInt
    let u (k : Nat) : Nat := (((s.tl.rv (a + 1)).lane k) ++ ((s.tl.rv a).lane k) : DWord).toNat
    let y (k : Nat) : Int := (((s.tl.rv (b + 1)).lane k) ++ ((s.tl.rv b).lane k) : DWord).toInt
    let n (k : Nat) : Nat := ((s.tl.rv b).lane k).toNat % 64
    let f (k : Nat) : DWord := match fn with
      | .add => Says.w64 (x k + y k)
      | .sub => Says.w64 (x k - y k)
      | .shl => Says.w64 (u k * 2 ^ n k : Nat)
      | .shr => Says.w64 (u k / 2 ^ n k : Nat)
      | .sar => Says.w64 (x k / 2 ^ n k)
    ∃ r q : VReg, Says.lanesAre s.tl.act (s.tl.rv d) r (fun k => (f k).extractLsb' 0 32) ∧
      Says.lanesAre s.tl.act (s.tl.rv (d + 1)) q (fun k => (f k).extractLsb' 32 32) ∧ r.tag = 2 ∧ q.tag = 2 ∧
      exec (.v64 p fn d a b) s = .next ((s.setTl ((s.tl.wv d r).wv (d + 1) q)).finish p)) ∧
  (∀ (p : Bool) (fn : VredFn) (d a : VNum) (s : State),
    exec (.vred p fn d a) s = .next ((s.setTl ((s.tl.wv d (.u (Says.lo (vreduce fn s.tl.act (s.tl.rv a))))).orFlags (vreduce fn s.tl.act (s.tl.rv a)).2)).finish p)) ∧
  (∀ (p : Bool) (fn : VscanFn) (d a : VNum) (s : State), s.tl.gCount < s.tl.ng ∨ (s.tl.rv d).tag = 2 →
    let f (k : Nat) : Nat × Flags := lget (0, 0) (vscanLanes fn s.tl.act (s.tl.rv a)) k
    ∃ (r : VReg) (fl : Flags), Says.lanesAre s.tl.act (s.tl.rv d) r (fun k => Says.lo (f k)) ∧ r.tag = 2 ∧ Says.flagsAre s.tl.act s.tl.flags fl f ∧
      exec (.vscan p fn d a) s = .next ((s.setTl { s.tl.wv d r with flags := fl }).finish p)) ∧
  (∀ (p : Bool) (d : SReg) (a : VNum) (s : State),
    exec (.vtag p d a) s = .next ((s.setTl (s.tl.ws d (Says.w32 ((s.tl.rv a).tag + 4 * (if PReg.v a.toNat ∈ s.tl.pend then 1 else 0) + 256 * s.tl.gCount + 65536 * s.tl.ng : Nat)))).finish p))

/-- R82, R83, R165, R166: the integer reductions and scans over the active lanes are the sum, the least, the greatest, and the running sum; no active lane gives the identity. The floating-point ones are the values of the rules' tree and of its stages, an inactive lane being empty in the tree and the identity in the scan. That a value which no stage has combined, a lone NaN in the tree or lane 0 of the scan, is delivered as it stands is the model's choice (log 93, DESIGN CHOICE). -/
def Obligations.ReductionsAreSums : Prop :=
  ∀ (m : Word) (a : VReg),
    let act := (List.range 32).filter fun k => m.getLsbD k
    let x (k : Nat) : Word := a.lane k
    Says.lo (vreduce .iadd m a) = Says.w32 ((act.map fun k => (x k).toInt).sum) ∧
    Says.lo (vreduce .imin m a) = Says.w32 (act.foldl (fun v k => min v (x k).toInt) 0x7FFFFFFF) ∧
    Says.lo (vreduce .imax m a) = Says.w32 (act.foldl (fun v k => max v (x k).toInt) (-0x80000000)) ∧
    (∀ b, b < 32 → (Says.lo (vreduce .iand m a)).getLsbD b = act.all fun k => (x k).getLsbD b) ∧
    (∀ b, b < 32 → (Says.lo (vreduce .ior m a)).getLsbD b = act.any fun k => (x k).getLsbD b) ∧
    (∀ k, k < 32 → Says.lo (lget (0, 0) (vscanLanes .iadd m a) k) = Says.w32 (((act.filter (· ≤ k)).map fun j => (x j).toInt).sum)) ∧
    (∀ k, k < 32 → Says.lo (lget (0, 0) (vscanLanes .xadd m a) k) = Says.w32 (((act.filter (· < k)).map fun j => (x j).toInt).sum)) ∧
    (∀ k, k < 32 → Says.lo (lget (0, 0) (vscanLanes .imax m a) k) = Says.w32 ((act.filter (· ≤ k)).foldl (fun v j => max v (x j).toInt) (-0x80000000))) ∧
    (∀ k, k < 32 → Says.lo (lget (0, 0) (vscanLanes .xmax m a) k) = Says.w32 ((act.filter (· < k)).foldl (fun v j => max v (x j).toInt) (-0x80000000))) ∧
    (let leaf (k : Nat) : Option Nat := if m.getLsbD k then some (x k).toNat else none
     vreduce .fadd m a = (Says.treeAt fp32.add leaf 5 0).getD (0x80000000, 0) ∧
     vreduce .fmin m a = (Says.treeAt (fun u v => (fp32.minMax true u v, 0)) leaf 5 0).getD (0x7F800000, 0) ∧
     vreduce .fmax m a = (Says.treeAt (fun u v => (fp32.minMax false u v, 0)) leaf 5 0).getD (0xFF800000, 0)) ∧
    (∀ k, k < 32 → lget (0, 0) (vscanLanes .fadd m a) k = Says.scanAt fp32.add (fun i => if m.getLsbD i then (x i).toNat else 0x80000000) 5 k)

/-- R74, R117, R120, R146, R148 to R158, R163, R168: a floating-point instruction of fixed latency gives each active lane its result, ORs the flags of the active lanes into TSTAT, and tags its result U or G; it completes where the result fits the tiller's general slots. R121, R126, R147: FDIV, FSQRT and CORD start an operation whose result, one register or two, is known at issue and lands later: the destinations are pending and already carry their tags. What a CORD delivers is the value the model calculates, whose error within the bound of R85 is left free (log entry 4, the model's choice). -/
def Obligations.FloatResults : Prop :=
  (∀ (i : Instr) (s : State) (p wide : Bool) (d : VNum) (reads : List VNum) (f : Nat → Nat × Flags), Says.fpWrite i s = some (p, wide, d, reads, f) →
      ∃ (r q : VReg) (fl : Flags), Says.lanesAre s.tl.act (s.tl.rv d) r (fun k => Says.lo (f k)) ∧ r.tag = Says.fpTag s.tl reads ∧
        Says.lanesAre s.tl.act (s.tl.rv (d + 1)) q (fun k => Says.hi (f k)) ∧ q.tag = Says.fpTag s.tl reads ∧
        Says.flagsAre s.tl.act s.tl.flags fl f ∧
        (s.tl.gCount + 1 < s.tl.ng ∨ Says.fits s.tl (if wide then [(d, r), (d + 1, q)] else [(d, r)]) → exec i s = .next ((s.setTl { (if wide then (s.tl.wv d r).wv (d + 1) q else s.tl.wv d r) with flags := fl }).finish p))) ∧
  (∀ (i : Instr) (s : State) (p wide : Bool) (d : VNum) (reads : List VNum) (row : LandRow) (n : Nat) (f : Nat → Nat × Flags),
      Says.unitWrite i s.tl = some (p, wide, d, reads, row, n, f) →
      ∃ (r q : VReg) (fl : Flags), Says.lanesAre s.tl.act (s.tl.rv d) r (fun k => Says.lo (f k)) ∧ r.tag = Says.fpTag s.tl reads ∧
        Says.lanesAre s.tl.act (s.tl.rv (d + 1)) q (fun k => Says.hi (f k)) ∧ q.tag = Says.fpTag s.tl reads ∧ Says.flagsAre s.tl.act 0 fl f ∧
        let ds : List (VNum × VReg) := if wide then [(d, r), (d + 1, q)] else [(d, r)]
        (s.tl.gCount + 1 < s.tl.ng ∨ Says.fits s.tl ds →
          exec i s = .next ((s.startResult row (ds.map fun e => .v e.1 e.2) (ds.map fun e => .v e.1.toNat) none fl n).finish p)))

/-- R70, R71, R148, R149, R151, R155: the special values of binary arithmetic in every format that has them: NaN wins and raises nothing, ∞ − ∞, 0 × ∞, 0 / 0 and the root of a negative are the canonical NaN with NV, a finite by zero is ∞ with DZ, and Min orders −0 below +0. R72, R88, R152, R153, R154, R156, R157, R158, R163: what CVT, FRND, FRCPE, FCLASS, CVTN, CVTW and PWPE make of a finite value: the value rounded in the mode, the limit with NV where an integer leaves its range, the saturated or unsaturated code where a narrow format overflows, the 12-bit reciprocal, the class, and the polynomial of the last segment whose breakpoint the value reaches. -/
def Obligations.FloatSpecialValues : Prop :=
  (∀ f ∈ [fp64, fp32, fp16, bf16], ∀ a b d : Nat,
      (f.num a = .nan ∨ f.num b = .nan → f.add a b = (f.canon, 0) ∧ f.sub a b = (f.canon, 0) ∧ f.mul a b = (f.canon, 0) ∧ f.div a b = (f.canon, 0) ∧
        f.fma a b d = (f.canon, 0) ∧ f.fma d a b = (f.canon, 0) ∧ f.minMax true a b = f.canon ∧ f.minMax false a b = f.canon) ∧
      (∀ n, f.num a = .inf n → f.num b = .inf (!n) → f.add a b = (f.canon, flagNV)) ∧
      (∀ n, f.num a = .inf n → f.num b = .inf n → f.sub a b = (f.canon, flagNV)) ∧
      (∀ n z e, f.num a = .inf n → f.num b = .fin z 0 e → f.mul a b = (f.canon, flagNV) ∧ f.mul b a = (f.canon, flagNV)) ∧
      (∀ n z e g, f.num a = .fin n 0 e → f.num b = .fin z 0 g → f.div a b = (f.canon, flagNV)) ∧
      (∀ n m e z g, f.num a = .fin n m e → m ≠ 0 → f.num b = .fin z 0 g → ∃ c, f.div a b = (c, flagDZ) ∧ f.num c = .inf (n != z)) ∧
      (∀ m e, f.num a = .fin true m e → m ≠ 0 → f.sqrt a = (f.canon, flagNV)) ∧
      (∀ e g, f.num a = .fin true 0 e → f.num b = .fin false 0 g → f.minMax true a b = a ∧ f.minMax true b a = a ∧ f.minMax false a b = b ∧ f.minMax false b a = b)) ∧
  ((∀ (c : CvtCode) (rm : Rm) (a : Nat) (x : Rat), Says.cvtFrom c a = some x →
      match Says.cvtTo c with
      | .inl f => Says.delivers rm f x (cvtOne c rm a)
      | .inr (w, l, h) => ∃ v : Int, Says.intRounded rm x v ∧
        cvtOne c rm a = if v < l then ((BitVec.ofInt w l).toNat, flagNV) else if h < v then ((BitVec.ofInt w h).toNat, flagNV)
          else ((BitVec.ofInt w v).toNat, if (v : Rat) = x then 0 else flagNX)) ∧
    (∀ f ∈ [fp32, fp64], ∀ (rm : Rm) (a : Nat) (x : Rat), a < 2 ^ (f.mb + f.eb + 1) → Says.ratOf (f.num a) = some x →
      ∃ v : Int, Says.intRounded rm x v ∧ Says.ratOf (f.num (f.integral rm a)) = some (v : Rat) ∧ f.integral rm a / 2 ^ (f.mb + f.eb) = a / 2 ^ (f.mb + f.eb)) ∧
    (∀ (a : Nat) (n : Bool) (m l : Nat) (e : Int), fp32.num a = .fin n m e → 2 ^ l ≤ m → m < 2 ^ (l + 1) →
      (m = 2 ^ l → rcpEst a = fp32.round .rne n 2048 (-11 - (e + l))) ∧
      (m ≠ 2 ^ l → ∃ k, 2048 ≤ k ∧ k ≤ 4096 ∧ 2 * k * m ≤ 2 ^ (13 + l) + m ∧ 2 ^ (13 + l) ≤ 2 * k * m + m ∧ rcpEst a = fp32.round .rne n k (-12 - (e + l)))) ∧
    (∀ f ∈ [fp32, fp64], ∀ a : Nat, f.classBit a = match f.num a with
      | .nan => 2 ^ 8
      | .inf n => if n then 2 ^ 0 else 2 ^ 7
      | .fin n m _ => if m = 0 then (if n then 2 ^ 3 else 2 ^ 4) else if m < 2 ^ f.mb then (if n then 2 ^ 2 else 2 ^ 5) else (if n then 2 ^ 1 else 2 ^ 6)) ∧
    (∀ (t : CvtnFmt) (f : Fmt) (hi lo nan a s : Nat) (x : Rat), Says.cvtnTo t = some (f, hi, lo, nan) → s < 255 → Says.ratOf (fp32.num a) = some x →
      ((cvtnOne t a s).2.getLsbD 2 = false → Says.delivers .rne f (Says.scaled x (127 - s)) (cvtnOne t a s)) ∧
      ((cvtnOne t a s).2.getLsbD 2 = true → cvtnOne t a s = (if x < 0 then lo else hi, flagOF ||| flagNX)) ∧
      cvtnOne t a 255 = (nan, flagNARROW)) ∧
    (∀ (a s : Nat) (x : Rat), s < 255 → Says.ratOf (fp32.num a) = some x → ∃ v : Int, Says.intRounded .rne (Says.scaled x (127 - s)) v ∧
      cvtnOne .i8 a s = if v < -128 then (0x80, flagNV) else if 127 < v then (0x7F, flagNV) else ((BitVec.ofInt 8 v).toNat, if (v : Rat) = Says.scaled x (127 - s) then 0 else flagNX)) ∧
    (∀ (t : CvtwFmt) (a s : Nat) (x : Rat), s < 255 → Says.cvtwFrom t a = some x → Says.delivers .rne fp32 (Says.scaled x (s - 127)) (cvtwOne t a s)) ∧
    (∀ (tab : List Segment) (x j : Nat) (g : Segment), tab[j]? = some g →
      (Says.reaches x g ∨ j = 0) → (∀ i h, tab[i]? = some h → j < i → ¬Says.reaches x h) → pwpEval tab x = Says.horner g x))

/-- R66, R67, R148: a sum of two finite values that does not overflow is nearest to the exact sum: no value of the format lies nearer. R66, R67, R148, R155, R168: in every format a product, a fused product and sum, and a quotient of finite values that does not overflow is the exact one rounded to nearest with ties to even, and NX says whether it was exact; so is the FP32 sum of FDOT2; and no value of the format lies nearer to the exact square root. -/
def Obligations.SumsAreNearest : Prop :=
  (∀ f ∈ [fp64, fp32, fp16, bf16], ∀ (a b c z : Nat) (na nb nc nz : Bool) (ma mb mc mz : Nat) (ea eb ec ez : Int),
      f.num a = .fin na ma ea → f.num b = .fin nb mb eb → (f.add a b).1 = c → f.num c = .fin nc mc ec → f.num z = .fin nz mz ez →
      let v (n : Bool) (m : Nat) (e : Int) : Rat := (if n then -1 else 1) * m * ((2 ^ e.toNat : Nat) : Rat) / ((2 ^ (-e).toNat : Nat) : Rat)
      let gap (x y : Rat) : Rat := if x ≤ y then y - x else x - y
      gap (v nc mc ec) (v na ma ea + v nb mb eb) ≤ gap (v nz mz ez) (v na ma ea + v nb mb eb)) ∧
  ((∀ f ∈ [fp64, fp32, fp16, bf16], ∀ (a b d : Nat) (x y z : Rat), Says.ratOf (f.num a) = some x → Says.ratOf (f.num b) = some y → Says.ratOf (f.num d) = some z →
      Says.delivers .rne f (x + y) (f.add a b) ∧ Says.delivers .rne f (x - y) (f.sub a b) ∧
      Says.delivers .rne f (x * y) (f.mul a b) ∧ Says.delivers .rne f (x * y + z) (f.fma a b d) ∧ (y ≠ 0 → Says.delivers .rne f (x / y) (f.div a b))) ∧
    (∀ f ∈ [fp16, bf16], ∀ (a b d : Nat) (x0 x1 y0 y1 z : Rat),
      Says.ratOf (f.num (a % 65536)) = some x0 → Says.ratOf (f.num (a / 65536 % 65536)) = some x1 →
      Says.ratOf (f.num (b % 65536)) = some y0 → Says.ratOf (f.num (b / 65536 % 65536)) = some y1 → Says.ratOf (fp32.num d) = some z →
      Says.delivers .rne fp32 (z + x0 * y0 + x1 * y1) (dot2One f d a b)) ∧
    (∀ f ∈ [fp64, fp32], ∀ (a : Nat) (x c : Rat), Says.ratOf (f.num a) = some x → 0 < x → Says.ratOf (f.num (f.sqrt a).1) = some c →
      0 < c ∧ ((f.sqrt a).2.getLsbD 4 = true ↔ c * c ≠ x) ∧
      ∀ z y, Says.ratOf (f.num z) = some y → 0 ≤ y → (c < y → 4 * x ≤ (c + y) * (c + y)) ∧ (y < c → (c + y) * (c + y) ≤ 4 * x)))

/-- R128: DIV and REM start a division of class 3 whose result, the quotient rounded toward zero or its remainder, lands 18 class-3 cycles later with no fault and no flag, at b = 0 as well: each cycle of class 3 of the core counts one, none of another class does, the core stays in class 3 meanwhile, and the result then lands in its register. -/
def Obligations.Divisions : Prop :=
  (∀ (p sg : Bool) (d a b : SReg) (s : State),
    let q := if s.tl.rs b = 0 then 0xFFFFFFFF else Says.w32 ((Says.val sg (s.tl.rs a)).tdiv (Says.val sg (s.tl.rs b)))
    let r := if s.tl.rs b = 0 then s.tl.rs a else Says.w32 ((Says.val sg (s.tl.rs a)).tmod (Says.val sg (s.tl.rs b)))
    let regs : List PReg := if d = 0 then [] else [.s d.toNat]
    exec (.div p sg d a b) s = .next ((s.startResult .divi [.s d q] regs none 0 18).finish p) ∧
    exec (.rem p sg d a b) s = .next ((s.startResult .divi [.s d r] regs none 0 18).finish p) ∧
    Instr.cls (.div p sg d a b) = 3 ∧ Instr.cls (.rem p sg d a b) = 3) ∧
  (∀ (s : State) (d : SReg) (x : Word) (regs : List PReg),
    let s' := s.startResult .divi [.s d x] regs none 0 18
    tfind s'.flights s.fresh = some { Flight.blank with tid := s.cur, core := s.cur / 64, kind := .result .divi, regs := regs, out := [.s d x], left := 18 } ∧
    s'.tl = { s.tl with pend := s'.tl.pend } ∧ (∀ r, r ∈ s'.tl.pend ↔ r ∈ s.tl.pend ∨ r ∈ regs) ∧ s'.mem = s.mem) ∧
  (∀ (f : Flight) (cls : Nat), f.kind = .result .divi → f.tick cls = { f with left := if cls = 3 then f.left - 1 else f.left }) ∧
  (∀ (s : State) (id : Nat) (f : Flight), (id, f) ∈ s.flights → f.kind = .result .divi → f.left ≠ 0 → s.opFloor f.core = 3) ∧
  (∀ (s : State) (id : Nat), (s.flight id).kind = .result .divi →
    ((s.flight id).left = 0 → exec (.divRemLand id) s = .next (s.land id (s.flight id).out (s.flight id).flags)) ∧
    ((s.flight id).left ≠ 0 → exec (.divRemLand id) s = .next s))

/-- R74, R126, R211, R213: what a landing does: the values go into their registers, no register of the operation is pending any more, its flags are ORed in, its counter comes down by one, and the operation is gone; memory and the other tillers are untouched. R87, R128, R147, R182, R209, R210: a result that was computed at issue lands when its time is over, and not before. The order in which results land beyond the counts the rules give is the model's (log entries 3 and 13). -/
def Obligations.Landings : Prop :=
  (∀ (s : State) (id : Nat) (vals : List RegVal) (fl : Flags),
      let f := s.flight id
      let t := s.tiller f.tid
      let s' := s.land id vals fl
      let t' := s'.tiller f.tid
      t'.s = (vals.foldl Tiller.putReg t).s ∧ t'.v = (vals.foldl Tiller.putReg t).v ∧ t'.m = (vals.foldl Tiller.putReg t).m ∧
      t'.pend = t.pend.filter (fun r => decide (r ∉ f.regs)) ∧ t'.flags = t.flags ||| fl ∧
      (∀ c, f.ctr = some c → t'.ctr c = t.ctr c - 1) ∧ (∀ c, f.ctr ≠ some c → t'.ctr c = t.ctr c) ∧
      tfind s'.flights id = none ∧ s'.mem = s.mem ∧ ∀ q, q ≠ f.tid → s'.tiller q = s.tiller q) ∧
  (∀ (i : Instr) (id : Nat) (row : LandRow) (s : State), Says.landsRow i = some (id, row) → (s.flight id).kind = .result row →
      ((s.flight id).left = 0 → exec i s = .next (s.land id (s.flight id).out (s.flight id).flags)) ∧
      ((s.flight id).left ≠ 0 → exec i s = .next s))

/-- R200, R201: SRD writes the register's value into its scalar or pair; a priv register read by a tiller that is not the steward is illegal with reason 0x09. R75, R171, R174, R200, R202: SWR replaces the writable fields of TSTAT and TCTL in every mode and of the saved registers in handler mode; it is illegal with reason 0x0C for every other register but NOTIFY. -/
def Obligations.SpecialRegisters : Prop :=
  ((∀ (p : Bool) (d : SReg) (r : Special) (s : State), (s.launch (s.sheaf s.tl.sheaf).launch).pkt.gx ≠ 0 → (s.launch (s.sheaf s.tl.sheaf).launch).pkt.gy ≠ 0 →
      r ≠ .notify ∨ s.tl.steward = true →
      exec (.srd p d r) s = .next ((s.setTl (if Says.wideSpecial r then s.tl.wp d (BitVec.ofNat 64 (Says.special s r)) else s.tl.ws d (BitVec.ofNat 32 (Says.special s r)))).finish p)) ∧
    (∀ (p : Bool) (d : SReg) (s : State), s.tl.steward = false → exec (.srd p d .notify) s = .next (Says.illegalHere s 0x09))) ∧
  ((∀ (p : Bool) (r : Special) (a : SReg) (s : State) (t : Tiller), Says.written s.tl r (s.tl.rs a) = some t → r = .tstat ∨ r = .tctl ∨ s.tl.hnd = true →
      exec (.swr p r a) s = .next ((s.setTl t).finish p)) ∧
    (∀ (p : Bool) (r : Special) (a : SReg) (s : State), r ≠ .notify → r ≠ .tstat → r ≠ .tctl → Says.written s.tl r (s.tl.rs a) = none ∨ s.tl.hnd = false →
      exec (.swr p r a) s = .next (Says.illegalHere s 0x0C)))

/-- R52, R202, R370: NOTIFY, by SWR or by SYS.NOTIFY: a value above 2047 is illegal, with the lower of its reasons; it is the steward's alone; else, after a release at .sy, the vector's message is sent or, where the host has masked it, becomes pending. R352: LAUNCH, GRUN and RCBSYNC make a release at .dv and then leave their destination pending until the operation's status lands. R348, R350, R352, R353, R360, R361: the status of a SYS operation lands in its destination once the operation is carried out, and the word is done; it waits where its structure has no translation. A structure in a held block, or behind a link that is down, is a precise data-error fault; one that meets an uncorrectable error leaves the destination as it is and the error to the first instruction that touches it, as for a load (R106, R110, R278, R352, R365). That the fault of a link that is down comes at once is the model's reading (log 42, DEDUCED). R348, R351, R352, R353, R361: the status of LAUNCH is that of its first failing check, in the order of R353's table, with a record of it, but for a bad packet, RECADDR or region, which give 0x16 or 0x17 and write nothing; a packet that passes is admitted. GRUN gives 0x20 where 8 instances stand, 0x21 where its object is out of range, else its instance's number. RCBSYNC gives 0x17 or 0x14 and changes nothing, or reads the copies again. A structure that stands in a held block or an uncorrectable error, or behind a link that is down, gives no status but that error. The order of FIELDs within a status, and which translations of a row are asked, are the model's (log 61); so are 0x20 before 0x21 and the counting of instances from 1 (log 64, DEDUCED), and 0x17 for an RCB address that cannot be read, no copy being left behind (log 62, DEDUCED). -/
def Obligations.SystemInstructions : Prop :=
  (∀ (i : Instr) (p : Bool) (a : SReg) (s : State), i = .swr p .notify a ∨ i = .sysNotify p a →
      (2048 ≤ (s.tl.rs a).toNat → exec i s = .next (Says.illegalHere s 0x08)) ∧
      ((s.tl.rs a).toNat < 2048 → s.tl.steward = false → exec i s = .next (Says.illegalHere s 0x09)) ∧
      (s.tl.steward = true → (s.tl.rs a).toNat < 2048 → ∀ s1, Says.released s 4 s1 →
        let v := (s.tl.rs a).toNat
        ∃ s2 : State, exec i s = .next (s2.finish p) ∧ s2.tl = { s1.tl with notify := v } ∧ s2.mem = s1.mem ∧
          (v ∈ s1.pkg.masked → s2.pkg = { s1.pkg with msgPending := if v ∈ s1.pkg.msgPending then s1.pkg.msgPending else s1.pkg.msgPending ++ [v] }) ∧
          (v ∉ s1.pkg.masked → s2.pkg = { s1.pkg with sent := tput s1.pkg.sent v (tget 0 s1.pkg.sent v + 1) }))) ∧
  (∀ (i : Instr) (op : Nat) (p : Bool) (d a : SReg) (s s1 : State), Says.sysOp i = some (op, p, d, a) → Says.released s 3 s1 →
      ∃ s2, exec i s = .next s2 ∧ tfind s2.flights s1.fresh = some { Flight.blank with
          tid := s1.cur, core := s1.cur / 64, kind := .sys op d (s1.tl.rp a).toNat p, regs := if d = 0 then [] else [.s d.toNat] } ∧
        (d ≠ 0 → PReg.s d.toNat ∈ s2.tl.pend) ∧ s2.tl.s = s1.tl.s ∧ s2.tl.run = s1.tl.run ∧ s2.mem = s1.mem ∧ s2.launches = s1.launches) ∧
  (∀ (id : Nat) (s : State) (f : Flight) (op : Nat) (d : SReg) (a : Nat) (p : Bool), tfind s.flights id = some f → f.kind = .sys op d a p →
      (∀ st s1, s.sysStatus f.tid op a = .done st s1 →
        exec (.sysStatusLand id) s = .next ((({ s1 with cur := f.tid } : State).land id [.s d (BitVec.ofNat 32 st)] 0).finish p)) ∧
      (∀ va mig, s.sysStatus f.tid op a = .wait va mig → ∃ s1, exec (.sysStatusLand id) s = .next s1 ∧ tfind s1.flights id = none ∧
        (s1.tiller f.tid).block = .fault (va / 65536) .load mig false) ∧
      (∀ va held, s.sysStatus f.tid op a = .data va held →
        let s1 := (({ s with cur := f.tid } : State).delFlight id).setTiller f.tid ((s.tiller f.tid).delPend f.regs)
        let line := if held then va / 128 * 128 else va / 64 * 64
        exec (.sysStatusLand id) s = .next (s1.trapHere (if held then 0x10 else 0x0F) (BitVec.ofNat 32 line) (BitVec.ofNat 32 (line / 2 ^ 32 % 2 ^ 24)))) ∧
      (∀ r, s.sysStatus f.tid op a = .bad r →
        let s1 := ({ s with cur := f.tid } : State).land id [] 0
        exec (.sysStatusLand id) s = .next ((s1.setTl { s1.tl with
          errs := s1.tl.errs ++ [⟨f.regs, none, r.pa, BitVec.ofNat 32 r.va, BitVec.ofNat 32 (r.va / 2 ^ 32 % 2 ^ 24), false⟩] }).finish p))) ∧
  ((∀ (s : State) (tid op a : Nat), op ≤ 1 → a % 64 ≠ 0 ∨ 2 ^ 56 ≤ a → s.sysStatus tid op a = .done (if op = 0 then 0x16 else 0x21) s) ∧
    (∀ (s : State) (tid a : Nat) (d : List Byte), a % 64 = 0 → a < 2 ^ 56 → s.sysWaits (s.rootOf tid) a 2 = none → s.sysBad (s.rootOf tid) a 2 = none → s.vread (s.rootOf tid) a 128 2 = some d → d.length = 128 →
      let n := descNat d
      let region := n 16 8
      let s0 := (s.vtouch (tid / 64) (s.rootOf tid) a 128 2).loadRcbs region 17
      let rooted := (s0.rcbPath region 16).any fun r => r.ovr.testBit 5
      let root := s0.effRoot region
      let recBad := n 8 8 % 64 ≠ 0 ∨ 2 ^ 56 ≤ n 8 8 ∨ rooted = true ∧ s0.lineAt root (n 8 8) .store = none
      (recBad → ∃ s1, s.sysStatus tid 0 a = .done 0x16 s1 ∧ s1.mem = s.mem ∧ s1.launches = s.launches) ∧
      (¬recBad → s0.inOwn region (s.regionOf tid) = false → ∃ s1, s.sysStatus tid 0 a = .done 0x17 s1 ∧ s1.mem = s.mem ∧ s1.launches = s.launches ∧ s1.rcbs = s.rcbs) ∧
      (¬recBad → s0.inOwn region (s.regionOf tid) = true →
        (∀ (pre post : List (Nat × Nat × Prop)) (st f : Nat) (ok : Prop), Says.launchTable s0 d = pre ++ (st, f, ok) :: post → (∀ e ∈ pre, e.2.2) → ¬ok →
          ∃ s1 s2 : State, s1.mem = s.mem ∧ s1.launches = s.launches ∧ s1.rcbs = s0.rcbs ∧ s2 = s1.vwrite 256 root (n 8 8) (Says.launchRecord d st f) 1 ∧
            s.sysStatus tid 0 a = .done st s2) ∧
        ((∀ e ∈ Says.launchTable s0 d, e.2.2) → ∃ (s1 : State) (l : Launch), s.sysStatus tid 0 a = .done 0x01 s1 ∧ s1.launches = tput s.launches s.launches.length l ∧
          l.pkt = packetOf d ∧ l.status = 1 ∧ l.next = 0 ∧ l.retired = 0 ∧ l.issuer = s.regionOf tid ∧ l.graph = none))) ∧
    (∀ (s : State) (tid a : Nat), a % 64 = 0 → a < 2 ^ 56 → s.sysWaits (s.rootOf tid) a 1 = none → s.sysBad (s.rootOf tid) a 1 = none →
      let root := s.rootOf tid
      let running := s.graphs.filter fun e => e.2.obj == a && e.2.root == root
      let seq := tget 0 s.graphSeq (a + 2 ^ 56 * root) + 1
      (8 ≤ running.length → ∃ s1, s.sysStatus tid 1 a = .done 0x20 s1 ∧ s1.graphs = s.graphs ∧ s1.mem = s.mem) ∧
      (running.length < 8 → s.snapshot root a = none → ∃ s1, s.sysStatus tid 1 a = .done 0x21 s1 ∧ s1.graphs = s.graphs ∧ s1.mem = s.mem) ∧
      (∀ pk, running.length < 8 → s.snapshot root a = some pk → ∃ s1, s.sysStatus tid 1 a = .done (1 + 256 * (seq % 256)) s1 ∧
        s1.graphs = tput s.graphs s.fresh ⟨a, root, s.regionOf tid, seq, pk, false, []⟩ ∧ s1.launches = s.launches)) ∧
    (∀ (s : State) (tid op a : Nat) (e : SysEnd), op ≤ 1 → a % 64 = 0 → a < 2 ^ 56 → s.sysWaits (s.rootOf tid) a (2 - op) = none → s.sysBad (s.rootOf tid) a (2 - op) = some e →
      s.sysStatus tid op a = e ∧ ∃ k r, k < 2 - op ∧ s.lineAt (s.rootOf tid) (a + 64 * k) .load = some r ∧
        (s.linkDown r.pa = true ∧ e = .data (a + 64 * k) false ∨ s.linkDown r.pa = false ∧ r.coded = true ∧ s.blockHeld r.key.base = true ∧ e = .data (a + 64 * k) true ∨
          s.linkDown r.pa = false ∧ ¬(r.coded = true ∧ s.blockHeld r.key.base = true) ∧ s.devBad r = true ∧ e = .bad r)) ∧
    (∀ (s : State) (tid a : Nat), ∃ (st : Nat) (s1 : State), s.sysStatus tid 2 a = .done st s1 ∧ (st = 0x01 ∨ st = 0x14 ∨ st = 0x17) ∧ (st ≠ 0x01 → s1 = s) ∧
      (st = 0x17 ↔ (s.loadRcbs a 17).inOwn a (s.regionOf tid) = false) ∧
      (st = 0x01 → s1.malformed a = false ∧ s1.mem = s.mem ∧ s1.launches = s.launches ∧
        ∀ k, tfind (s.loadRcbs a 17).rcbs k ≠ none → (s.loadRcbs a 17).inSubtree k a 17 = true → s1.rcb k = s.readRcb k ∧ s1.malformed k = false)))

/-- R36, R205, R207, R209: a scratchpad load of the tiller's own workgroup reads its values at issue and lands them in order; one of another workgroup's is started and reads when it lands. Its counter rises by one. That the own allocation is read for all lanes in the one step of the issue is the model's choice (log 94). -/
def Obligations.ScratchpadLoads : Prop :=
  ∀ (i : Instr) (s : State) (p : Bool) (d : VNum) (a : Addr) (c : Ctr) (wd : Width) (rank : Nat),
    Says.spadLoad i s.tl = some (p, d, a, c, wd, rank) → Says.uniformOk a wd → s.tl.gCount + 4 ≤ s.tl.ng →
    let lanes := Says.onLanes s.tl.act (Says.offset s.tl a wd)
    Says.inSpad (s.wg (4 * s.tl.sheaf + s.tl.rank)).spad (Width.size wd) lanes → rank < (s.launch (s.sheaf s.tl.sheaf).launch).pkt.wg →
    (rank = s.tl.rank → ∃ ds, Says.loaded s.tl d wd s.tl.act (fun k => readNat (s.wg (4 * s.tl.sheaf + rank)).bytes (Says.offset s.tl a wd k) (Width.size wd)) ds ∧
      exec i s = .next ((s.startResult .spad (asRegs ds) (Says.destPend d wd) (some c.toNat) 0 6).finish p)) ∧
    (rank ≠ s.tl.rank → ∃ s' : State, exec i s = .next (s'.finish p) ∧ Says.started s s' (.remote d wd rank lanes) (some c.toNat) (Says.destPend d wd) fun f => f.mask = s.tl.act ∧ f.left = 40)

/-- R36, R205, R207, R208, R209: a scratchpad store of the tiller's own workgroup writes its bytes at once, the highest lane's last, and no others; one of another workgroup's is started with its bytes. Its counter rises by one. That all lanes write in the one step of the issue is the model's choice (log 94). -/
def Obligations.ScratchpadStores : Prop :=
  ∀ (i : Instr) (s : State) (p : Bool) (d : VNum) (a : Addr) (c : Ctr) (wd : Width) (rank : Nat),
    Says.spadStore i s.tl = some (p, d, a, c, wd, rank) →
    let lanes := Says.onLanes s.tl.act (Says.offset s.tl a wd)
    Says.inSpad (s.wg (4 * s.tl.sheaf + s.tl.rank)).spad (Width.size wd) lanes → rank < (s.launch (s.sheaf s.tl.sheaf).launch).pkt.wg →
    let own := 4 * s.tl.sheaf + s.tl.rank
    Memory.wf (s.wg own).bytes = true →
    (rank = s.tl.rank → ∃ s' : State, exec i s = .next (s'.finish p) ∧ Says.started s s' .store (some c.toNat) [] (fun _ => True) ∧
      (∀ x, (∀ e ∈ lanes, x < e.2 ∨ e.2 + Width.size wd ≤ x) → readByte (s'.wg own).bytes x = readByte (s.wg own).bytes x) ∧
      (∀ e ∈ lanes, ∀ j, j < Width.size wd → (∀ e' ∈ lanes, e.1 < e'.1 → e.2 + j < e'.2 ∨ e'.2 + Width.size wd ≤ e.2 + j) →
        readByte (s'.wg own).bytes (e.2 + j) = Says.storeByte s.tl d e.1 j) ∧
      (∀ g, g ≠ own → s'.wg g = s.wg g)) ∧
    (rank ≠ s.tl.rank → ∃ s' cells, exec i s = .next (s'.finish p) ∧ Says.started s s' (.spadStore rank cells) (some c.toNat) [] (fun _ => True) ∧
      (∀ e ∈ lanes, ∀ j, j < Width.size wd → (e.2 + j, Says.storeByte s.tl d e.1 j) ∈ cells) ∧ s'.wgs = s.wgs)

/-- R205, R206: the first failing lane of a scratchpad access is reported with its offset, alignment before bounds before rank, and nothing is loaded or stored. R106, R275, R324, R330, R365: a lane that is misaligned, then one out of range, then one that does not translate or may not be used: the earliest check that fails is a precise fault with its lane, or parks the tiller where the fault is replayable; then a line behind a link that is down, or of a held block that is reached beyond the cache, is a data error of its lane. So for the loads and stores, the atomics, LDP, VSAV and VRST. That a link that is down (log 42) and a held block (log 45) are found at the issue, precisely, is the model's reading. -/
def Obligations.AccessFaults : Prop :=
  (∀ (i : Instr) (s : State) (p : Bool) (d : VNum) (a : Addr) (c : Ctr) (wd : Width) (rank k : Nat),
      (Says.spadLoad i s.tl = some (p, d, a, c, wd, rank) ∧ s.tl.gCount + 4 ≤ s.tl.ng ∨ Says.spadStore i s.tl = some (p, d, a, c, wd, rank)) →
      k < 32 → s.tl.act.getLsbD k = true →
      let spad := (s.wg (4 * s.tl.sheaf + s.tl.rank)).spad
      let o := Says.offset s.tl a wd k
      let named := match i with
        | .ldx .. | .stx .. => rank
        | _ => 0
      (∀ j, j < k → s.tl.act.getLsbD j = true →
        Says.offset s.tl a wd j % Width.size wd = 0 ∧ Says.offset s.tl a wd j + Width.size wd ≤ spad ∧ rank < (s.launch (s.sheaf s.tl.sheaf).launch).pkt.wg) →
      (o % Width.size wd ≠ 0 → exec i s = .next (s.trapHere 0x0A (BitVec.ofNat 32 o) (BitVec.ofNat 32 (1 + 4 * named + 256 * k)))) ∧
      (o % Width.size wd = 0 → spad < o + Width.size wd → exec i s = .next (s.trapHere 0x0A (BitVec.ofNat 32 o) (BitVec.ofNat 32 (0 + 4 * named + 256 * k)))) ∧
      (o % Width.size wd = 0 → o + Width.size wd ≤ spad → (s.launch (s.sheaf s.tl.sheaf).launch).pkt.wg ≤ rank →
        exec i s = .next (s.trapHere 0x0A (BitVec.ofNat 32 o) (BitVec.ofNat 32 (2 + 4 * named + 256 * k))))) ∧
  (∀ (i : Instr) (s s1 : State) (x : Says.Check) (hs : List LaneHit), Says.accessOf i s = some x → s.tl.gCount + 4 ≤ s.tl.ng →
      s.laneLines s.cur x.w x.al x.acc x.coded x.lanes = (hs, s1) →
      (∀ (f : AccFault) (va k : Nat), firstFail none hs = some (f, va, k) →
        (f = .misaligned → exec i s = .next (s1.trapHere 0x09 (BitVec.ofNat 32 va) (BitVec.ofNat 32 (va / 2 ^ 32 % 2 ^ 24 + 2 ^ 24 * k)))) ∧
        (f = .range → exec i s = .next (s1.trapHere 0x09 (BitVec.ofNat 32 va) (BitVec.ofNat 32 (va / 2 ^ 32 % 2 ^ 24 + 2 ^ 24 * k + 2 ^ 29)))) ∧
        (∀ prot, f = .trans prot → exec i s = .next (s1.trapHere 0x06 (BitVec.ofNat 32 va) (BitVec.ofNat 32 (va / 2 ^ 32 % 2 ^ 24 + 2 ^ 24 * k + if prot = true then 2 ^ 29 else 0)))) ∧
        (f = .coded → exec i s = .next (s1.trapHere 0x07 (BitVec.ofNat 32 va) (BitVec.ofNat 32 (va / 2 ^ 32 % 2 ^ 24 + 2 ^ 24 * k)))) ∧
        (∀ pa table, f = .phys pa table → exec i s = .next (s1.trapHere 0x08 (BitVec.ofNat 32 pa) (BitVec.ofNat 32 (pa / 2 ^ 32 % 2 ^ 24 + 2 ^ 24 * k + if table = true then 2 ^ 29 else 0)))) ∧
        (∀ mig, f = .replay mig → ∃ s' : State, exec i s = .next s' ∧ s'.tl.block = .fault (va / 65536) x.acc mig false ∧ s'.tl.s = s1.tl.s ∧ s'.tl.run = s1.tl.run ∧ s'.mem = s1.mem)) ∧
      (∀ (pre post : List (Nat × Nat × LineRef)) (e : Nat × Nat × LineRef), hs = (pre ++ e :: post).map (fun g => ⟨g.1, g.2.1, .ok g.2.2⟩) →
        (∀ g ∈ pre, s1.linkDown g.2.2.pa = false ∧ (g.2.2.coded = true → s1.blockHeld g.2.2.key.base = true → x.out s1 (pre ++ e :: post) g.2.2 = false)) →
        (s1.linkDown e.2.2.pa = true → e.2.2.coded = false →
          exec i s = .next (s1.trapHere 0x0F (BitVec.ofNat 32 (e.2.1 / 64 * 64)) (BitVec.ofNat 32 (e.2.1 / 2 ^ 32 % 2 ^ 24 + 2 ^ 24 * e.1)))) ∧
        (e.2.2.coded = true → s1.blockHeld e.2.2.key.base = true → x.out s1 (pre ++ e :: post) e.2.2 = true →
          exec i s = .next (s1.trapHere 0x10 (BitVec.ofNat 32 (e.2.1 / 128 * 128)) (BitVec.ofNat 32 (e.2.1 / 2 ^ 32 % 2 ^ 24 + 2 ^ 24 * e.1))))))

/-- R209, R227: a load from another workgroup's allocation reads it as it stands when it lands, after the tiller's earlier operations on that allocation; a window load lands 0 for the bytes beyond its window. STORE_PERFORM writes a remote store's bytes, or ends a store whose lines are done; one that has met a held block leaves the error to its tiller's next instruction (R106; that it does is the model's choice, log 45). -/
def Obligations.RemoteAndWindowLandings : Prop :=
  (∀ (id : Nat) (s : State) (d : VNum) (wd : Width) (rank : Nat) (offs : List (Nat × Nat)), (s.flight id).kind = .remote d wd rank offs → (wd = .uw → ∀ e ∈ offs, ∀ e' ∈ offs, e.2 = e'.2) →
    (∀ k, k < 32 → (s.flight id).mask.getLsbD k = true → ∃ o, (k, o) ∈ offs) → offs.Pairwise (fun e e' => e.1 < e'.1) → (s.flight id).left = 0 → s.rankBefore id = false →
    let t := s.tiller (s.flight id).tid
    ∃ ds, Says.loaded t d wd (s.flight id).mask (fun k => readNat (s.wg (4 * t.sheaf + rank)).bytes (tget 0 offs k) (Width.size wd)) ds ∧
      exec (.scratchpadLoadLand id) s = .next (s.land id (asRegs ds) 0)) ∧
  (∀ (id : Nat) (s : State) (d : VNum) (wd : Width) (oob : Bool) (lanes : List (Nat × List (Option Nat))), (s.flight id).kind = .ldp d wd oob lanes → wd ≠ .uw →
    (s.flight id).left = 0 → (∀ q ∈ (s.flight id).parts, q.st = .done ∧ q.err = false ∧ q.held = false) →
    let t := s.tiller (s.flight id).tid
    ∃ ds, Says.loaded t d wd (s.flight id).mask (fun k => (s.flight id).windowVal (tget [] lanes k)) ds ∧
      exec (.scratchpadLoadLand id) s = .next (s.land id (asRegs ds) (if oob then flagPWIN else 0))) ∧
  (∀ (id : Nat) (s : State) (rank : Nat) (cells : List Host.Cell), (s.flight id).kind = .spadStore rank cells → s.rankBefore id = false →
    exec (.storePerform id) s = .next ((s.spadWrite (4 * (s.tiller (s.flight id).tid).sheaf + rank) cells).land id [] 0)) ∧
  (∀ (id : Nat) (s : State), (s.flight id).kind = .store → (s.flight id).left = 0 → (∀ q ∈ (s.flight id).parts, q.st = .done) →
    ((∀ q ∈ (s.flight id).parts, q.held = false) → exec (.storePerform id) s = .next (s.land id [] 0)) ∧
    (∀ q ∈ (s.flight id).parts, q.held = true → ∃ s' e, exec (.storePerform id) s = .next s' ∧
      (s'.tiller (s.flight id).tid).errs = (s.tiller (s.flight id).tid).errs ++ [e] ∧ e.held = true ∧ e.regs = (s.flight id).regs ∧ tfind s'.flights id = none))

/-- R84, R210: ATOMS applies its operation lane by lane in ascending order to the workgroup's allocation; the old values land, and memory holds the last results. That all its lanes perform in the one step of the issue is the model's choice (log 94). R162, R182: PWPL loads the segment table from the allocation; LREFILL gives the oldest items of its queue to the lowest lanes that ask, advances the head by as many, and writes which lanes were served. That PWPL reads its table in the one step of its issue is the model's choice (log 94). -/
def Obligations.ScratchpadOperations : Prop :=
  (∀ (p : Bool) (op : AtomOp) (ty : AtomTy) (d a : VNum) (c : Ctr) (s : State), s.tl.gCount + 2 ≤ s.tl.ng →
      let own := 4 * s.tl.sheaf + s.tl.rank
      let n := if ty.is64 then 8 else 4
      let lanes := Says.onLanes s.tl.act fun k => ((s.tl.rv a).lane k).toNat
      let arg (k : Nat) : Nat := ((s.tl.rv d).lane k).toNat + if ty.is64 then 2 ^ 32 * ((s.tl.rv (d + 1)).lane k).toNat else 0
      let before (k : Nat) : List Host.Cell := (lanes.filter fun e => e.1 < k).foldl (fun m e => writeNat m e.2 n (atomNew op ty (readNat m e.2 n) (arg e.1)).1) (s.wg own).bytes
      let old (k : Nat) : Nat := readNat (before k) ((s.tl.rv a).lane k).toNat n
      Says.inSpad (s.wg own).spad n lanes →
      ∃ ds fl, Says.loaded s.tl d (if ty.is64 then .d else .w) s.tl.act old ds ∧ Says.flagsAre s.tl.act 0 fl (fun k => atomNew op ty (old k) (arg k)) ∧
        let s1 := s.startResult .atoms (asRegs ds) (Says.destPend d (if ty.is64 then .d else .w)) (some c.toNat) fl 6
        exec (.atoms p op ty d a c) s = .next ((s1.putWg own { s1.wg own with bytes := before 32 }).finish p)) ∧
  ((∀ (p : Bool) (a b : SReg) (s : State),
      let own := 4 * s.tl.sheaf + s.tl.rank
      let w := s.wg own
      let o := (s.tl.rs a).toNat
      let n := (s.tl.rs b).toNat
      (n = 0 ∨ 64 < n → exec (.pwpl p a b) s = .next (Says.illegalHere s 0x08)) ∧
      (1 ≤ n → n ≤ 64 → o % 4 = 0 → o + 20 * n ≤ w.spad → ∃ segs : List Segment, segs.length = n ∧
        (∀ j, j < n → segs[j]? = some ⟨readWord w.bytes (o + 20 * j), readWord w.bytes (o + 20 * j + 4), readWord w.bytes (o + 20 * j + 8), readWord w.bytes (o + 20 * j + 12), readWord w.bytes (o + 20 * j + 16)⟩) ∧
        exec (.pwpl p a b) s = .next ((s.setWg own { w with segs := segs }).finish p))) ∧
    (∀ (p : Bool) (d : VNum) (a : SReg) (c : Ctr) (wide : Bool) (m : MReg) (s : State), s.tl.gCount + 2 ≤ s.tl.ng →
      let own := 4 * s.tl.sheaf + s.tl.rank
      let w := s.wg own
      let q := (s.tl.rs a).toNat
      let size := if wide then 8 else 4
      let head := readNat w.bytes q 4
      let cap := 2 ^ (readNat w.bytes (q + 8) 4 % 32)
      let diff := (readNat w.bytes (q + 4) 4 + 2 ^ 32 - head) % 2 ^ 32
      let avail := min cap (if 2 ^ 31 ≤ diff then 0 else diff)
      let ask := (List.range 32).filter fun k => (s.tl.act &&& s.tl.rm m).getLsbD k
      let got := ask.take avail
      let item (k : Nat) : Nat := readNat w.bytes (q + 16 + (head + got.idxOf k) % 2 ^ 32 % cap * size) size
      q % 16 = 0 → q + 16 ≤ w.spad → (∀ j, j < got.length → (q + 16 + (head + j) % 2 ^ 32 % cap * size) + size ≤ w.spad) →
      ∃ (x y : VReg) (served : Word), (∀ k, k < 32 → served.getLsbD k = decide (k ∈ got)) ∧
        (∀ k, k < 32 → x.lane k = if k ∈ got then Says.w32 (item k) else (s.tl.rv d).lane k) ∧ x.tag = 2 ∧
        (∀ k, k < 32 → y.lane k = if k ∈ got then Says.w32 (item k / 2 ^ 32 : Nat) else (s.tl.rv (d + 1)).lane k) ∧ y.tag = 2 ∧
        let s1 := s.startResult .lrefill ((if wide then [.v d x, .v (d + 1) y] else [.v d x]) ++ if m = 0 then [] else [.m m served])
          ((if wide then [.v d.toNat, .v (d + 1).toNat] else [.v d.toNat]) ++ if m = 0 then [] else [.m m.toNat]) (some c.toNat) 0 6
        exec (.lrefill p d a c wide m) s = .next ((s1.putWg own { s1.wg own with bytes := writeNat w.bytes q 4 ((head + got.length) % 2 ^ 32) }).finish p)))

/-- R214 to R218, R221: an arrival that completes a phase advances PHASE, clears ARRIVED, EXPBYTES and LANDED and hands the phase's scope over; one that does not counts itself and its bytes; one beyond the count overruns. A landing adds its bytes to LANDED, and completes a phase whose arrivals and bytes are then all there (R221). R206, R217, R218: ARRIVE, ARRIVE.x and ARRIVE.r make their release; then the offset and the rank are checked, and then they arrive at the object, reading its phase before; an overrun is a scratchpad fault. The rank that the fault of an ARRIVE.r names is taken modulo 4 (log 85, the model's choice). -/
def Obligations.Arrivals : Prop :=
  (∀ (w : Wg) (o scope add n ph ex ar eb la : Nat), Says.barrier w o = (ph, ex, ar, eb, la) → Memory.wf w.bytes = true →
      (ex ≤ ar → w.arrive o scope add = none) ∧
      (ar < ex → ∃ w', w.arrive o scope add = some w' ∧ w'.spad = w.spad ∧ w'.acc = w.acc ∧ Memory.wf w'.bytes = true ∧
        (∀ x, x < o ∨ o + 16 ≤ x → readByte w'.bytes x = readByte w.bytes x) ∧
        (ar + 1 = ex ∧ la = (eb + add) % 2 ^ 32 → Says.barrier w' o = ((ph + 1) % 2 ^ 32, ex, 0, 0, 0) ∧ w'.lScope o = max (w.pScope o) scope ∧ w'.pScope o = 1) ∧
        (¬(ar + 1 = ex ∧ la = (eb + add) % 2 ^ 32) → Says.barrier w' o = (ph, ex, ar + 1, (eb + add) % 2 ^ 32, la) ∧ w'.lScope o = w.lScope o ∧ w'.pScope o = max (w.pScope o) scope)) ∧
      (∀ w', w' = w.land o scope n →
        w'.spad = w.spad ∧ w'.acc = w.acc ∧ Memory.wf w'.bytes = true ∧ (∀ x, x < o ∨ o + 16 ≤ x → readByte w'.bytes x = readByte w.bytes x) ∧
        (ar = ex ∧ (la + n) % 2 ^ 32 = eb → Says.barrier w' o = ((ph + 1) % 2 ^ 32, ex, 0, 0, 0) ∧ w'.lScope o = max (w.pScope o) scope ∧ w'.pScope o = 1) ∧
        (¬(ar = ex ∧ (la + n) % 2 ^ 32 = eb) → Says.barrier w' o = (ph, ex, ar, eb, (la + n) % 2 ^ 32) ∧ w'.lScope o = w.lScope o ∧ w'.pScope o = max (w.pScope o) scope))) ∧
  (∀ (i : Instr) (s s1 : State) (p : Bool) (d : SReg) (o rank scope add : Nat), Says.arriveOf i s.tl = some (p, d, o, rank, scope, add) → Says.released s scope s1 →
      let spad := (s1.wg (4 * s1.tl.sheaf + s1.tl.rank)).spad
      let there := rank < (s1.launch (s1.sheaf s1.tl.sheaf).launch).pkt.wg
      let g := 4 * s1.tl.sheaf + rank
      let fault (kind : Nat) : State := s1.trapHere 0x0A (BitVec.ofNat 32 o) (BitVec.ofNat 32 (kind + 4 * (match i with | .arriveR .. => rank % 4 | _ => 0)))
      (o % 16 ≠ 0 → exec i s = .next (fault 1)) ∧
      (o % 16 = 0 → spad < o + 16 → exec i s = .next (fault 0)) ∧
      (o % 16 = 0 → o + 16 ≤ spad → ¬there → exec i s = .next (fault 2)) ∧
      (o % 16 = 0 → o + 16 ≤ spad → there →
        (∀ w', (s1.wg g).arrive o scope add = some w' →
          let s2 := s1.putWg g w'
          exec i s = .next ((s2.setTl (s2.tl.ws d (readWord (s1.wg g).bytes o))).finish p)) ∧
        ((s1.wg g).arrive o scope add = none → exec i s = .next (fault 3))))

/-- R190, R212, R213, R219, R316: WAIT.b goes on, with an acquire, where the object's phase has passed its value and the tiller has no load or returning access out, and waits where not, its clause's GAP counted from its cycle; WAIT.a goes on where its counter is at or below the bound, and waits where it is above, its GAP counted so too. An engine's mark is a fault, and uses the mark up. -/
def Obligations.Waits : Prop :=
  (∀ (p : Bool) (a b : SReg) (s : State) (r : Run), s.tl.run = some r →
    let g := 4 * s.tl.sheaf + s.tl.rank
    let o := (s.tl.rs a).toNat
    let v := (s.tl.rs b).toNat
    let out := ∃ e ∈ s.flights, e.2.tid = s.cur ∧ e.2.kind.covered = true ∧ e.2.kind.returns = true
    let waits (ok : Option Nat) : State := s.setTl { s.tl with block := .waitB o (s.tl.rs b) p ok, gapEnd := if s.tl.again = true then s.tl.gapEnd else (s.core (s.cur / 64)).cycles + 1 + Says.gap r }
    let past := ((readNat (s.wg g).bytes o 4 + 2 ^ 32 - v) % 2 ^ 32)
    o % 16 = 0 → o + 16 ≤ (s.wg g).spad →
    (∀ m, tfind (s.wg g).marks (o / 16) = some m → m.tiller = s.tl.num →
      exec (.waitB p a b) s = .next ((s.setWg g { s.wg g with marks := tdel (s.wg g).marks (o / 16) }).trapHere 0x0E
        (BitVec.ofNat 32 (m.code + 256 * m.detail + 4096 * m.engine + 65536 * m.cidx)) (BitVec.ofNat 32 m.chain))) ∧
    ((∀ m, tfind (s.wg g).marks (o / 16) = some m → m.tiller ≠ s.tl.num) →
      (1 ≤ past ∧ past < 2 ^ 31 → ¬out → exec (.waitB p a b) s = .next ((s.acquire (s.cur / 64) ((s.wg g).lScope o)).finish p)) ∧
      (1 ≤ past ∧ past < 2 ^ 31 → out → exec (.waitB p a b) s = .next (waits (some ((s.wg g).lScope o)))) ∧
      (¬(1 ≤ past ∧ past < 2 ^ 31) → exec (.waitB p a b) s = .next (waits none)))) ∧
  (∀ (p : Bool) (c : Ctr) (b : BitVec 7) (s : State) (r : Run), s.tl.run = some r →
    (s.tl.ctr c.toNat ≤ b.toNat → exec (.waitA p c b) s = .next (s.finish p)) ∧
    (b.toNat < s.tl.ctr c.toNat → exec (.waitA p c b) s = .next (s.setTl { s.tl with block := .waitA c.toNat b.toNat p, gapEnd := if s.tl.again = true then s.tl.gapEnd else (s.core (s.cur / 64)).cycles + 1 + Says.gap r }))) ∧
  (∀ (tid o sc : Nat) (v : Word) (p : Bool) (s : State), (s.tiller tid).block = .waitB o v p (some sc) → (s.tiller tid).halt = .running →
    let out := ∃ e ∈ s.flights, e.2.tid = tid ∧ e.2.kind.covered = true ∧ e.2.kind.returns = true
    let s1 := (({ s with cur := tid } : State).setTiller tid { s.tiller tid with block := .none }).acquire (tid / 64) sc |>.finish p
    (¬out → exec (.waitBReturn tid) s = .next (s1.setTl { s1.tl with gapEnd := (s.tiller tid).gapEnd })) ∧
    (out → exec (.waitBReturn tid) s = .next s))

/-- R45, R213, R288: FENCE raises its counter and stays outstanding for what it covers; its completion makes the acquire and lets the counter down. A release that an instruction makes first ends the same way, and its word issues again. -/
def Obligations.Fences : Prop :=
  (∀ (i : Instr) (s : State) (p rel acq : Bool) (n : Nat) (c : Ctr), Says.fenceOf i = some (p, rel, acq, n, c) →
    let r := if rel then s.release s.cur n acq else (s, s.pendingAccesses s.cur n false true)
    ∃ s' : State, exec i s = .next (s'.finish p) ∧ tfind s'.flights r.1.fresh = some { Flight.blank with
        tid := s.cur, core := s.cur / 64, kind := .fence acq n, ctr := some c.toNat, mask := s.tl.act, waits := r.2 } ∧
      s'.tl = { s.tl with a := tput s.tl.a c.toNat (s.tl.ctr c.toNat + 1) } ∧ s'.mem = s.mem) ∧
  (∀ (id n : Nat) (acq : Bool) (s : State), (s.flight id).kind = .fence acq n → (s.flight id).waits = [] →
    exec (.fenceComplete id) s = .next ((if acq = true ∧ 2 ≤ n then s.acquireL1 (s.flight id).core else s).land id [] 0)) ∧
  (∀ (id n : Nat) (s : State), (s.flight id).kind = .hold n → (s.flight id).waits = [] → ∃ s' : State, exec (.fenceComplete id) s = .next s' ∧ tfind s'.flights id = none ∧
    s'.tiller (s.flight id).tid = { s.tiller (s.flight id).tid with again := true } ∧ s'.mem = s.mem) ∧
  (∀ (id : Nat) (s : State), (s.flight id).kind = .store ∨ (∃ acq n, (s.flight id).kind = .fence acq n ∧ (s.flight id).waits ≠ []) → exec (.fenceComplete id) s = .next s)

/-- R36, R37, R271, R272, R276: LDG and LDGX start a load of the lines their lanes reach: the destinations are pending, with what they held kept for a landing with an error, the counter has risen, and no byte of memory has changed. R276, R278: a load lands when all its lines are there: lane k's register holds the bytes at its place, the least significant first; a line under an uncorrectable error, or of a held block, lands in the registers what they held when the load issued, and leaves the error to the first instruction that touches them. What the registers hold is what they held when the load issued (log 26), and a held block met after the issue is deferred as an error is (log 45): both are the model's reading. -/
def Obligations.GlobalLoads : Prop :=
  (∀ (i : Instr) (s s1 : State) (p : Bool) (d : VNum) (a : Addr) (c : Ctr) (wd : Width) (h : Hint) (addr : Nat → Nat) (good : List (Nat × Nat × LineRef)),
      Says.globalLoad i s.tl = some (p, d, a, c, wd, h, addr) → s.tl.gCount + 4 ≤ s.tl.ng →
      Says.reached s (Says.same (Width.size wd)) (Width.size wd) .load true (Says.loadBeyond h (Width.size wd)) (Says.onLanes s.tl.act addr) good s1 →
      ∃ s' : State, exec i s = .next (s'.finish p) ∧ Says.started s s' (.load d wd (Says.places good)) (some c.toNat) (Says.destPend d wd) fun f =>
        f.mask = s.tl.act ∧ Says.coversLines good f ∧ f.out = (List.range (Width.regs wd)).map fun j => .v (d + BitVec.ofNat 7 j) (s.tl.rv (d + BitVec.ofNat 7 j))) ∧
  ((∀ (id : Nat) (s : State) (d : VNum) (wd : Width) (refs : List LaneRef), (s.flight id).kind = .load d wd refs → (s.flight id).left = 0 →
      (∀ q ∈ (s.flight id).parts, q.st = .done ∧ q.err = false ∧ q.held = false) →
      (wd = .uw → ∀ r ∈ refs, ∀ r' ∈ refs, r.key = r'.key ∧ r.off = r'.off) → (∀ k, k < 32 → (s.flight id).mask.getLsbD k = true → ∃ r ∈ refs, r.lane = k) → refs.Pairwise (fun r r' => r.lane < r'.lane) →
      ∃ ds value, Says.loaded (s.tiller (s.flight id).tid) d wd (s.flight id).mask value ds ∧ exec (.loadLand id) s = .next (s.land id (asRegs ds) 0) ∧
        ∀ r ∈ refs, ∀ q ∈ (s.flight id).parts, q.key = r.key → (∀ q' ∈ (s.flight id).parts, q'.key = r.key → q' = q) → q.data.length = 64 → r.off + Width.size wd ≤ 64 →
          ∀ j, j < Width.size wd → value r.lane / 256 ^ j % 256 = (lget 0 q.data (r.off + j)).toNat) ∧
    (∀ (id : Nat) (s : State) (d : VNum) (wd : Width) (refs : List LaneRef) (q : Part), (s.flight id).kind = .load d wd refs → (s.flight id).left = 0 →
      (∀ q ∈ (s.flight id).parts, q.st = .done) → q ∈ (s.flight id).parts → q.err = true ∨ q.held = true → (∀ q' ∈ (s.flight id).parts, q' ≠ q → q'.err = false ∧ q'.held = false) →
      let t := s.tiller (s.flight id).tid
      ∃ s' e, exec (.loadLand id) s = .next s' ∧ (s'.tiller (s.flight id).tid).errs = t.errs ++ [e] ∧ e.regs = (s.flight id).regs ∧ e.ctr = (s.flight id).ctr ∧ e.pa = q.pa ∧ e.held = q.held ∧
        tfind s'.flights id = none ∧ (s'.tiller (s.flight id).tid).v = ((s.flight id).out.foldl Tiller.putReg t).v ∧
        (s'.tiller (s.flight id).tid).s = ((s.flight id).out.foldl Tiller.putReg t).s ∧ (s'.tiller (s.flight id).tid).m = ((s.flight id).out.foldl Tiller.putReg t).m ∧ s'.mem = s.mem))

/-- R271, R272, R276, R277, R368: STG and STGX start a store whose bytes have gone into the cache or on their way home, those to the control space having taken effect: the counter has risen and no register has changed. That the stores to the control space take effect at the issue is the model's reading of R368 (log 82). R269, R271, R272, R276, R277: of the lines that a store reaches, each byte holding the highest lane's value, those that its hint and their page keep in the core's cache have their bytes valid there, and dirty; the others are sent to their homes with their bytes. A line that shares its set of the cache with another line of the store may be pushed out by it, and one of a coded block may be written back with the block's other line, which leaves it clean. -/
def Obligations.GlobalStores : Prop :=
  (∀ (i : Instr) (s s1 : State) (p : Bool) (d : VNum) (c : Ctr) (wd : Width) (h : Hint) (addr : Nat → Nat) (good : List (Nat × Nat × LineRef)),
      Says.globalStore i s.tl = some (p, d, c, wd, h, addr) →
      Says.reached s (Says.same (Width.size wd)) (Width.size wd) .store true (Says.storeBeyond h) (Says.onLanes s.tl.act addr) good s1 →
      let s2 := s1.ctlStores (s.tl.laneBytes d wd) (good.filter fun e => physKind e.2.2.pa == .control)
      ∃ s' : State, exec i s = .next (s'.finish p) ∧ Says.started s2 s' .store (some c.toNat) [] fun _ => True) ∧
  (∀ (i : Instr) (s s1 : State) (p : Bool) (d : VNum) (c : Ctr) (wd : Width) (h : Hint) (addr : Nat → Nat) (good : List (Nat × Nat × LineRef)),
      Says.globalStore i s.tl = some (p, d, c, wd, h, addr) →
      Says.reached s (Says.same (Width.size wd)) (Width.size wd) .store true (Says.storeBeyond h) (Says.onLanes s.tl.act addr) good s1 →
      (∀ e ∈ good, physKind e.2.2.pa ≠ .control) → (∀ e ∈ good, ∀ e' ∈ good, e'.2.2.key = e.2.2.key → e'.2.2 = e.2.2) →
      (∀ e ∈ good, ∀ l, (s1.core (s.cur / 64)).l1find e.2.2.key = some l → l.cells.length = 64 ∧ l.set = e.2.2.setOf) →
      ∃ s' : State, exec i s = .next (s'.finish p) ∧ ∃ id f, tfind s'.flights id = some f ∧ f.kind = .store ∧ ∀ e ∈ good,
        (Says.storeBeyond h s1 good e.2.2 = true → (h = .strm → ∀ e' ∈ good, e'.2.2.setOf = e.2.2.setOf → e'.2.2 = e.2.2) →
          ∃ q ∈ f.parts, q.key = e.2.2.key ∧ ∃ w b, q.op = .write w b ∧ ∀ x y, (x, y) ∈ w ↔ Says.leaves s.tl d wd good e.2.2.key x y) ∧
        (Says.storeBeyond h s1 good e.2.2 = false → (∀ e' ∈ good, e'.2.2.setOf = e.2.2.setOf → e'.2.2 = e.2.2) →
          ∃ l : L1Line, (s'.core (s.cur / 64)).l1find e.2.2.key = some l ∧ ∀ x y, Says.leaves s.tl d wd good e.2.2.key x y →
            l.at x = some y ∧ (e.2.2.coded = false ∧ e.2.2.key.rate = 0 ∨ (∀ e' ∈ good, e'.2.2 = e.2.2) → lget .invalid l.cells x = .dirty y)))

/-- R38, R279, R281 to R283: ATOM, RED and CAS start an atomic at the homes of their lines, each lane with its address and operands; ATOM and CAS leave their destination pending. The steward's on the control space act on its registers at once, which is the model's reading of R368 (log 82): KVEPOCH takes the result, and the old value is what it held. R281, R283: the old values of an ATOM or a CAS land once every line has answered, with the flags of their additions. -/
def Obligations.GlobalAtomics : Prop :=
  (∀ (i : Instr) (s s1 : State) (p : Bool) (op : AtomOp) (ty : AtomTy) (cas ret : Bool) (d a : VNum) (c : Ctr) (lit : Word) (x y : Nat → Nat) (good : List (Nat × Nat × LineRef)),
      Says.globalAtomic i s.tl = some (p, op, ty, cas, ret, d, a, c, lit, x, y) → s.tl.gCount + 2 ≤ s.tl.ng →
      let n := if ty.is64 then 8 else 4
      let wd : Width := if ty.is64 then .d else .w
      Says.reached s (Says.same n) n .atomic false (fun _ _ _ => false) (Says.onLanes s.tl.act (Says.addressX s.tl (.vec a) .w lit)) good s1 →
      ((∀ e ∈ good, physKind e.2.2.pa ≠ .control) → ∃ s' : State, exec i s = .next (s'.finish p) ∧ Says.started s s' (if ret then .atomic d ty.is64 else .store) (some c.toNat) (if ret then Says.destPend d wd else []) fun f =>
        Says.coversLines good f ∧ ∀ e ∈ good, ∃ q ∈ f.parts, q.key = e.2.2.key ∧ ∃ ls, q.op = .atomic op ty cas ret ls ∧ ⟨e.1, e.2.2.pa + e.2.1 % 64, x e.1, y e.1⟩ ∈ ls) ∧
      (∀ (k va : Nat) (r : LineRef), good = [(k, va, r)] → r.pa % 2 ^ 32 + va % 64 = 0x1010 → physKind r.pa = .control → n = 4 → s1.pkg.err = 0 →
        let old := s1.kvepoch % 2 ^ 32
        ∃ s' : State, exec i s = .next (s'.finish p) ∧ s'.kvepoch = (if cas = true then (if old = y k then x k else old) else (atomNew op ty old (x k)).1) % 2 ^ 32 ∧
          ∃ id f, tfind s'.flights id = some f ∧ f.parts = [] ∧ (ret = true → tget 0 f.olds k = old))) ∧
  (∀ (id : Nat) (s : State) (d : VNum) (wide : Bool), (s.flight id).kind = .atomic d wide → (s.flight id).left = 0 →
      (∀ q ∈ (s.flight id).parts, q.st = .done ∧ q.err = false ∧ q.held = false) →
      ∃ ds, Says.loaded (s.tiller (s.flight id).tid) d (if wide then .d else .w) (s.flight id).mask (fun k => tget 0 (s.flight id).olds k) ds ∧
        exec (.atomicResultLand id) s = .next (s.land id (asRegs ds) (s.flight id).flags))

/-- R143, R144: VSAV stores the record of a register, as many words as its tag asks for; VRST reads the record's first word, and its word issues again when that has come; it then reads as many words as the tag asks for, counts its destination as G meanwhile, and lands the register that the record holds. That the tag is the one that a load of its own brings is the model's order (log 43); that a first word under an error, or of a held block, leaves the VRST to land what its register held is its reading (logs 26 and 45). -/
def Obligations.RegisterRecords : Prop :=
  (∀ (p : Bool) (d : VNum) (a : SReg) (c : Ctr) (h : Hint) (s s1 s2 : State) (good good' : List (Nat × Nat × LineRef)),
    let n := Says.recordLen (s.tl.rv d).tag
    Says.reached s (Says.same 4) 4 .store true (Says.storeBeyond h) (Says.wordsAt (s.tl.rp a).toNat n) good s1 →
    Says.reached s1 (Says.same 4) 4 .store true (Says.storeBeyond h) ((List.range n).map fun j => (j, ((s.tl.rp a).toNat + 4 * j) % 2 ^ 64)) good' s2 → (∀ e ∈ good', physKind e.2.2.pa ≠ .control) →
    ∃ s' : State, exec (.vsav p d a c h) s = .next (s'.finish p) ∧ Says.started s s' .store (some c.toNat) [] fun _ => True) ∧
  (∀ (p : Bool) (d : VNum) (a : SReg) (c : Ctr) (h : Hint) (s s1 : State) (e : Nat × Nat × LineRef), s.tl.gCount + 1 ≤ s.tl.ng → s.tl.vtag = none →
    Says.reached s (Says.same 4) 4 .load true (Says.loadBeyond h 4) (Says.wordsAt (s.tl.rp a).toNat 1) [e] s1 →
    ∃ s' : State, exec (.vrst p d a c h) s = .next s' ∧ s'.cur = s.cur ∧ (∀ r, s.tl.run = some r → s'.tl = { s.tl with again := true, gapEnd := if s.tl.again = true then s.tl.gapEnd else (s.core (s.cur / 64)).cycles + 1 + Says.gap r }) ∧ s'.mem = s.mem ∧
      ∃ id f, tfind s'.flights id = some f ∧ f.kind = .vtag ⟨e.1, e.2.2.key, e.2.1 % 64⟩ ∧ f.tid = s.cur ∧ f.ctr = none ∧ f.regs = [] ∧ Says.coversLines [e] f) ∧
  (∀ (id : Nat) (s : State) (r : LaneRef) (q : Part), (s.flight id).kind = .vtag r → (s.flight id).left = 0 → (s.flight id).parts = [q] → q.st = .done →
    ∃ s', exec (.vrstLand id) s = .next s' ∧ s'.tiller (s.flight id).tid = { s.tiller (s.flight id).tid with vtag := some (q, r) } ∧ tfind s'.flights id = none ∧ s'.mem = s.mem) ∧
  (∀ (p : Bool) (d : VNum) (a : SReg) (c : Ctr) (h : Hint) (s s1 : State) (q : Part) (r : LaneRef) (good : List (Nat × Nat × LineRef)), s.tl.gCount + 1 ≤ s.tl.ng → s.tl.vtag = some (q, r) →
    let first := natOfBytes ((q.data.drop r.off).take 4)
    (q.err = false → q.held = false →
      Says.reached s (Says.same 4) 4 .load true (Says.loadBeyond h 4) (Says.wordsAt ((s.tl.rp a).toNat + 4) (Says.recordLen (first % 4) - 1)) good s1 →
      ∃ s' : State, exec (.vrst p d a c h) s = .next (s'.finish p) ∧ (s'.tl.rv d).tag = 2 ∧ s'.tl.vtag = none ∧
        Says.started s s' (.vrst d first (Says.places good)) (some c.toNat) [.v d.toNat] (Says.coversLines good)) ∧
    (q.err = true ∨ q.held = true → q.st = .done →
      ∃ s' : State, exec (.vrst p d a c h) s = .next (s'.finish p) ∧ Says.started s s' (.vrst d 0 []) (some c.toNat) [.v d.toNat] fun f => f.parts = [q] ∧ f.out = [.v d (s.tl.rv d)])) ∧
  (∀ (id : Nat) (s : State) (d : VNum) (first : Nat) (refs : List LaneRef), (s.flight id).kind = .vrst d first refs → (s.flight id).left = 0 →
    (∀ q ∈ (s.flight id).parts, q.st = .done ∧ q.err = false ∧ q.held = false) → refs.length + 1 = Says.recordLen (first % 4) →
    let word (j : Nat) : Word := BitVec.ofNat 32 ((refs[j]?.map fun r => (s.flight id).numAt r 4).getD 0)
    ∃ x : VReg, exec (.vrstLand id) s = .next (s.land id [.v d x] 0) ∧
      (first % 4 = 0 → x = .u (word 0)) ∧ (first % 4 = 1 → x = .a (word 0) (word 1)) ∧ (2 ≤ first % 4 → x.tag = 2 ∧ ∀ k, k < 32 → x.lane k = word k))

/-- R225 to R227: LDP reads its launch's parameter window without a translation fault beyond it: a byte beyond the window is 0 and raises PWIN, or traps where TCTL says so. R285: PREF faults on nothing, whatever its lanes name, and leaves every register, counter and byte of memory as it was; its word is done. R222, R365: WATCH cancels the oldest of 16 armed watches, asks the home of its line for a watch for the barrier object it names, and holds its tiller back until that is armed. A line of the control space, which only loads, stores, atomics and LDP reach (R368), is a fault; a home behind a link that is down is a data error, found at the issue (log 42, the model's reading). -/
def Obligations.ParametersAndHints : Prop :=
  (∀ (p : Bool) (d : VNum) (a : Addr) (c : Ctr) (wd : Width) (n : BitVec 3) (s : State), s.tl.gCount + 4 ≤ s.tl.ng →
      let w := Says.window s n
      let off := Says.windowOff s.tl a
      let lanes := Says.windowLanes s n a wd
      (∀ k, k < 32 → s.tl.act.getLsbD k = true → Says.beyondWindow s n a wd k → (∀ j, j < k → s.tl.act.getLsbD j = true → ¬Says.beyondWindow s n a wd j) → s.tl.pwinTrap = true →
        exec (.ldp p d a c wd n) s = .next (s.trapHere 0x0C (BitVec.ofNat 32 (max (off k) w.size)) (BitVec.ofNat 32 (n.toNat + 256 * k)))) ∧
      (∀ (oob : Bool) (good : List (Nat × Nat × LineRef)) (s1 : State), (oob = true ↔ ∃ k, k < 32 ∧ s.tl.act.getLsbD k = true ∧ Says.beyondWindow s n a wd k) → (oob = true → s.tl.pwinTrap = false) →
        Says.reached s (Says.windowWidth s n a wd) 1 .load true (fun _ _ _ => true) (paramMisses (s.core (s.cur / 64)) (s.sheaf s.tl.sheaf).launch lanes) good s1 →
        ∃ s' : State, exec (.ldp p d a c wd n) s = .next (s'.finish p) ∧ Says.started s s' (.ldp d wd oob lanes) (some c.toNat) (Says.destPend d wd) fun f => f.mask = s.tl.act)) ∧
  (∀ (i : Instr) (p : Bool) (a : VNum) (lit : Word) (s : State), i = .prefL1 p a lit ∨ i = .prefGr p a lit →
      ∃ s' : State, exec i s = .next (s'.finish p) ∧ s'.tillers = s.tillers ∧ s'.mem = s.mem ∧ s'.wgs = s.wgs ∧ s'.cur = s.cur) ∧
  (∀ (p : Bool) (a b : SReg) (s s1 : State) (r : LineRef),
      let o := (s.tl.rs b).toNat
      let va := (s.tl.rp a).toNat / 64 * 64
      o % 16 = 0 → o + 16 ≤ (s.wg (4 * s.tl.sheaf + s.tl.rank)).spad → va < 2 ^ 56 →
      s.translate (s.cur / 64) (s.cur / 16 % 4) (s.tenantOf s.cur) (s.rootOf s.cur) va .load = (.ok r, s1) → r.coded = false →
      (physKind r.pa = .control →
        (s1.tl.steward = true → exec (.watch p a b) s = .next (s1.trapHere 0x09 (BitVec.ofNat 32 va) (BitVec.ofNat 32 (va / 2 ^ 32 % 2 ^ 24)))) ∧
        (s1.tl.steward = false → exec (.watch p a b) s = .next (s1.trapHere 0x08 (BitVec.ofNat 32 r.pa) (BitVec.ofNat 32 (r.pa / 2 ^ 32 % 2 ^ 24))))) ∧
      (physKind r.pa ≠ .control → s1.linkDown r.pa = false →
        let s2 := (s1.trimWatches s.cur).finish p
        ∃ (s' : State) (f : Flight) (q : Part), exec (.watch p a b) s = .next s' ∧ tfind s'.flights s2.fresh = some f ∧ f.kind = .watch ∧ f.tid = s.cur ∧ f.core = s.cur / 64 ∧
          f.parts = [q] ∧ q.pa = r.pa ∧ q.key = r.key ∧ q.op = .watch o ∧ (q.st = .unsent ∨ q.st = .sent) ∧
          s'.cur = s2.cur ∧ s'.tillers = s2.tillers ∧ s'.stuck s.cur = true ∧ s'.mem = s2.mem) ∧
      (physKind r.pa ≠ .control → s1.linkDown r.pa = true → exec (.watch p a b) s = .next (s1.trapHere 0x0F (BitVec.ofNat 32 va) (BitVec.ofNat 32 (va / 2 ^ 32 % 2 ^ 24)))))

/-- R15, R33, R231, R233, R238, R239, R241 to R248: an array instruction whose workgroup owns the array, with every lane active, room in the queue and every operand check passed, enters its operation at the end of the queue with a copy of CFG; its counter rises by one, and the scalar of an MHIST is pending. MCFG replaces CFG. R15, R126, R233, R238: an array instruction of a workgroup that does not own the array is illegal with reason 0x0A, then one with an inactive lane with 0x0B; then a full queue leaves the word unissued, to issue again; and the first operand check that fails is a tile-bounds fault with its KIND and ENTRY, which changes neither the queue nor CFG. That a full queue is asked for after the ownership and the mask and before the operands is the model's reading (log 49). -/
def Obligations.ArrayOperationsEnter : Prop :=
  ((∀ (p : Bool) (a : SReg) (s : State), Says.arrayUsable s → Says.cfgLegal (s.tl.rs a) →
      exec (.mcfg p a) s = .next ((s.setWg (Says.own s) { s.wg (Says.own s) with cfg := s.tl.rs a }).finish p)) ∧
    (∀ (i : Instr) (s : State) (p : Bool) (c : Option Nat) (d : Option SReg) (k : ArrKind), Says.evenPairs i →
      Says.arrayOp i s.tl (s.wg (Says.own s)) = some (p, c, d, k) → Says.arrayUsable s → (s.array (s.cur / 64)).queue.length < 16 →
      (∀ e ∈ Says.tileChecks i s.tl (s.wg (Says.own s)), e.2.2 = false) →
      ∃ s' : State, exec i s = .next (s'.finish p) ∧ s'.cur = s.cur ∧
        s'.array (s.cur / 64) = { s.array (s.cur / 64) with queue := (s.array (s.cur / 64)).queue ++
          [Says.entered1 k (s.wg (Says.own s)).cfg (.tiller s.cur c d) (Says.own s) (if Says.usesBytes k then Says.elsewhere s else [])] } ∧
        (∀ n, s'.tl.ctr n = s.tl.ctr n + if c = some n then 1 else 0) ∧ (∀ r, r ∈ s'.tl.pend ↔ r ∈ s.tl.pend ∨ ∃ x, d = some x ∧ x ≠ 0 ∧ r = .s x.toNat) ∧
        s'.tl.s = s.tl.s ∧ s'.tl.v = s.tl.v ∧ s'.tl.m = s.tl.m ∧ s'.tl.flags = s.tl.flags ∧ s'.mem = s.mem ∧ s'.wgs = s.wgs)) ∧
  (∀ (i : Instr) (s : State), Says.isArray i = true → Says.evenPairs i →
      let full : Prop := (∀ p a, i ≠ .mcfg p a) ∧ 16 ≤ (s.array (s.cur / 64)).queue.length
      ((s.wg (Says.own s)).accRows = 0 → exec i s = .next (Says.illegalHere s 0x0A)) ∧
      ((s.wg (Says.own s)).accRows ≠ 0 → s.tl.act ≠ 0xFFFFFFFF → exec i s = .next (Says.illegalHere s 0x0B)) ∧
      (Says.arrayUsable s → full → exec i s = .next s ∧ s.noRoom i = true ∧ ∀ r, s.tl.nextInstr r = .ok i → s.tl.deferred r i = none → s.issue r = .stay s) ∧
      (Says.arrayUsable s → ¬full → ∀ (l r : List (Nat × Nat × Bool)) (kind entry : Nat), Says.tileChecks i s.tl (s.wg (Says.own s)) = l ++ (kind, entry, true) :: r →
        (∀ e ∈ l, e.2.2 = false) → exec i s = .next (s.trapHere 0x0B (BitVec.ofNat 32 (kind + 256 * entry)) s.tl.word)) ∧
      (Says.arrayUsable s → ∀ p a, i = .mcfg p a → ¬Says.cfgLegal (s.tl.rs a) → exec i s = .next (s.trapHere 0x0B 0x0000FF04 s.tl.word)))

/-- R230, R232, R234, R235, R242 to R245: an operation whose issuer's earlier accesses have performed starts: a streamer operation once no streamer operation and no MSWP stands ahead of it, an MLDS with the loader idle, the shadow EMPTY and no MLDS, MSWP or MDRN ahead, its shadow planes cleared, and exchanges the planes for an MSWP. The swap of a grouped product exchanges them too, and its last waits for the loader. -/
def Obligations.ArrayOperationsStart : Prop :=
  (∀ (core k : Nat) (s : State) (o : ArrOp),
    let u := s.array core
    u.queue[k]? = some o → o.started = false → (∀ i ∈ o.after, tfind s.flights i = none) →
    (o.kind.streamer = true → (∀ x ∈ u.queue.take k, x.kind.streamer = false ∧ x.kind ≠ .mswp) →
      exec (.arrayOpStart core k) s = .next (s.setArray core { u with queue := u.queue.set k { o with started := true, segs := (s.wg o.wg).segs, planes := none } })) ∧
    ((∃ plane ws, o.kind = .mlds plane ws) → u.full = false → (∀ x ∈ u.queue, x.started = true → x.kind.streamer = true) →
      (∀ x ∈ u.queue.take k, x.kind.streamer = true ∧ ∀ desc, x.kind ≠ .mdrn desc) →
      exec (.arrayOpStart core k) s = .next (s.setArray core { u with
        shadow := ⟨[], []⟩, queue := u.queue.set k { o with started := true, segs := (s.wg o.wg).segs, planes := some (u.active, u.shadow, u.full) } })) ∧
    (o.kind = .mswp → k = 0 → ∃ s' : State, exec (.arrayOpStart core k) s = .next s' ∧
      s'.array core = { u with active := u.shadow, shadow := u.active, full := false, queue := u.queue.drop 1 } ∧ s'.mem = s.mem ∧ s'.wgs = s.wgs)) ∧
  (∀ (core k : Nat) (s : State) (o : ArrOp) (tb ts : Nat) (es : List (Nat × Nat × Nat)),
    let u := s.array core
    let p := some (o.planes.getD (u.active, u.shadow, u.full))
    u.queue[k]? = some o → o.swap = true → (∀ x ∈ u.queue.take k, x.swap = false) → o.kind = .mgrp tb ts es →
    (o.grp + 1 < es.length → u.full = true → exec (.mgrpImplicitSwap core) s = .next (s.setArray core
      { u with active := u.shadow, shadow := u.active, full := false, queue := u.queue.set k { o with grp := o.grp + 1, row := 0, swap := false, planes := p } })) ∧
    (o.grp + 1 < es.length → u.full = false → exec (.mgrpImplicitSwap core) s = .next s) ∧
    (es.length ≤ o.grp + 1 → (∀ x ∈ u.queue, x.started = true → x.kind.streamer = true) → ∃ due, exec (.mgrpImplicitSwap core) s = .next (s.setArray core
      { u with active := u.shadow, shadow := u.active, full := false, queue := u.queue.set k { o with grp := o.grp + 1, row := 0, swap := false, due := due, planes := p } })))

/-- R232, R239, R244, R246, R247: a step of the array, of the one operation that runs. MSTR leaves row j of its product due eight steps later, under the PE's passes, and after its last step its flags and its counter have reached its tiller; MCLR clears four rows; MHIST lands its clip and leaves it in HCLIP after its last step. R230, R237, R242, R244 to R246, R248: MLDS fills the shadow plane and its scales 2,048 bytes a step, and leaves it FULL after its last; MGRP streams the rows of a group as MSTR does, and waits for its swap after the last; what is due lands in the accumulator or in the scratchpad, and nothing beside it; MCLR fills two rows a step; and MDRN makes of a row what its descriptor asks: the bits as they stand, or the entry under SCALE and bias, then the PWP table, then the conversion of FMT, whose groups of 48 take the scale of R249. -/
def Obligations.ArraySteps : Prop :=
  ((∀ (core a sa m row0 : Nat) (s : State) (o : ArrOp),
      (s.array core).queue = [o] → Says.sound s o → o.kind = .mstr a sa m row0 → o.due = [] →
      (o.step < m →
        let r := Says.streamed o (s.array core) (s.wg o.wg) a sa o.step (row0 + o.step)
        ((s.arrayStep core).array core).queue = [{ o with step := o.step + 1, flags := o.flags ||| r.2, due := [(o.step + 8, .row (row0 + o.step) r.1)], undo := [] }] ∧
          (s.arrayStep core).wgs = s.wgs ∧ (s.arrayStep core).mem = s.mem) ∧
      (o.step = m + 7 → ∀ (t n : Nat) (d : Option SReg), o.who = .tiller t (some n) d →
        ((s.arrayStep core).array core).queue = [] ∧ ((s.arrayStep core).tiller t).ctr n = (s.tiller t).ctr n - 1 ∧
          ((s.arrayStep core).tiller t).flags = (s.tiller t).flags ||| o.flags ∧ (s.arrayStep core).wgs = s.wgs ∧ (s.arrayStep core).mem = s.mem)) ∧
    (∀ (core row0 count src : Nat) (s : State) (o : ArrOp) (r c : Nat),
      (s.array core).queue = [o] → Says.sound s o → o.kind = .mclr row0 count false src → o.due = [] → c < 256 →
      let w := (s.arrayStep core).wg o.wg
      (row0 + 4 * o.step ≤ r ∧ r < row0 + 4 * (o.step + 1) ∧ r < row0 + count → tget 0 w.acc (256 * r + c) = 0) ∧
      (r < row0 + 4 * o.step ∨ row0 + 4 * (o.step + 1) ≤ r ∨ row0 + count ≤ r → tget 0 w.acc (256 * r + c) = tget 0 (s.wg o.wg).acc (256 * r + c)) ∧ w.bytes = (s.wg o.wg).bytes) ∧
    (∀ (core row0 count q tid : Nat) (d : SReg) (s : State) (o : ArrOp),
      (s.array core).queue = [o] → Says.sound s o → o.kind = .mhist row0 count q → o.step = count + 3 → o.due = [] → o.who = .tiller tid none (some d) → d ≠ 0 →
      let vals := (List.range count).flatMap fun j => (List.range 256).map fun c => tget 0 (s.wg o.wg).acc (256 * (row0 + j) + c)
      let finite := vals.filter fun x => x.toNat / 2 ^ 23 % 256 ≠ 255 ∧ x.toNat % 2 ^ 31 ≠ 0
      let upTo (e : Nat) : Nat := (finite.filter fun x => x.toNat / 2 ^ 23 % 256 ≤ e).length
      let need := max 1 ((min q 1024 * finite.length + 1023) / 1024)
      ∃ clip, ((s.arrayStep core).wg o.wg).hclip = clip ∧ ((s.arrayStep core).tiller tid).rs d = BitVec.ofNat 32 clip ∧ ((s.arrayStep core).array core).queue = [] ∧
        (finite = [] → clip = 254) ∧ (finite ≠ [] → need ≤ upTo clip ∧ ∀ e, e < clip → upTo e < need))) ∧
  ((∀ (core plane ws : Nat) (s : State) (o : ArrOp), (s.array core).queue = [o] → Says.sound s o → o.kind = .mlds plane ws → o.due = [] →
      let (size, scales, _, _, sc) := Says.tileSizes o.cfg
      let bytes := (s.wg o.wg).bytes
      let ne := (size + 2047) / 2048
      let total := ne + if sc = true then (scales + 2047) / 2048 else 0
      let part (n : Nat) : Plane := ⟨readBytes bytes plane (min (2048 * n) size), if sc = true then readBytes bytes ws (min (2048 * (n - ne)) scales) else []⟩
      o.step < total → (s.array core).shadow = part o.step →
      let u := (s.arrayStep core).array core
      u.shadow = part (o.step + 1) ∧ u.active = (s.array core).active ∧ (s.arrayStep core).wgs = s.wgs ∧
      (o.step + 1 < total → u.queue = [{ o with step := o.step + 1, undo := [] }] ∧ u.full = (s.array core).full) ∧
      (o.step + 1 = total → u.queue = [] ∧ u.full = true)) ∧
    (∀ (core tb ts rows arow crow : Nat) (es : List (Nat × Nat × Nat)) (s : State) (o : ArrOp), (s.array core).queue = [o] → Says.sound s o → o.kind = .mgrp tb ts es →
      es[o.grp]? = some (rows, arow, crow) → o.swap = false → o.due = [] →
      (rows = 0 → ((s.arrayStep core).array core).queue = [{ o with step := o.step + 1, swap := true, undo := [] }]) ∧
      (o.row < rows →
        let r := Says.streamed o (s.array core) (s.wg o.wg) tb ts (arow + o.row) (crow + o.row)
        ((s.arrayStep core).array core).queue = [{ o with
          step := o.step + 1, row := o.row + 1, swap := decide (o.row + 1 = rows), flags := o.flags ||| r.2, due := [(o.step + 8, .row (crow + o.row) r.1)], undo := [] }]) ∧
      (s.arrayStep core).wgs = s.wgs ∧ (s.arrayStep core).mem = s.mem) ∧
    (∀ (core : Nat) (s : State) (o : ArrOp) (t : Nat) (n : Option Nat) (d : Option SReg) (x : ArrOut), (s.array core).queue = [o] → Says.sound s o →
      ((∃ a sa m row0, o.kind = .mstr a sa m row0) ∨ (∃ tb ts es, o.kind = .mgrp tb ts es) ∨ ∃ desc, o.kind = .mdrn desc) → o.who = .tiller t n d → o.due = [(o.step, x)] →
      Memory.wf (s.wg o.wg).bytes = true →
      let w := (s.arrayStep core).wg o.wg
      (∀ r vals, x = .row r vals → (∀ c, c < 256 → Says.accEntry w r c = vals.getD c 0) ∧ (∀ i, i / 256 ≠ r → tget 0 w.acc i = tget 0 (s.wg o.wg).acc i) ∧ w.bytes = (s.wg o.wg).bytes) ∧
      (∀ cells, x = .spad cells → (∀ a, readByte w.bytes a = match cells.reverse.find? fun e => e.1 = a with
        | some e => e.2
        | none => readByte (s.wg o.wg).bytes a) ∧ w.acc = (s.wg o.wg).acc)) ∧
    (∀ (core row0 count src : Nat) (s : State) (o : ArrOp), (s.array core).queue = [o] → Says.sound s o → o.kind = .mclr row0 count true src → o.due = [] →
      let w := (s.arrayStep core).wg o.wg
      (∀ j c, j / 2 = o.step → j < count → c < 256 → Says.accEntry w (row0 + j) c = BitVec.ofNat 32 (readNat (s.wg o.wg).bytes (src + 1024 * j + 4 * c) 4)) ∧
      (∀ r c, c < 256 → (r < row0 + 2 * o.step ∨ row0 + 2 * (o.step + 1) ≤ r ∨ row0 + count ≤ r) → Says.accEntry w r c = Says.accEntry (s.wg o.wg) r c) ∧ w.bytes = (s.wg o.wg).bytes) ∧
    (∀ (core : Nat) (desc : List Byte) (s : State) (o : ArrOp), (s.array core).queue = [o] → Says.sound s o → o.kind = .mdrn desc → o.due = [] →
      let w := s.wg o.wg
      let f (k n : Nat) : Nat := natOfBytes ((desc.drop k).take n)
      let bit (k : Nat) : Prop := f 0 4 / 2 ^ k % 2 = 1
      let (fmt, ncols) := (f 0 4 % 16, f 10 2)
      let x (i : Nat) : Nat := (Says.accEntry w (f 4 2 + o.step) (f 8 2 + i)).toNat
      let y (i : Nat) : Nat := if bit 4 then (fp32.fma (x i) (f 32 4) (readNat w.bytes (f 28 4 + 4 * (f 8 2 + i)) 4)).1 else x i
      let z (i : Nat) : Nat := if bit 5 then (pwpEval o.segs (y i)).1 else y i
      let clip := if bit 6 then w.hclip else f 0 4 / 256 % 256
      let (nf, top) : CvtnFmt × Nat := if fmt = 4 then (.e4m3, 8) else if fmt = 5 then (.e5m2, 15) else (.e2m1, 2)
      fmt ≤ 6 → (4 ≤ fmt → ncols % 48 = 0) → o.step < f 6 2 →
      ∃ (out sc : List Byte) (fl : Flags), ((s.arrayStep core).array core).queue = [{ o with
          step := o.step + 1, flags := o.flags ||| fl, undo := []
          due := [(o.step + 8, .spad (Says.bytesFrom (f 12 4 + o.step * f 16 4) out ++ Says.bytesFrom (f 20 4 + o.step * f 24 4) sc))] }] ∧
        (s.arrayStep core).wgs = s.wgs ∧ (s.arrayStep core).mem = s.mem ∧ (fmt = 0 → fl = 0) ∧ (fmt < 4 → sc = []) ∧
        (∀ i, i < ncols →
          let word (n : Nat) : Nat := natOfBytes ((out.drop (n * i)).take n)
          (fmt = 0 → word 4 = x i) ∧ (fmt = 1 → word 4 = if fp32.num (z i) = .nan then fp32.canon else z i) ∧
          (fmt = 2 → word 2 = (cvtOne .ftob .rne (z i)).1) ∧ (fmt = 3 → word 2 = (cvtOne .ftoh .rne (z i)).1) ∧
          (4 ≤ fmt → (if fmt = 6 then (out.getD (i / 2) 0).toNat / 16 ^ (i % 2) % 16 else word 1) = (cvtnOne nf (z i) (sc.getD (i / 48) 0).toNat).1)) ∧
        (∀ h, 4 ≤ fmt → h < ncols / 48 → ∃ g, sc[h]? = some (BitVec.ofNat 8 (min g clip - top)) ∧
          (∀ i, i / 48 = h → z i / 2 ^ 23 % 256 ≠ 255 → z i / 2 ^ 23 % 256 ≤ g) ∧ (g = 0 ∨ ∃ i, i / 48 = h ∧ z i / 2 ^ 23 % 256 ≠ 255 ∧ z i / 2 ^ 23 % 256 = g))))

/-- R297 to R300, R334: FORK puts its chain behind those that wait, with CODE, DETAIL, CIDX and DONE of its header zeroed; where three wait already, the word issues again. KILL takes every chain of the tiller off the engine, the running one and those that wait, are saved or are to be re-forked; it gives their headers CODE 2 and keeps the rest of the headers of those that did not run. STAT reads the engine. A number above 4 makes each of the words illegal with reason 0x08, FORK in handler mode and FORK and KILL of the range walker but by the steward with reason 0x09. That KILL changes CODE alone in the headers of chains that wait, are saved or are to be re-forked is the model's reading (log 58). R298, R301, R306, R317, R318: an idle engine starts the chain that waits first, its release over and its sheaf resident, from its header; a parked chain that is replayed reads its header again and goes on with the command and the place that it names; and a header out of range stops either with CODE 0x11. -/
def Obligations.EnginesAndChains : Prop :=
  ((∀ (p : Bool) (e : BitVec 3) (a b : SReg) (s : State),
      let u := engineUnit (s.cur / 64) e.toNat
      let oa := (s.tl.rs a).toNat
      let ob := (s.tl.rs b).toNat
      let m := (s.wg (Says.own s)).bytes
      let code := (readByte m (oa + 4)).toNat
      (5 ≤ e.toNat → exec (.engFork p e a b) s = .next (Says.illegalHere s 0x08)) ∧
      (e.toNat < 5 → (s.tl.hnd = true ∨ e.toNat = 4 ∧ s.tl.steward = false) → exec (.engFork p e a b) s = .next (Says.illegalHere s 0x09)) ∧
      (e.toNat < 5 → s.tl.hnd = false → (e.toNat = 4 → s.tl.steward = true) → 3 ≤ (s.engine u).waiting.length → exec (.engFork p e a b) s = .next s) ∧
      (e.toNat < 5 → s.tl.hnd = false → (e.toNat = 4 → s.tl.steward = true) → (s.engine u).waiting.length < 3 → oa % 16 = 0 → ob % 16 = 0 →
        oa + 16 ≤ (s.wg (Says.own s)).spad → ob + 16 ≤ (s.wg (Says.own s)).spad → code ≠ 0 → code ≠ 3 → code ≠ 4 → Memory.wf m = true →
        ∃ (s' : State) (c : Chain), exec (.engFork p e a b) s = .next (s'.finish p) ∧ s'.engine u = { s.engine u with waiting := (s.engine u).waiting ++ [c] } ∧
          c.off = oa ∧ c.bar = ob ∧ c.tid = s.cur ∧ c.wg = Says.own s ∧ c.resumed = false ∧ c.park = none ∧
          (let w0 := readNat m oa 4 % 8; c.scope = if 1 ≤ w0 ∧ w0 ≤ 4 then w0 else 1) ∧
          readNat (s'.wg (Says.own s)).bytes (oa + 4) 12 = 0 ∧ (∀ x, x < oa + 4 ∨ oa + 16 ≤ x → readByte (s'.wg (Says.own s)).bytes x = readByte m x) ∧
          s'.tl.s = s.tl.s ∧ s'.tl.v = s.tl.v ∧ s'.tl.m = s.tl.m ∧ s'.tl.a = s.tl.a ∧ s'.tl.flags = s.tl.flags ∧ s'.mem = s.mem)) ∧
    (∀ (p : Bool) (e : BitVec 3) (s : State),
      let u := engineUnit (s.cur / 64) e.toNat
      let g := s.engine u
      let others (l : List Chain) : List Chain := l.filter fun c => c.tid != s.cur
      (5 ≤ e.toNat → exec (.engKill p e) s = .next (Says.illegalHere s 0x08)) ∧
      (e.toNat = 4 → s.tl.steward = false → exec (.engKill p e) s = .next (Says.illegalHere s 0x09)) ∧
      (e.toNat < 5 → (e.toNat = 4 → s.tl.steward = true) → (∀ w c, g.work = some w → g.chain = some c → c.tid = s.cur → w.op < 8) →
        Says.noPiece s u → (∀ i, Memory.wf (s.wg i).bytes = true) →
        ∃ s' : State, exec (.engKill p e) s = .next (s'.finish p) ∧
          (s'.engine u).chain = g.chain.filter (fun c => c.tid != s.cur) ∧ (s'.engine u).waiting ++ (s'.engine u).reforks = others (g.waiting ++ g.reforks) ∧
          (s'.engine u).saved = others g.saved ∧
          (∀ c, g.chain = some c ∨ c ∈ g.waiting ++ g.reforks ++ g.saved → c.tid = s.cur → readByte (s'.wg c.wg).bytes (c.off + 4) = 2 ∧ (s'.engine u).last = 2) ∧
          ((∀ c, g.chain = some c → c.tid ≠ s.cur) → ∀ i x, (∀ c ∈ g.waiting ++ g.reforks ++ g.saved, c.tid = s.cur → c.wg = i → x ≠ c.off + 4) →
            readByte (s'.wg i).bytes x = readByte (s.wg i).bytes x) ∧
          s'.tl.s = s.tl.s ∧ s'.tl.v = s.tl.v ∧ s'.tl.m = s.tl.m ∧ s'.tl.a = s.tl.a ∧ s'.tl.flags = s.tl.flags ∧ s'.mem = s.mem)) ∧
    (∀ (p : Bool) (d : SReg) (e : BitVec 3) (s : State), 5 ≤ e.toNat → exec (.engStat p d e) s = .next (Says.illegalHere s 0x08)) ∧
    (∀ (p : Bool) (d : SReg) (e : BitVec 3) (s : State), e.toNat < 5 →
      let g := s.engine (engineUnit (s.cur / 64) e.toNat)
      let n := g.waiting.length
      exec (.engStat p d e) s = .next ((s.setTl (s.tl.ws d (BitVec.ofNat 32 (match g.chain with
        | some c => c.code + 256 * n + 2048 + (if c.tid = s.cur then 4096 else 0) + 65536 * (c.cidx % 65536)
        | none => g.last + 256 * n)))).finish p))) ∧
  ((∀ (u : Nat) (s : State) (c : Chain) (rest : List Chain), (s.engine u).chain = none → (s.engine u).waiting = c :: rest → tfind s.flights c.rel = none →
      (s.sheaf (c.wg / 4)).st = .resident → (s.cluster (s.sheaf (c.wg / 4)).cluster).held = false →
      let w0 := readNat (s.wg c.wg).bytes c.off 4
      let c1 : Chain := { c with
        scope := w0 % 8, code := 0, detail := 0, park := none, mig := false
        cidx := if c.resumed then readNat (s.wg c.wg).bytes (c.off + 8) 2 else 0, done := if c.resumed then readNat (s.wg c.wg).bytes (c.off + 12) 4 else 0 }
      ∃ more left : List Chain, more ++ left = (s.engine u).reforks ∧ (left ≠ [] → (rest ++ more).length = 3) ∧
      (1 ≤ w0 ∧ w0 ≤ 4 → exec (.chainStart u) s =
        .next (s.setEngine u { s.engine u with chain := some c1, waiting := rest ++ more, reforks := left, work := none, read := none, ready := none, walk := none })) ∧
      (¬(1 ≤ w0 ∧ w0 ≤ 4) → ∃ s' : State, exec (.chainStart u) s = .next s' ∧ (s'.engine u).chain = none ∧ (s'.engine u).last = 0x11 ∧ (s'.engine u).waiting = rest ++ more)) ∧
    (∀ (u : Nat) (s : State) (c : Chain) (page : Nat), (s.engine u).chain = some c → c.park = some page →
      let g := s.engine u
      let w0 := readNat (s.wg c.wg).bytes c.off 4
      let c1 : Chain := { c with
        scope := w0 % 8, code := 0, detail := 0, park := none, mig := false
        cidx := readNat (s.wg c.wg).bytes (c.off + 8) 2, done := readNat (s.wg c.wg).bytes (c.off + 12) 4 }
      (1 ≤ w0 ∧ w0 ≤ 4 → (∀ w, g.work = some w → c1.cidx ≠ c.cidx) →
        exec (.chainReplay u) s = .next (s.setEngine u { g with chain := some c1, work := none, read := none, ready := none, walk := none })) ∧
      (1 ≤ w0 ∧ w0 ≤ 4 → ∀ w, g.work = some w → c1.cidx = c.cidx → c1.done = c.done →
        exec (.chainReplay u) s = .next (s.setEngine u { g with chain := some c1, work := some { w with row := none, sel := none }, read := none, ready := none, walk := none })) ∧
      (1 ≤ w0 ∧ w0 ≤ 4 → ∀ w, g.work = some w → c1.cidx = c.cidx → c1.done ≠ c.done → (c1.done = 0 ∨ w.op = 7) →
        exec (.chainReplay u) s = .next (s.setEngine u { g with chain := some c1, work := some { w with pos := c1.done, row := none, sel := none }, read := none, ready := none, walk := none })) ∧
      (¬(1 ≤ w0 ∧ w0 ≤ 4) → ∃ s' : State, exec (.chainReplay u) s = .next s' ∧ (s'.engine u).chain = none ∧ (s'.engine u).last = 0x11)))

/-- R101 to R105, R111, R221, R303 to R310: a piece of a data command is the longest run within one line of each side and one row, or, into a coded page, within one block and one row; its bytes come from its source as it stands, 0 where a row has none, and go to every destination, where the index list and the tables send them; a reduction's words are added to memory's, as integers or as FP32; with LAND the bytes land; DONE counts the piece, and the last one ends the command; and no other byte of memory or of an allocation changes. A piece that reads or writes a coded block first joins its core's codec queue, and performs when the codec has done with it. The row as the piece of trans and of tgather (log 55), a piece that reads and performs in one step (log 41), and the landing of a coded block's bytes at the chain's barrier alone (log 99) are the model's choices. R105, R221, R303, R305, R311: a piece of select is one segment, from plain or coded pages: its v greatest scores in order, widened to FP32 without a change of value, each with its index, the lower index first of equal ones; then the pairs of an empty place; and the counts of NaNs and of scores delivered; with LAND those land too. A segment that is one piece, read and performed in one step, is the model's choice (log 41). -/
def Obligations.PiecesMove : Prop :=
  (∀ (u : Nat) (s : State) (c : Chain) (w : Work) (x n : Nat) (ref : Nat → LineRef) (words : List (Nat × Access)), Says.atWork s u c w → 1 ≤ w.op → w.op ≤ 6 →
      let len := (Says.rowShape w (c.wg % 4) 0 0).2.1
      let (r, k) := (w.pos / len, w.pos % len)
      let (rows, _, dst, src) := Says.rowShape w (c.wg % 4) r x
      let red := if w.op ≤ 2 then Says.sizeField w.cmd else 0
      let put := (List.range (len - k)).flatMap fun j => dst (k + j)
      let get := (List.range (len - k)).filterMap fun j => src (k + j)
      let into := ((dst k).head?.bind (Says.blockOf ref))
      let reads (b : Nat × Nat) : Prop := ∃ j, j < n ∧ ∃ p q, src (k + j) = some p ∧ Says.blockOf ref p = some q ∧ (q.key.base, q.key.rate) = b
      0 < len → w.pos < rows * len → red ≤ 2 → Says.rowWordIs s c w ref r x words →
      (w.op = 3 ∨ w.op = 4 → ∀ p, src 0 = some p → Says.rangeOk s c (p, len)) →
      Says.mapped s c ref words (Says.globals .engRd get ++ Says.globals (if red = 0 then .engWr else .atomic) put) →
      (∀ e ∈ words ++ Says.globals .engRd get, Says.untouched s (c.tid / 64) (ref (e.1 / 64))) →
      dst 0 ≠ [] → Says.apart c w (Says.landings c w ref (dst k) n) put →
      (red ≠ 0 → s.aftbase % 2 = 0 ∧ w.pos % 4 = 0 ∧ len % 4 = 0 ∧ (∀ j, j < len → ∃ p q, dst j = [.g p] ∧ (ref (p / 64)).coded = false ∧ p % 4 = j % 4 ∧ src j = some q ∧
        match q with
        | .g va => va % 4 = j % 4
        | .s _ o => o % 4 = j % 4)) →
      (∀ q, into = some q → s.crtbase % 2 = 1 → let rec0 := s.crtbase / 4096 * 4096 + 32 * q.crid
        rec0 + 32 ≤ q.key.base ∨ q.key.base + 2 * q.key.rate ≤ rec0) →
      (into = none → Says.longestRun dst src k len n) → (∀ q va, into = some q → dst k = [.g va] → n = min (128 - va % 128) (len - k)) →
      (∀ e, Says.turnOf s u (into.isSome = true ∨ ∃ b, reads b) e → ∃ s' : State, exec e s = .next s' ∧ Says.pieceDone s s' u c w ref x n) ∧
      (into.isSome = true ∨ (∃ b, reads b) → Says.noPiece s u → ∃ (s' : State) (j : CodecJob) (rs ps : List (Nat × Nat)), exec (.pieceWrite u) s = .next s' ∧
        (s'.core (u / 8)).jobs = (s.core (u / 8)).jobs ++ [j] ∧ j.started = false ∧ (∀ b, b ∈ rs ↔ reads b) ∧
        j.kind = .engine u rs (into.toList.map fun q => (q.key.base, q.key.rate)) ps ∧ (n < 128 → ps = into.toList.map fun q => (q.key.base, q.key.rate)) ∧ (128 ≤ n → ps = []) ∧
        (s'.engine u).chain = some c ∧ s'.mem = s.mem ∧ s'.wgs = s.wgs)) ∧
  (∀ (u : Nat) (s : State) (c : Chain) (w : Work) (ref : Nat → LineRef), Says.atWork s u c w → w.op = 7 →
      let f (o n : Nat) : Nat := natOfBytes ((w.desc.drop o).take n)
      let (nk, ty, segs) := (f 20 2, f 22 1, f 23 1)
      let (size, fmt) : Nat × Fmt := if ty = 0 then (4, fp32) else if ty = 1 then (2, fp16) else (2, bf16)
      let bound (g : Nat) : Nat := if segs = 0 then (if g = 0 then 0 else f 16 4) else f (32 + 4 * g) 4
      let (lo, hi) := (bound w.pos, bound (w.pos + 1))
      let src := Says.placeOf (f 0 8) (Says.ssp w.cmd)
      let dst := Says.further (Says.placeOf (f 8 8) (Says.dsp w.cmd)) (8 * nk * w.pos)
      let get := (List.range (size * (hi - lo))).map fun i => Says.further src (size * lo + i)
      let put := (List.range (8 * nk)).map (Says.further dst)
      w.pos < max segs 1 → lo ≤ hi → ty ≤ 2 → Says.mapped s c ref (Says.globals .engWr put) (Says.globals .engRd get) →
      (∀ a ∈ Says.globals .engWr put, ∀ b ∈ Says.globals .engWr put, (ref (a.1 / 64)).pa = (ref (b.1 / 64)).pa → a.1 / 64 = b.1 / 64) →
      (∀ e ∈ Says.globals .engRd get, Says.untouched s (c.tid / 64) (ref (e.1 / 64))) →
      let xs := (List.range (hi - lo)).map fun i => natOfBytes ((List.range size).map fun k => Says.byteAt s c ref (Says.further src (size * (lo + i) + k)))
      let nan := (xs.filter fun x => (fmt.num x).isNan).length
      let v := min nk (xs.length - nan)
      let counts := (List.range 8).map fun i => Spot.s (c.wg % 4) (f 28 4 + 8 * w.pos + i)
      let ls := Says.landings c w ref (match dst with
        | .s _ _ => [dst]
        | .g _ => []) (8 * nk) ++ if w.cmd.flags.getLsbD 6 = true then [(c.wg % 4, 8)] else []
      Says.apart c w ls (put ++ counts) →
      ∀ e, Says.turnOf s u (∃ p ∈ get, (Says.blockOf ref p).isSome = true) e →
      ∃ s' : State, exec e s = .next s' ∧ Says.progressed s' u c (w.pos + 1) (max segs 1) ∧ Says.landed s s' c w ls ∧
        (let cnt := f 28 4 + 8 * w.pos
        (∀ p ∈ put, ∀ o, p = .s (c.wg % 4) o → o < cnt ∨ cnt + 8 ≤ o) →
        readNat (s'.wg c.wg).bytes cnt 4 = nan ∧ readNat (s'.wg c.wg).bytes (cnt + 4) 4 = v ∧
        ∀ t, t < nk →
          let pair (o : Nat) : Nat := natOfBytes ((List.range 4).map fun k => Says.byteAt s' c ref (Says.further dst (8 * t + o + k)))
          (v ≤ t → pair 0 = 0xFF800000 ∧ pair 4 = 0xFFFFFFFF) ∧
          (t < v → ∃ i x, xs[i]? = some x ∧ (fmt.num x).isNan = false ∧ pair 4 = i ∧
            (∃ before : List Nat, before.length = t ∧ before.Nodup ∧ ∀ j, j ∈ before ↔ Says.ranked fmt xs j i) ∧
            (∀ n, fmt.num x = .inf n → fp32.num (pair 0) = .inf n) ∧ (∀ y, Says.ratOf (fmt.num x) = some y → Says.ratOf (fp32.num (pair 0)) = some y ∧ pair 0 / 2 ^ 31 = x / 2 ^ (8 * size - 1)))))

/-- R302 to R310: a data command whose descriptor is aligned and within the allocation, with its fields and its ranges as its rule asks, is under way from its first byte with a copy of its descriptor, and nothing else has changed; a descriptor out of place stops the chain with CODE 0x13, a field out of range with 0x11; and a command waits where the core's line trackers are short of those of a piece (R296). That an unaligned index list of gather is a field out of range, and SEGOFF is checked only where there are segments, is the model's reading (log 54); that the trackers are those of pieces with the codec, and 256 of them a piece's, is its choice (log 41). R302, R311: a select whose fields, ranges and segment table are as R311 asks is under way from its first segment with a copy of its descriptor and its table. That SEGOFF is checked only where there are segments is the model's reading (log 54). -/
def Obligations.DataCommandsStart : Prop :=
  (∀ (i : Instr) (s : State) (c : Chain) (u op size : Nat) (x : Cmd) (zeros fields : Prop),
      Says.dataCommand i s c = some (u, x, op, size, zeros, fields) → (u % 8 = 1 ∨ u % 8 = 2) → zeros → Says.commandDue s u c (Says.ord x) →
      (3840 < s.copyTrackers (u / 8) → exec i s = .next s) ∧
      (s.copyTrackers (u / 8) ≤ 3840 →
      (Says.inOwn s c (c.wg % 4) x.x.toNat size 16 → fields → c.done = 0 →
        (∀ e ∈ Says.dataRanges i c (readBytes (s.wg c.wg).bytes x.x.toNat size), Says.rangeOk s c e) →
        exec i s = .next (s.setEngine u { s.engine u with work := some ⟨op, x, readBytes (s.wg c.wg).bytes x.x.toNat size, 0, none, none⟩ })) ∧
      (Says.inOwn s c (c.wg % 4) x.x.toNat size 16 → ¬fields → exec i s = .next (s.stopChain u 0x11 0)) ∧
      (x.x.toNat % 16 ≠ 0 → exec i s = .next (s.stopChain u 0x13 1)) ∧
      (x.x.toNat % 16 = 0 → (s.wg c.wg).spad < x.x.toNat + size → exec i s = .next (s.stopChain u 0x13 0)))) ∧
  (∀ (u : Nat) (x : Cmd) (s : State) (c : Chain), u % 8 = 3 → x.y = 0 → x.z = 0 → Says.flagsWithin x 0xCF → Says.commandDue s u c (Says.ord x) →
      let o := x.x.toNat
      let f := Says.field s c o
      let (n, k, ty, segs, segoff, cntoff) := (f 16 4, f 20 2, f 22 1, f 23 1, f 24 4, f 28 4)
      let groups := max segs 1
      let size := if ty = 0 then 4 else 2
      let bound (j : Nat) : Nat := Says.field s c segoff (4 * j) 4
      let place (v : Nat) (spad : Bool) : Spot := if spad then .s (v / 2 ^ 32 % 4) (v % 2 ^ 32) else .g v
      Says.inOwn s c (c.wg % 4) o 32 16 → Says.placeOk (f 0 8) (Says.ssp x) → Says.placeOk (f 8 8) (Says.dsp x) → f 8 8 % 8 = 0 → 1 ≤ n → n ≤ 2 ^ 24 → 1 ≤ k → k ≤ 1024 →
      ty ≤ 2 → segs ≤ 64 → (segs ≠ 0 → segoff % 4 = 0) → cntoff % 8 = 0 →
      (x.flags.getLsbD 6 = true → if x.bar = 0xFFFF then Says.rangeOk s c (.s (c.wg % 4) c.bar, 16)
        else Says.rangeOk s c (.s (c.wg % 4) (16 * x.bar.toNat), 16) ∧ (Says.dsp x = true → Says.rangeOk s c (.s (f 12 4 % 4) (16 * x.bar.toNat), 16))) →
      Says.rangeOk s c (place (f 0 8) (Says.ssp x), n * size) → Says.rangeOk s c (place (f 8 8) (Says.dsp x), 8 * k * groups) → Says.rangeOk s c (.s (c.wg % 4) cntoff, 8 * groups) →
      (segs ≠ 0 → Says.rangeOk s c (.s (c.wg % 4) segoff, 4 * (segs + 1)) ∧ (∀ j, j ≤ segs → bound j ≤ n) ∧ ∀ j, j < segs → bound j ≤ bound (j + 1)) →
      let desc := readBytes (s.wg c.wg).bytes o 32 ++ (if segs = 0 then [] else readBytes (s.wg c.wg).bytes segoff (4 * (segs + 1)))
      exec (.select u x) s = .next (s.setEngine u { s.engine u with work := some ⟨7, x, desc, c.done, none, none⟩ }))

/-- R214 to R219, R301, R302, R312: the control commands: loop counts down and jumps, if compares a word, arrive arrives on a barrier object, waitb waits for a phase, with the words it was read with, and acquires, ppt saves the chain where a pre-emption is pending, and end ends it with CODE 1. An arrival makes its release first, at its scope: where that waits for write-backs, the command waits, with the words it was read with. That an arrive whose BAR is 0xFFFF names the chain's offset in the rank it arrives at is the model's reading (log 53). R300, R312, R317: where its sheaf is to be pre-empted, ppt saves its chain with CODE 4, its first resumed command in CIDX, and frees the engine; the engine's CODE is still that of the chain that last ended or stopped (R300). -/
def Obligations.ControlCommands : Prop :=
  (∀ (u : Nat) (x : Cmd) (s : State) (c : Chain), u % 8 < 5 → Says.commandDue s u c True →
      let next (st : State) (k : Nat) : State := st.setEngine u { st.engine u with chain := some { c with cidx := k, done := 0 }, work := none, read := none, ready := none, walk := none }
      let at_ (k : Nat) : Nat := c.off + 16 + 16 * c.cidx + k
      let bar := if x.bar = 0xFFFF then c.bar else 16 * x.bar.toNat
      (x.flags = 0 →
        let z := (if x.z = 0 then max x.y.toNat 1 else x.z.toNat) - 1
        exec (.loop u x) s = .next (next (s.spadWrite c.wg (cellsAt (at_ 12) (bytesOfNat z 4))) (if z = 0 then c.cidx + 1 else x.x.toNat))) ∧
      (x.flags.toNat < 4 → Says.inOwn s c (c.wg % 4) x.x.toNat 4 4 →
        let w := readNat (s.wg c.wg).bytes x.x.toNat 4
        let jump : Prop := match x.flags.toNat with
          | 0 => w = x.y.toNat
          | 1 => w ≠ x.y.toNat
          | 2 => w < x.y.toNat
          | _ => x.y.toNat ≤ w
        (jump → exec (.ifCmd u x) s = .next (next s x.z.toNat)) ∧ (¬jump → exec (.ifCmd u x) s = .next (next s (c.cidx + 1)))) ∧
      (x.flags = 0 → x.x ≠ 0 → exec (.cmdArrive u x) s = .next (s.stopChain u 0x10 0)) ∧
      (x.flags.toNat < 2 → x.y = 0 → x.z = 0 → (x.flags = 0 → x.x = 0) →
        let rank := if x.flags = 1 then x.x.toNat else c.wg % 4
        let sc := if rank = c.wg % 4 then c.scope else max 2 c.scope
        Says.inOwn s c rank bar 16 16 →
        (∀ s0, Says.engReleased s u c sc s0 →
          (∀ s1, s0.arriveAt (4 * (c.wg / 4) + rank) bar sc = some s1 → exec (.cmdArrive u x) s = .next (next s1 (c.cidx + 1))) ∧
          (s0.arriveAt (4 * (c.wg / 4) + rank) bar sc = none → exec (.cmdArrive u x) s = .next (s0.stopChain u 0x17 0))) ∧
        (Says.engReleasing s u c sc → ∃ s' : State, exec (.cmdArrive u x) s = .next s' ∧ Says.waitsRelease s s' u c (.cmdArrive u x))) ∧
      (x.flags.toNat < 2 → x.y = 0 → x.z = 0 → Says.inOwn s c (c.wg % 4) bar 16 16 →
        let past := (readNat (s.wg c.wg).bytes bar 4 + 2 ^ 32 - x.x.toNat) % 2 ^ 32
        (1 ≤ past ∧ past < 2 ^ 31 →
          let s1 := s.acquire (c.tid / 64) ((s.wg c.wg).lScope bar)
          exec (.waitbCmd u x) s = .next (next (if x.flags = 1 then s1.spadWrite c.wg (cellsAt (at_ 4) (bytesOfNat ((x.x.toNat + 1) % 2 ^ 32) 4)) else s1) (c.cidx + 1))) ∧
        (¬(1 ≤ past ∧ past < 2 ^ 31) → ∃ a b d e, decodeCmd u ⟨a, b, d, e⟩ = some (.waitbCmd u x) ∧
          exec (.waitbCmd u x) s = .next (s.setEngine u { s.engine u with read := some (c.cidx, [a, b, d, e]) }))) ∧
      (x.flags = 0 → x.y = 0 → x.z = 0 → exec (.ppt u x) s = .next (next s (c.cidx + 1))) ∧
      (x.flags = 0 → x.x = 0 → x.y = 0 → x.z = 0 → ∃ s' : State, exec (.endCmd u x) s = .next s' ∧ s'.engine u = { s.engine u with chain := none, work := none, read := none, ready := none, walk := none, last := 1 } ∧
        s' = (s.setEngine u (s'.engine u)).writeHeader { c with code := 1, detail := 0 }) ∧
      (x.flags = 1 → x.x = 0 → x.y = 0 → x.z = 0 → Says.inOwn s c (c.wg % 4) bar 16 16 → ∀ s0, Says.engReleased s u c c.scope s0 → ∀ s1, s0.arriveAt c.wg bar c.scope = some s1 →
        ∃ s' : State, exec (.endCmd u x) s = .next s' ∧ (s'.engine u).chain = none ∧ (s'.engine u).last = 1 ∧ s' = (s1.setEngine u (s'.engine u)).writeHeader { c with code := 1, detail := 0 }) ∧
      (x.flags = 1 → x.x = 0 → x.y = 0 → x.z = 0 → Says.inOwn s c (c.wg % 4) bar 16 16 → Says.engReleasing s u c c.scope →
        ∃ s' : State, exec (.endCmd u x) s = .next s' ∧ Says.waitsRelease s s' u c (.endCmd u x))) ∧
  (∀ (u : Nat) (x : Cmd) (s : State) (c : Chain), u % 8 < 5 → (s.engine u).chain = some c → (s.engine u).work = none → c.park = none → (s.sheaf (c.wg / 4)).st = .pending →
      (s.cluster (s.sheaf (c.wg / 4)).cluster).held = false → (∀ o ∈ (s.array (u / 8)).queue, ∀ t sc k b z, o.who ≠ .chain u c.seq t sc k b z) → x.flags = 0 → x.y = 0 → x.z = 0 →
      let c1 : Chain := { c with cidx := x.x.toNat, done := 0, code := 4, detail := 0 }
      ∃ s' : State, exec (.ppt u x) s = .next s' ∧ s'.engine u = { s.engine u with chain := none, work := none, read := none, ready := none, walk := none, saved := (s.engine u).saved ++ [c1] } ∧
        (Memory.wf (s.wg c.wg).bytes = true → readNat (s'.wg c.wg).bytes (c.off + 4) 12 = 4 + 2 ^ 32 * (x.x.toNat % 2 ^ 16)) ∧ s'.mem = s.mem)

/-- R233, R302, R313, R315: an array command of a chain whose workgroup owns the array, with every check passed, enters its operation and is followed by the next; a full queue holds it back after its checks, with the words it was read with, and room lets it enter; and a failed check stops the chain with CODE 0x15 and its KIND. -/
def Obligations.ArrayCommands : Prop :=
  ∀ (i : Instr) (s : State) (c : Chain) (u fl : Nat) (x : Cmd) (chk : ArrCheck) (res : Option Nat) (zeros : Prop),
    Says.arrayCommand i (s.wg c.wg) = some (u, x, chk, res, zeros, fl) → u % 8 = 0 → zeros → Says.flagsWithin x fl →
    let bar := if x.bar = 0xFFFF then c.bar else 16 * x.bar.toNat
    let g := s.engine u
    let full : Prop := 16 ≤ (s.array (u / 8)).queue.length
    let enters (k : ArrKind) : Prop := ∃ s' : State, exec i s = .next s' ∧
      s'.engine u = { g with chain := some { c with cidx := c.cidx + 1, done := 0 }, work := none, read := none, ready := none, walk := none } ∧
      s'.array (u / 8) = { s.array (u / 8) with queue := (s.array (u / 8)).queue ++ [Says.entered1 k (s.wg c.wg).cfg
        (.chain u c.seq c.tid c.scope c.cidx (if x.flags.getLsbD 6 then some bar else none) res) c.wg []] } ∧ s'.tillers = s.tillers ∧ s'.wgs = s.wgs ∧ s'.mem = s.mem
    (Says.commandDue s u c (Says.ord x) → (s.wg c.wg).accRows = 0 → exec i s = .next (s.stopChain u 0x10 0)) ∧
    (Says.commandDue s u c (Says.ord x) → (s.wg c.wg).accRows ≠ 0 → (∀ z, res = some z → Says.inOwn s c (c.wg % 4) z 4 4) →
      (x.flags.getLsbD 6 = true → Says.inOwn s c (c.wg % 4) bar 16 16) →
      (∀ k, chk = .ok k → ¬full → enters k) ∧
      (∀ k, chk = .ok k → full → ∃ a b d e, decodeCmd u ⟨a, b, d, e⟩ = some i ∧
        exec i s = .next (s.setEngine u { g with read := some (c.cidx, [a, b, d, e]), ready := some k })) ∧
      (∀ f, chk = .error f → exec i s = .next (s.stopChain u 0x15 f.kind))) ∧
    (∀ k, g.ready = some k → Says.commandDue (s.setEngine u { g with ready := none }) u c (Says.ord x) → ¬full → enters k)

/-- R106, R295, R314: flush takes the cores in ascending order and sends the dirty lines of the range home, core by core, each core's performing before the next core's are sent, so that the highest core's bytes stand; the lines leave every L1, and at the end the record counts them and the dirty-overlap events. inval drops them unwritten, from the parameter caches too. setattr drops the range's translations and holds its pages; once no access of them is outstanding it writes the dirty lines back as flush does, and then replaces the attribute in every leaf of the range and in no other byte of the leaves. unlock lets go of a held block. Each leaves its record and goes on with the next command. That the descriptor is copied as the command begins (log 57), and BASE and PTROOT are taken modulo 2^52 (log 59), is the model's. -/
def Obligations.WalkerCommands : Prop :=
  ∀ (u : Nat) (x : Cmd) (s : State) (c : Chain), u % 8 = 4 → x.z = 0 → Says.flagsWithin x 0x80 →
    (s.engine u).chain = some c → c.park = none → (s.sheaf (c.wg / 4)).st = .resident → (s.cluster (s.sheaf (c.wg / 4)).cluster).held = false →
    (∀ w, (s.engine u).work = some w → 8 ≤ w.op) → (Says.ord x → ∀ o ∈ (s.array (u / 8)).queue, ∀ t sc k b z, o.who ≠ .chain u c.seq t sc k b z) →
    Says.inOwn s c (c.wg % 4) x.x.toNat 32 16 → Says.inOwn s c (c.wg % 4) x.y.toNat 16 16 →
    let desc := match (s.engine u).work with
      | some w => w.desc
      | none => readBytes (s.wg c.wg).bytes x.x.toNat 32
    let f (o n : Nat) : Nat := natOfBytes ((desc.drop o).take n)
    let base := f 0 8 % 2 ^ 52
    let size := f 8 8
    let root := f 16 8 % 2 ^ 52
    let inside (k : LKey) : Bool := k.within [(base, size)]
    let done (s' : State) (count laps : Nat) : Prop := (s'.engine u).chain = some { c with cidx := c.cidx + 1, done := 0 } ∧ (s'.engine u).work = none ∧ (s'.engine u).walk = none ∧
      (Memory.wf (s.wg c.wg).bytes = true → readNat (s'.wg c.wg).bytes x.y.toNat 4 = count % 2 ^ 32 ∧ readNat (s'.wg c.wg).bytes (x.y.toNat + 4) 4 = laps % 2 ^ 32)
    let now := Says.walked s u
    let cores := s.coresFrom now.core
    f 24 8 / 4 = 0 →
    (size % 64 = 0 → root = 0 →
      (s.flushWaits inside now = true → ∃ s' : State, exec (.flush u x) s = .next s' ∧ (s'.engine u).chain = some c ∧ s'.cores = s.cores ∧ s'.transit = s.transit ∧ s'.mem = s.mem) ∧
      (s.flushWaits inside now = false → ∀ pre n post, cores = pre ++ n :: post → (∀ m ∈ pre, Says.cleanIn s inside m) → (s.core n).dirtyLines inside ≠ [] →
        (∀ l ∈ (s.core n).l1, ∀ l' ∈ (s.core n).l1, l.key = l'.key → l = l') → ∃ s' : State, exec (.flush u x) s = .next s' ∧ Says.sentHome s s' u c inside pre n) ∧
      (s.flushWaits inside now = false → (∀ m ∈ cores, Says.cleanIn s inside m) → ∃ s' : State, exec (.flush u x) s = .next s' ∧ done s' now.count now.laps.length ∧ s'.mem = s.mem ∧
        ∀ m ∈ cores, ∀ l ∈ (s'.core m).l1, inside l.key = false)) ∧
    (size % 64 = 0 → root = 0 → ∃ s' : State, exec (.inval u x) s = .next s' ∧ done s' (s.dirtyCount inside) 0 ∧ s'.mem = s.mem ∧
      ∀ e ∈ s'.cores, (∀ l ∈ e.2.l1, inside l.key = false) ∧ ∀ l ∈ e.2.pcache, inside l.key = false) ∧
    (size = 128 → root = 0 → ∃ s' : State, exec (.unlock u x) s = .next s' ∧
      done s' (if s.blockHeld base then 1 else 0) 0 ∧ s'.blockHeld base = false ∧ s'.mem = s.mem) ∧
    (size % 65536 = 0 →
      let ls := s.leavesOf root base (base + size) (size / 65536 + 1)
      let behind (k : LKey) : Bool := k.within (ls.map fun l => leafSpan l.2.1 l.2.2)
      let gone (s' : State) : Prop := (s.engine u).work = none → ∀ e ∈ s'.cores, (∀ l ∈ e.2.tlb2, TlbEntry.overlaps l root base size = false) ∧ ∀ t ∈ e.2.tlb1, ∀ l ∈ t.2, TlbEntry.overlaps l root base size = false
      let held (s' : State) : Prop := (s.engine u).work = none → (root, base, size) ∈ s'.moving
      let waits : Prop := (s.engine u).walk = none ∧ s.accessPending behind = true
      (waits → ∃ s' : State, exec (.setattr u x) s = .next s' ∧ gone s' ∧ held s' ∧ (s'.engine u).chain = some c ∧ (s'.engine u).work.isSome = true ∧ s'.mem = s.mem) ∧
      (¬waits → s.flushWaits behind now = false → ∀ pre n post, cores = pre ++ n :: post → (∀ m ∈ pre, Says.cleanIn s behind m) → (s.core n).dirtyLines behind ≠ [] →
        (∀ l ∈ (s.core n).l1, ∀ l' ∈ (s.core n).l1, l.key = l'.key → l = l') → ∃ s' : State, exec (.setattr u x) s = .next s' ∧ gone s' ∧ held s' ∧ Says.sentHome s s' u c behind pre n) ∧
      (¬waits → s.flushWaits behind now = false → (∀ m ∈ cores, Says.cleanIn s behind m) →
        ∃ s' : State, exec (.setattr u x) s = .next s' ∧ done s' ls.length now.laps.length ∧ gone s' ∧ ((s.engine u).work = none → ∀ m, s'.moving.count m = s.moving.count m) ∧
        (Memory.wf s.mem = true → (∀ l ∈ ls, l.1 % 8 = 0) → ∀ l ∈ ls, readNat s'.mem l.1 8 = l.2.1.toNat - 16 * (l.2.1.toNat / 16 % 4) + 16 * (f 24 1 % 4))))

/-- R183, R186, R193, R194: a cycle that ends counts one cycle and one of its class, its length passes on the core's clock, and no cycle is open; one that begins forms its class and gives a turn to the tiller of each slot that issues, at most one for each slot, and each of them has a clause under way. What the nanoseconds that have passed bring to its cluster, the refills and the end of a step of its FLL, comes before a cycle begins. That one cycle of one core runs at a time, its issues as turns, is the model's form (log entries 2 and 12). R183 to R185, R188, R189, R196: the floor of a cycle is the greatest class of what is in progress and of the clauses that continue; each slot without one picks among the eligible clauses of its tillers, a late one first, then one within the floor, then one of a tiller that is not demoted, and of those the oldest; and the cycle's class is the greatest of the floor and the picks. A tiller with a clause to issue is eligible unless it is withheld, or deferred: of class 3 and not begun, under a floor below 3, within the window and not released; one that is deferred counts as eligible for its watchdogs (R16, R199), and one that is overdue keeps the time of its withholding while it offers nothing (R197). -/
def Obligations.Cycles : Prop :=
  ((∀ (core cls : Nat) (s : State), (s.core core).openCls = some cls → cls < 4 → (s.core core).tcyc.length = 4 →
      ∃ s' : State, exec (.cycle core) s = .next s' ∧ (s'.core core).cycles = ((s.core core).cycles + 1) % 2 ^ 64 ∧ (s'.core core).openCls = none ∧
        (s'.core core).clock = max (s.core core).clock s.now + Says.cycleLength (s.cluster (core / 4)).cur cls ∧ s'.now = s.now ∧
        lget 0 (s'.core core).tcyc cls = (lget 0 (s.core core).tcyc cls + 1) % 2 ^ 64 ∧ ∀ k, k < 4 → k ≠ cls → lget 0 (s'.core core).tcyc k = lget 0 (s.core core).tcyc k) ∧
    (∀ (core : Nat) (s : State), (s.core core).openCls = none → (s.atCycle core).clusterDue (core / 4) = [] → (s.cluster (core / 4)).ret = false → (s.core core).cont = [] →
      ∃ (s' : State) (l : List (Nat × Nat)) (rest : List Turn), exec (.cycle core) s = .next s' ∧ (s'.core core).openCls.isSome ∧ (s'.core core).cycles = (s.core core).cycles ∧
        s'.turns = l.map (fun e => Turn.tiller e.2) ++ rest ∧ l.length ≤ 4 ∧ l.Pairwise (fun a b => a.1 < b.1) ∧ s'.now = max s.now (s.core core).clock ∧
        ∀ e ∈ l, e.1 < 4 ∧ e.2 / 64 = core ∧ e.2 / 16 % 4 = e.1 ∧ (s'.tiller e.2).run ≠ none) ∧
    (∀ (core : Nat) (s : State), (s.core core).openCls = none → (s.atCycle core).clusterDue (core / 4) = [] → (s.cluster (core / 4)).ret = true →
      ∃ s' : State, exec (.cycle core) s = .next s' ∧ (s'.core core).cycles = (s.core core).cycles ∧ (s'.core core).tcyc = (s.core core).tcyc ∧ (s'.core core).openCls = none) ∧
    (∀ (core : Nat) (s : State), (s.core core).openCls = none →
      let s0 : State := { s with now := max s.now (s.core core).clock }
      let c := s0.cluster (core / 4)
      let due := List.replicate (s0.time - c.refills) (Instr.allowanceRefill (core / 4)) ++ if c.step = true ∧ c.stepEnd ≤ s0.time then [.fllStepComplete (core / 4)] else []
      due ≠ [] → exec (.cycle core) s = .next (s0.pushTurns (due.map Turn.ev)))) ∧
  ((∀ (s : State) (rr floor : Nat) (c : List Offer), c ≠ [] → rr < 16 → ∃ o, s.pick rr floor c = some o ∧
      let late := c.filter fun x => (s.tiller x.tid).late
      Says.isOldest s rr (if late ≠ [] then late else Says.preferred (Says.preferred c fun x => x.cls ≤ floor) fun x => !(s.tiller x.tid).demoted) o) ∧
    (∀ (t : Tiller) (o : Offer) (wh : Bool) (cycles time floor w : Nat),
      let t1 := t.look (some o) wh cycles time floor w
      let since := t.defer.getD cycles
      let deferred : Prop := wh = false ∧ o.cls = 3 ∧ o.begun = false ∧ floor < 3 ∧ t.released = false ∧ cycles < since + w
      (t1.elig = true ↔ wh = false ∧ ¬deferred) ∧ (deferred → t1.defer = some since) ∧ (t1.elig = true → t1.wait = if t.elig then t.wait + 1 else 0) ∧
      (t1.elig = false → t1.wait = 0 ∧ t1.late = false) ∧ (wh = true → t1.withheld = some (t.withheld.getD time)) ∧ (t.look none wh cycles time floor w).elig = false ∧
      (t1.ran = true ↔ wh = false) ∧ (t.look none wh cycles time floor w).ran = false ∧ (t.overdue = true → (t.look none wh cycles time floor w).withheld = t.withheld)) ∧
    (∀ (core : Nat) (s : State), (s.core core).openCls = none → (s.cluster (core / 4)).ret = false → (∀ e ∈ s.tillers, (s.sheaf e.2.sheaf).st ≠ .pending) → s.deferralDue core = false → (s.atCycle core).clusterDue (core / 4) = [] →
      let s0 : State := { s with now := max s.now (s.core core).clock }
      let cont := (s.core core).cont.filter fun e => s0.continues e.2
      let going := cont.map (·.2)
      ∃ (s' s2 : State) (floor cls : Nat) (os : List Offer), exec (.cycle core) s = .next s' ∧ Says.floorIs s core going floor ∧ (s'.core core).openCls = some cls ∧ floor ≤ cls ∧
        (s2, os) = (s0.markRan going).lookAll core (s.core core).cycles floor ((s.tillers.filter fun e => e.2.live && e.1 / 64 == core && !cont.any fun x => x.2 == e.1).map (·.1)) ∧
        (∀ slot t, tfind cont slot = some t → tfind (s'.core core).cont slot = some t) ∧
        (∀ slot, slot < 4 → tfind cont slot = none →
          match s2.pick ((s.core core).rrOf slot) floor (os.filter fun o => o.tid / 16 % 4 == slot) with
          | none => tfind (s'.core core).cont slot = none
          | some o => o.cls ≤ cls ∧ (tfind (s'.core core).cont slot = none ∨ tfind (s'.core core).cont slot = some o.tid)) ∧
        (cls = floor ∨ ∃ slot o, slot < 4 ∧ tfind cont slot = none ∧ s2.pick ((s.core core).rrOf slot) floor (os.filter fun o => o.tid / 16 % 4 == slot) = some o ∧ o.cls = cls)))

/-- R17, R188, R189, R197: after 64 cycles of waiting a clause is late; a tiller withheld for 10,000 ns is overdue; and with the first deferral whose batching window is over, every deferred tiller of the core is released. R199, R346, R372: a watchdog, which counts nanoseconds, that has reached its limit, which is not 0 and stands in microseconds (R346), starts its count again and reports; no tiller and no byte changes. R194, R196, R354: each nanosecond adds to the allowance 1,000 for each unit of the grant, up to 64,000 for each, and moves the withhold level by one, up while the allowance is negative and down while it is at least half full. -/
def Obligations.TimersAndAllowance : Prop :=
  ((∀ (tid : Nat) (s : State), (s.tiller tid).elig = true → 64 ≤ (s.tiller tid).wait + 1 → exec (.clauseLate tid) s = .next (s.setTiller tid { s.tiller tid with late := true })) ∧
    (∀ (tid w : Nat) (s : State), (s.tiller tid).withheld = some w → w + 10000 ≤ s.time → exec (.tillerOverdue tid) s = .next (s.setTiller tid { s.tiller tid with overdue := true })) ∧
    (∀ (core : Nat) (s : State) (e : Nat × Tiller) (d : Nat), e ∈ s.tillers → e.2.live = true → e.1 / 64 = core → e.2.elig = false → e.2.released = false → e.2.defer = some d →
      d + (s.cluster (core / 4)).batchw ≤ (s.core core).cycles →
      ∃ s' : State, exec (.deferralRelease core) s = .next s' ∧ ∀ t, s'.tiller t =
        if t / 64 = core ∧ (s.tiller t).defer.isSome then { s.tiller t with released := true } else s.tiller t)) ∧
  (∀ (i : Nat) (run : Bool) (s : State),
      let h := s.sheaf i
      let r := (s.launch h.launch).pkt.region
      let (n, lim) := if run then (h.run, s.effRunlim r) else (h.stall, s.effStalllim r)
      (h.st = .resident ∨ h.st = .pending ∨ h.st = .saving ∨ h.st = .resuming) → lim ≠ 0 →
      (n < 1000 * lim → exec (.watchdogHang i run) s = .next s) ∧ (1000 * lim ≤ n →
      ∃ (s' : State) (pre rs post : List Turn), exec (.watchdogHang i run) s = .next s' ∧ s'.sheaf i = (if run then { h with run := 0 } else { h with stall := 0 }) ∧
        s'.tillers = s.tillers ∧ s'.mem = s.mem ∧ s.turns = pre ++ post ∧ s'.turns = pre ++ rs ++ post ∧ (∀ t ∈ pre ++ rs, ∃ q bs, t = .record q bs) ∧
        (s.malformed r = false → s.effFdq r ≠ 0 → ∃ bs, Turn.record (s.effFdq r) bs ∈ rs))) ∧
  (∀ (cl : Nat) (s : State),
      let c := s.cluster cl
      let g : Int := s.clusterGrant cl
      let a := min (c.allow + 1000 * g) (64000 * g)
      exec (.allowanceRefill cl) s = .next (s.setCluster cl { c with
        allow := a, refills := c.refills + 1
        wlvl := if s.residents cl = [] then 0 else if a < 0 ∧ c.wlvl < 16 then c.wlvl + 1 else if 32000 * g ≤ a ∧ 0 < c.wlvl then c.wlvl - 1 else c.wlvl }))

/-- R191 to R193: the FLL ends a step when its time is over, and begins the next, from that time on, where the target is not reached; CLKCTL, the voltage-frequency table and the temperature each give a new target, and a step toward it begins; a table that comes during a step waits for its end, and one comes at boot and once in every 24 h of TIME (R376). A target between two points of the FLL is reached at the higher one (log entry 30, the model's choice), and a cap is brought to a point of the FLL between 600 and 2,100 MHz (log entry 10, presumed). R369, R373, R374: a cluster idle for RETIDLE enters retention; it leaves it with 2 µs for each of its cores, and a loss of its state holds it and counts. CLHOLD sets RETIDLE, wakes a retained cluster, and lets a held one go. Whether the state was lost is the event's operand, a free value where the model lists the event (log entry 14, the model's choice). That an empty cluster is idle, and that the 2 µs of an exit pass on the clocks of its cores, is its reading (log entry 71). R198, R369, R377: REQ of BOOSTCTL asks for a boost window, which opens where none has been open for 8 s and closes after 2 s with REQ; writing REQ as 0 closes it at once. -/
def Obligations.FrequencyAndRetention : Prop :=
  ((∀ (cl : Nat) (s : State), (s.cluster cl).step = true → (s.cluster cl).stepEnd ≤ s.time →
      let c := s.cluster cl
      let cap := c.capNext.getD c.cap
      ∃ s' : State, exec (.fllStepComplete cl) s = .next s' ∧ s'.tillers = s.tillers ∧ s'.mem = s.mem ∧
        s'.cluster cl = Says.fllNext { c with cap := cap, capNext := none, tgt := Says.target s cl cap c.base } (if c.up then c.cur + 25 else c.cur) c.stepEnd) ∧
    (∀ (cl : Nat) (v : Word) (s : State), Says.ctlServes s →
      ∃ s' : State, exec (.clkctlWrite cl v) s = .next s' ∧ (s'.cluster cl).base = v.toNat % 64 ∧ (s'.cluster cl).batchw = v.toNat / 256 % 32 ∧
        (s'.cluster cl).tgt = Says.target s cl (s.cluster cl).cap (v.toNat % 64)) ∧
    (∀ (cl mhz : Nat) (s : State), s.time / 86400000000000 < (s.cluster cl).plans → exec (.vfTableReplan cl mhz) s = .next s) ∧
    (∀ (cl mhz : Nat) (s : State), (s.cluster cl).plans ≤ s.time / 86400000000000 → (s.cluster cl).step = true →
      exec (.vfTableReplan cl mhz) s = .next (s.setCluster cl { s.cluster cl with plans := s.time / 86400000000000 + 1, capNext := some (max 600 (25 * (min mhz 2100 / 25))) })) ∧
    (∀ (i : Instr) (cl mhz : Nat) (s : State), i = .vfTableReplan cl mhz ∧ (s.cluster cl).step = false ∧ (s.cluster cl).plans ≤ s.time / 86400000000000 ∨ i = .temperatureChange cl mhz →
      let cap := max 600 (25 * (min mhz 2100 / 25))
      let t := Says.target s cl cap (s.cluster cl).base
      ∃ s' : State, exec i s = .next s' ∧ (s'.cluster cl).cap = cap ∧ (s'.cluster cl).tgt = t ∧
        ((s.cluster cl).step = false → (s.cluster cl).cur < t → (s'.cluster cl).step = true ∧ (s'.cluster cl).up = true ∧ (s'.cluster cl).cur = (s.cluster cl).cur ∧ (s'.cluster cl).stepEnd = s.time + 500) ∧
        ((s.cluster cl).step = false → t + 25 ≤ (s.cluster cl).cur → (s'.cluster cl).step = true ∧ (s'.cluster cl).up = false ∧ (s'.cluster cl).cur = (s.cluster cl).cur - 25 ∧ (s'.cluster cl).stepEnd = s.time + 250))) ∧
  ((∀ (cl : Nat) (s : State), (s.cluster cl).ret = false → (s.cluster cl).retIdle ≠ 0 → s.clusterIdle cl = true → (s.cluster cl).idleSince + 1000 * (s.cluster cl).retIdle ≤ s.time →
      exec (.retentionEntry cl) s = .next (s.setCluster cl { s.cluster cl with ret := true })) ∧
    (∀ (cl : Nat) (lost : Bool) (s : State), (s.cluster cl).ret = true →
      ∃ s' : State, exec (.retentionExit cl lost) s = .next s' ∧ (s'.cluster cl).ret = false ∧ s'.mem = s.mem ∧
        (∀ j, j < 4 → (s'.core (4 * cl + j)).clock = max (s.core (4 * cl + j)).clock s.now + 2000 * ticksPerNs) ∧
        (lost = true → (s'.cluster cl).held = true ∧ (s'.cluster cl).retLoss = ((s.cluster cl).retLoss + 1) % 256) ∧
        (lost = false → (s'.cluster cl).held = (s.cluster cl).held ∧ s'.tillers = s.tillers)) ∧
    (∀ (cl : Nat) (v : Word) (s : State), Says.ctlServes s →
      ((s.cluster cl).held = false → (s.cluster cl).ret = false →
        exec (.clholdWrite cl v) s = .next (s.setCluster cl { s.cluster cl with retIdle := v.toNat / 2 ^ 16 })) ∧
      ((s.cluster cl).held = false → (s.cluster cl).ret = true →
        exec (.clholdWrite cl v) s = .next ((s.setCluster cl { s.cluster cl with retIdle := v.toNat / 2 ^ 16 }).pushTurn (.ev (.retentionExit cl (Config.retentionLoss s.now cl))))) ∧
      ((s.cluster cl).held = true → (s.cluster cl).ret = false → v.toNat % 2 = 0 → Says.rising s.sheaves →
        ∃ s' : State, exec (.clholdWrite cl v) s = .next s' ∧ (s'.cluster cl).held = false ∧ (s'.cluster cl).retIdle = v.toNat / 2 ^ 16 ∧
          ∀ e ∈ s.residents cl, (s'.sheaf e.1).st = .discarded))) ∧
  ((∀ (v : Word) (s : State), Says.ctlServes s →
      (v.toNat % 2 = 1 → exec (.boostctlWrite v) s = .next { s with pkg := { s.pkg with boostReq := true } }) ∧
      (v.toNat % 2 = 0 → s.pkg.boostOpen = true → exec (.boostctlWrite v) s = .next { s with pkg := { s.pkg with boostReq := false, boostOpen := false, boostAt := s.time } }) ∧
      (v.toNat % 2 = 0 → s.pkg.boostOpen = false → exec (.boostctlWrite v) s = .next { s with pkg := { s.pkg with boostReq := false } })) ∧
    (∀ (s : State), s.pkg.boostReq = true → s.pkg.boostOpen = false → s.pkg.boostAt = 0 ∨ s.pkg.boostAt + 8000000000 ≤ s.time →
      exec .boostWindowOpen s = .next { s with pkg := { s.pkg with boostOpen := true, boostAt := s.time } }) ∧
    (∀ (s : State), s.pkg.boostReq = true → s.pkg.boostOpen = false → s.pkg.boostAt ≠ 0 → s.time < s.pkg.boostAt + 8000000000 → exec .boostWindowOpen s = .next s) ∧
    (∀ (s : State), s.pkg.boostOpen = true → s.pkg.boostAt + 2000000000 ≤ s.time →
      exec .boostWindowClose s = .next { s with pkg := { s.pkg with boostOpen := false, boostReq := false, boostAt := s.time } }))

/-- R254, R259, R270, R366: a slice serves its queue one request after the other: the oldest, and of those of one age the next of its source cores in round-robin order; those whose line the host is called back for wait, and a write-back waits for an earlier one of its core (R270). A source's next request reaches the queue unless a change of contract or a call-back detains it. Which reach it together is the event's operand (log entry 3, the model's choice). R252, R254, R264, R265, R269, R279, R280, R281, R283, R294: at a home, a write leaves each of its bytes in memory and no other; a read gives its operation the line's bytes, under what its core's first-level cache holds dirty, once they have come from HBM where the granary does not hold them; each lane of an atomic, in order, replaces its number by the result, and the number it found goes back under the lane. R102, R269, R270, R286, R372: an entry of the multicast buffer leaves 128 slice cycles after it was filled; a line whose byte went dirty 10,000 ns ago is on its way home with its dirty bytes, and holds none: a decoded one as one write-back of its block (log entry 39, the model's choice). An uncorrectable error in a line with dirty bytes drops it and posts a record to its last writer's fault domain; which line meets one is the event's operand (log entry 14, the model's choice). R101 to R106, R111: a decode at the head of the codec, its cycles over, gives each waiting load its half of the block's logical bytes; a write-back's locked sequence leaves the block's backing as R102 makes it, or, struck by an uncorrectable error, leaves memory as it was, its line gone from the cache, and the block held. The job then leaves the codec, its lock is free, and the next may start. A write-back that no access makes and that meets a held block loses its bytes (log entry 45), and both lines of a block go as one sequence, its bytes fixed when it is queued, that performs whole at its end (log entry 39): the model's choices. -/
def Obligations.HomesAndCodec : Prop :=
  ((∀ (sl : Nat) (s : State),
      let free (r : Req) : Prop := (∀ l ∈ s.links, l.snoop = true → l.req.key.base / 64 ≠ r.pa / 64 ∧ l.req.pa / 64 ≠ r.pa / 64) ∧ ¬Says.waitsItsTurn s sl r
      ((∃ r ∈ (s.slice sl).queue, free r) →
        ∃ r ∈ (s.slice sl).queue, free r ∧ (∀ q ∈ (s.slice sl).queue, free q → r.age < q.age ∨ r.age = q.age ∧ Says.after (s.slice sl).rr r.src ≤ Says.after (s.slice sl).rr q.src) ∧
          exec (.homeSliceServe sl []) s = .next (((({ s with fresh := s.fresh + 1 } : State).setSlice sl
            { s.slice sl with queue := (s.slice sl).queue.filter (fun q => decide (q.id ≠ r.id)), rr := r.src }).serveReq r).serveQueue sl ((s.slice sl).queue.length - 1))) ∧
      ((∀ r ∈ (s.slice sl).queue, ¬free r) → exec (.homeSliceServe sl []) s = .next { s with fresh := s.fresh + 1 })) ∧
    (∀ (sl src : Nat) (r : Req) (s : State), (s.transit.find? fun q => decide (q.src = src ∧ s.home q.pa = sl)) = some r → (s.slice sl).queue = [] →
      let stopped : Prop := s.heldRange r.pa = true ∨ ∃ l ∈ s.links, l.snoop = true ∧ (l.req.key.base / 64 = r.pa / 64 ∨ l.req.pa / 64 = r.pa / 64)
      (¬stopped → ¬Says.waitsItsTurn s sl r → ∃ s1 : State, exec (.homeSliceServe sl [src]) s = .next (s1.serveReq { r with age := s.fresh }) ∧
        s1.transit = s.transit.filter (fun q => decide (q.id ≠ r.id)) ∧ (s1.slice sl).queue = [] ∧ s1.mem = s.mem ∧ s1.flights = s.flights) ∧
      (stopped → exec (.homeSliceServe sl [src]) s = .next { s with fresh := s.fresh + 1 }))) ∧
  ((∀ (s : State) (r : Req) (bytes : List (Nat × Byte)) (last : Bool), r.op = .write bytes last → (∀ e ∈ bytes, e.1 < 64) → bytes.Pairwise (fun a b => a.1 ≠ b.1) →
      s.populated r.pa = true → Memory.wf s.mem = true →
      (∀ e ∈ bytes, readByte (s.performReq r).mem (r.pa / 64 * 64 + e.1) = e.2) ∧
      (∀ a, (∀ e ∈ bytes, a ≠ r.pa / 64 * 64 + e.1) → readByte (s.performReq r).mem a = readByte s.mem a)) ∧
    (∀ (s : State) (r : Req) (id : Nat) (q : Part) (inst last : Bool), r.op = .read inst false last → r.flight = some id → Says.waitsFor s id r.key .sent q →
      physKind r.pa = .granary → s.populated r.pa = true →
      Says.served (s.performReq r) id r.key (readBytes s.mem (r.pa / 64 * 64) 64) (s.bad r.pa) ∧ (s.performReq r).mem = s.mem) ∧
    (∀ (s : State) (r : Req) (id : Nat) (q : Part) (inst last : Bool), r.op = .read inst true last → r.flight = some id → Says.waitsFor s id r.key .sent q →
      physKind r.pa = .granary → s.populated r.pa = true → (∀ x ∈ s.links.map (·.req) ++ (s.slice (s.home r.key.base)).queue ++ s.transit, x.src = r.src → x.key ≠ r.key) →
      ∃ data, Says.served (s.performReq r) id r.key data (s.bad r.pa) ∧ data.length = 64 ∧
        (∀ o, o < 64 → lget 0 data o = Says.overWith (s.core r.src) r.key o (readByte s.mem (r.pa / 64 * 64 + o))) ∧ (s.performReq r).mem = s.mem) ∧
    (∀ (s : State) (r : Req) (id d : Nat) (q : Part) (inst last : Bool), r.op = .read inst false last → r.flight = some id → Says.waitsFor s id r.key .sent q →
      physKind r.pa = .hbm d → s.homeContract r.pa = none → s.bankBusy (r.pa / 64 * 64) = false → s.mcastHit (s.home r.pa) (r.pa / 64 * 64) = false →
      let s' := s.performReq r
      (∃ x ∈ (s'.flight id).parts, x.key = r.key ∧ x.st = .bank ∧ x.data = readBytes s.mem (r.pa / 64 * 64) 64 ∧ x.err = s.bad r.pa) ∧
      ⟨r.pa / 64 * 64, true, r.src, none⟩ ∈ (s'.bank (bankOf r.pa)).waiting ∧ s'.mem = s.mem) ∧
    (∀ (s : State) (r : Req) (op : AtomOp) (ty : AtomTy) (cas ret : Bool) (ls : List AtomLane), r.op = .atomic op ty cas ret ls → s.bad r.pa = false → s.populated r.pa = true → s.aftbase % 2 = 0 →
      let s' := s.performReq r
      let e := Says.applied op ty cas s.mem ls
      s'.mem = e.1 ∧
      ∀ id f, r.flight = some id → tfind s.flights id = some f → (∃ d wide, f.kind = .atomic d wide) → (e.2.map (·.1)).Nodup →
        ∃ f', tfind s'.flights id = some f' ∧ (∀ x ∈ e.2, tget 0 f'.olds x.1 = x.2) ∧ ∀ k, k ∉ e.2.map (·.1) → tget 0 f'.olds k = tget 0 f.olds k)) ∧
  ((∀ (sl line : Nat) (s : State), exec (.multicastEntryExpiry sl line) s = .next (s.setSlice sl
      { s.slice sl with mcast := (s.slice sl).mcast.filter fun e => decide (e.1 ≠ line ∨ s.now ≤ e.2 + 640 * ticksPerNs / 7) })) ∧
    (∀ (core k : Nat) (l : L1Line) (s : State), (s.core core).l1[k]? = some l →
      (l.since + 10000 * ticksPerNs ≤ s.now → l.dirtyBytes ≠ [] → (s.core core).l1find l.key = some l →
        ∃ s' : State, exec (.l1WritebackDeadline core ⟨k, false⟩) s = .next s' ∧ s'.mem = s.mem ∧ (∀ x ∈ (s'.core core).l1, x.key = l.key → x.dirtyBytes = []) ∧
          (l.key.rate = 0 → ∃ r ∈ s'.transit, r.key = l.key ∧ r.src = core ∧ r.flight = none ∧ r.pa = l.key.base ∧ r.op = .write l.dirtyBytes false) ∧
          (l.key.rate ≠ 0 → ∃ id, ∃ j ∈ (s'.core core).jobs, j.base = l.key.base ∧ j.rate = l.key.rate ∧ j.crid = l.crid ∧
            j.kind = .write id none (l.dirtyBytes.map (fun e => (e.1 + 64 * l.key.h, e.2)) ++
              (match (s.core core).l1find { l.key with h := 1 - l.key.h } with
              | some o => o.dirtyBytes.map fun e => (e.1 + 64 * o.key.h, e.2)
              | none => [])) l.writer)) ∧
      (s.now < l.since + 10000 * ticksPerNs → exec (.l1WritebackDeadline core ⟨k, false⟩) s = .next s) ∧
      (l.dirtyBytes ≠ [] → exec (.l1WritebackDeadline core ⟨k, true⟩) s =
        .next ((s.setCore core { s.core core with l1 := (s.core core).l1.filter fun x => decide (x.key ≠ l.key) }).postTiller l.writer 0x0003 1 l.key.base)) ∧
      (l.dirtyBytes = [] → exec (.l1WritebackDeadline core ⟨k, true⟩) s = .next s))) ∧
  ((∀ (core id h : Nat) (j : CodecJob) (rest : List CodecJob) (q : Part) (inst ovl last install : Bool) (s : State), Says.jobDone s core j rest → j.kind = .decode [id] install →
      s.blockHeld j.base = false → s.blockBad j.base j.rate = false → Says.waitsFor s id ⟨j.base, h, j.rate⟩ .codec q → q.op = .read inst ovl last → (∀ q' ∈ (s.flight id).parts, q'.key = q.key → q' = q) →
      (∀ l ∈ (s.core core).l1, l.key.base ≠ j.base) → (∀ x ∈ rest, x.base ≠ j.base) →
      ∃ s' : State, exec (.codecDecode core) s = .next s' ∧ Says.served s' id q.key (((bytesOf64s (decodeBlock j.rate (readBytes s.mem j.base (2 * j.rate)))).drop (64 * h)).take 64) false ∧
        s'.mem = s.mem) ∧
    (∀ (core : Nat) (j : CodecJob) (rest : List CodecJob) (s : State), Says.jobDone s core j rest → j.kind = .busy →
      ∃ s' : State, exec (.codecDecode core) s = .next s' ∧ Says.jobLeft s s' core rest ∧ s'.mem = s.mem ∧ s'.flights = s.flights) ∧
    (∀ (core id cause : Nat) (fl : Option Nat) (dirty : List (Nat × Byte)) (err : Bool) (j : CodecJob) (rest : List CodecJob) (s : State), Says.jobDone s core j rest → j.kind = .write id fl dirty cause →
      let told (s' : State) (held : Bool) : Prop := ∀ f g q, fl = some f → tfind s.flights f = some g → g.kind = .store → q ∈ g.parts → q.key.base = j.base → q.key.rate = j.rate →
        ∃ x ∈ (s'.flight f).parts, x.key = q.key ∧ x.st = .done ∧ x.held = held
      (s.blockHeld j.base = false → err = false → (s.blockBad j.base j.rate = false ∨ 128 ≤ dirty.length) → s.crtbase % 2 = 0 →
        ∃ s' : State, exec (.codecWriteBack core err) s = .next s' ∧ s'.mem = Says.writtenBack s.mem j.base j.rate dirty ∧ told s' false) ∧
      (s.blockHeld j.base = false → err = true ∨ dirty.length < 128 ∧ s.blockBad j.base j.rate = true →
        ∃ s' : State, exec (.codecWriteBack core err) s = .next s' ∧ s'.mem = s.mem ∧ j.base ∈ (s'.slice (s.home j.base)).held ∧
          (∀ l ∈ (s'.core core).l1, l.key.base = j.base → l.key.rate ≠ j.rate) ∧
          (s.malformed (s.regionOf cause) = false → s.effFdq (s.regionOf cause) ≠ 0 → Turn.record (s.effFdq (s.regionOf cause))
            { s.recOf cause 0x0004 dirty.length (j.va / 128 * 128) j.base with engine := j.engine }.bytes ∈ s'.turns)) ∧
      (s.blockHeld j.base = true → ∃ s' : State, exec (.codecWriteBack core err) s = .next s' ∧ s'.mem = s.mem ∧
        told s' true ∧ (fl = none → ∀ l ∈ (s'.core core).l1, l.key.base = j.base → l.key.rate ≠ j.rate))))

/-- R264 to R267, R286, R375, R376: a bank admits one waiting request while it holds fewer than 16, the oldest of the next of the sources in turn; it serves its requests in order, each fill giving the operations that have joined it the line, and a read that serves one operation alone giving it to that one; it counts the row it activates, manages refreshes and exchanges rows as the counts ask; and it goes into retry mode with the eighth corrected error of a second, which it leaves 60 s after the last, each change with a record. The row a request activates and the errors met are the event's operands, and the draw of a row an open value (log entries 33, 14 and 6, the model's choices). R372, R375, R376: a scrub that finds an uncorrectable error, or a line that stands under one, leaves the line bad and posts a record to the root; one that corrects an error of an HBM line counts it at the line's bank and its die, and of a granary line at the die. Neither changes a byte. Which line meets an error is the event's operand (log entry 14, the model's choice). -/
def Obligations.BanksAndScrubs : Prop :=
  ((∀ (die k : Nat) (s : State),
      let b := s.bank (2048 * die + k)
      b.waiting ≠ [] → b.queue.length < 16 → ∃ r ∈ b.waiting, (∀ q ∈ b.waiting, Says.after b.last r.src ≤ Says.after b.last q.src) ∧ (b.waiting.find? fun q => decide (q.src = r.src)) = some r ∧
        exec (.hbmAdmit die k) s = .next (s.setBank (2048 * die + k) { b with waiting := b.waiting.erase r, queue := b.queue ++ [r], last := r.src })) ∧
    (∀ (die k : Nat) (s : State), 16 ≤ (s.bank (2048 * die + k)).queue.length → exec (.hbmAdmit die k) s = .next s) ∧
    (∀ (die k row : Nat) (err : Bool) (r : BankReq) (rest : List BankReq) (s : State), k < 2048 →
      let n := 2048 * die + k
      let b := s.bank n
      let d := s.die die
      b.queue = r :: rest → ∃ s' : State, exec (.hbmBankService die k row err) s = .next s' ∧ (s'.bank n).queue = rest ∧ s'.mem = s.mem ∧
        (∀ id q, r.read = true → r.own = some id ∨ r.own = none ∧ s.ownBusy r.line id = false → Says.waitsFor s id q.key .bank q → q.key.rate = 0 → q.pa / 64 * 64 = r.line → (∀ q' ∈ (s.flight id).parts, q'.key = q.key → q' = q) → Says.served s' id q.key q.data q.err) ∧
        (r.read = false → s'.flights = s.flights) ∧
        (d.en = false → (s'.bank n).ctrs = b.ctrs) ∧
        (d.en = true → b.ctrs.length < 16 → (∀ c ∈ b.ctrs, c.row ≠ row) → 2 ≤ d.thresh → (s'.bank n).ctrs = b.ctrs ++ [⟨row, 1, 0⟩]) ∧
        (d.en = true → b.ctrs.length = 16 → (∀ c ∈ b.ctrs, c.row ≠ row) → (s'.bank n).ctrs = (b.ctrs.map fun c => { c with count := c.count - 1 }).filter fun c => decide (c.count ≠ 0)) ∧
        (∀ c pre post, d.en = true → b.ctrs = pre ++ c :: post → c.row = row → (∀ x ∈ pre ++ post, x.row ≠ row) →
          (c.count + 1 < d.thresh → (s'.bank n).ctrs = pre ++ { c with count := c.count + 1 } :: post ∧ (s'.die die).rmcount = d.rmcount) ∧
          (d.thresh ≤ c.count + 1 →
            let trig := (c.trig + 1) % 8
            let swap : Prop := d.swapn ≠ 0 ∧ trig = d.swapn
            let kept := if 64 ≤ b.swaps.length then b.swaps.drop 1 else b.swaps
            (s'.bank n).ctrs = pre ++ { c with count := 0, trig := trig } :: post ∧ (s'.die die).rmcount = d.rmcount + 1 ∧
            (¬swap → (s'.bank n).swaps = b.swaps ∧ (s'.die die).swapcount = d.swapcount) ∧
            (swap → (∃ x, (s'.bank n).swaps = kept ++ [(row, x)] ∧ ∀ e ∈ kept, e.1 ≠ x ∧ e.2 ≠ x) ∧ (s'.die die).swapcount = d.swapcount + (if 64 ≤ b.swaps.length then 2 else 1)))) ∧
        (err = true → tget (0, 0) s'.pkg.corrected die = ((tget (0, 0) s.pkg.corrected die).1, (tget (0, 0) s.pkg.corrected die).2 + 1)) ∧
        (err = true → b.retry = false → (∀ t ∈ b.errs, s.time < t + 1000000000) → ((s'.bank n).retry = true ↔ 7 ≤ b.errs.length)) ∧
        (err = false → (s'.bank n).retry = b.retry)) ∧
    (∀ (s : State), ∃ s' : State, exec .activationCounterReset s = .next s' ∧ ∀ n, s'.bank n = { s.bank n with ctrs := [] }) ∧
    (∀ (die k : Nat) (s : State), k < 2048 →
      let b := s.bank (2048 * die + k)
      b.retry = true → b.retrySince + 60000000000 ≤ s.time →
      exec (.bankRetryLeave die k) s = .next ((s.setBank (2048 * die + k) { b with retry := false, errs := [] }).postRoot 0x000C 0 (die + 2 ^ 16 * (k / 16) + 2 ^ 32 * (k % 16))))) ∧
  (∀ (line : Nat) (s : State),
      (∀ unc, unc = true ∨ s.bad (64 * line) = true → ∃ s' : State, exec (.scrub line unc) s = .next s' ∧ line ∈ s'.badLines ∧ s'.mem = s.mem ∧ s'.banks = s.banks ∧
        (∀ a, s.rootRegion = some a → s.malformed a = false → s.effFdq a ≠ 0 → Turn.record (s.effFdq a) (⟨0x0003, 4, 0xFF, 0, 0, 0, (s.rcb a).id, 0, 64 * line, s.time⟩ : Rec).bytes ∈ s'.turns)) ∧
      (∀ d, s.bad (64 * line) = false → physKind (64 * line) = .hbm d → ∃ s' : State, exec (.scrub line false) s = .next s' ∧ s'.badLines = s.badLines ∧ s'.mem = s.mem ∧
        s.time ∈ (s'.bank (bankOf (64 * line))).errs ∧ (tget (0, 0) s'.pkg.corrected d).2 = (tget (0, 0) s.pkg.corrected d).2 + 1) ∧
      (s.bad (64 * line) = false → physKind (64 * line) = .granary → ∃ s' : State, exec (.scrub line false) s = .next s' ∧ s'.badLines = s.badLines ∧ s'.mem = s.mem ∧
        (tget (0, 0) s'.pkg.corrected (s.home (64 * line) / 512)).1 = (tget (0, 0) s.pkg.corrected (s.home (64 * line) / 512)).1 + 1))

/-- R319 to R322: a walk goes through four tables to a leaf of 64 KiB, or through three to one of 2 MiB, its index at each level the bits of the address that R319 gives; an entry without V is not present, and a store needs WR. A page walk leaves the leaf in the TLBs of the slot and of the core; a page whose attribute a range walker is changing has no translation meanwhile (R295). R323, R324, R327, R328: GO drops the covered entries of every core and notes the accesses translated through them, be it through an entry of a larger page; while one of them has still to perform nothing follows; then GO falls, and the tillers parked on covered pages are to walk again; a tiller that walks again has its word to issue as it stood, and one that has halted at its fault for a pre-emption stays. That accesses to the other pages of a larger page are waited for too is the model's reading (log entry 60). -/
def Obligations.Translation : Prop :=
  ((∀ (s : State) (root t1 t2 t3 t4 va : Nat) (acc : Access),
      let e (t lo n : Nat) : Nat := Says.entryAt s t va lo n
      let at_ (t lo n : Nat) : Prop := Says.readable s (t + 8 * (va / 2 ^ lo % 2 ^ n))
      at_ root 47 9 → Says.pointsTo (e root 47 9) t1 → at_ t1 38 9 → Says.pointsTo (e t1 38 9) t2 → at_ t2 29 9 → Says.pointsTo (e t2 29 9) t3 → at_ t3 21 8 →
      let l3 := e t3 21 8
      let ok (l : Nat) : Prop := l.testBit 6 = false ∧ l.testBit 7 = false ∧ l.testBit 23 = false ∧ (accWrites acc = true → l.testBit 2 = true) ∧ (acc = .fetch → l.testBit 3 = true)
      (l3 % 4 = 3 → ok l3 → l3.testBit 8 = false → l3 / 2 ^ 24 * 4096 % 2 ^ 21 = 0 → s.walk root va acc = .leaf (BitVec.ofNat 64 l3) (2 ^ 21)) ∧
      (l3 % 2 = 0 → s.walk root va acc = .notPresent) ∧
      (Says.pointsTo l3 t4 → at_ t4 16 5 →
        let l4 := e t4 16 5
        (l4 % 4 = 3 → ok l4 → l4.testBit 8 = false → l4 / 2 ^ 24 * 4096 % 2 ^ 16 = 0 → s.walk root va acc = .leaf (BitVec.ofNat 64 l4) (2 ^ 16)) ∧
        (l4 % 2 = 0 → s.walk root va acc = .notPresent) ∧
        (l4 % 4 = 3 → l4.testBit 6 = false → l4.testBit 7 = false → l4.testBit 23 = false → l4.testBit 8 = false → l4 / 2 ^ 24 * 4096 % 2 ^ 16 = 0 →
          accWrites acc = true → l4.testBit 2 = false → s.walk root va acc = .protection))) ∧
    (∀ (core slot root va size : Nat) (acc : Access) (e : DWord) (s : State), s.inMove root va = false → (s.core core).tlbFind slot root va = none → s.walk root va acc = .leaf e size → 0 < size →
      ∃ s' : State, exec (.pageWalk core slot root va acc) s = .next s' ∧ s'.mem = s.mem ∧ (∃ x, (s'.core core).tlbFind slot root va = some x ∧ x.leaf = e ∧ x.size = size) ∧
        ⟨root, va / size * size, size, e⟩ ∈ (s'.core core).tlb2) ∧
    (∀ (core slot root va : Nat) (acc : Access) (s : State), (s.core core).tlbFind slot root va = none → (∀ e size, s.walk root va acc ≠ .leaf e size) →
      ∃ s' : State, exec (.pageWalk core slot root va acc) s = .next s' ∧ s'.mem = s.mem ∧ s'.cores = s.cores) ∧
    (∀ (core slot root va : Nat) (acc : Access) (s : State), (∃ m ∈ s.moving, m.1 = root ∧ m.2.1 ≤ va ∧ va < m.2.1 + m.2.2) → exec (.pageWalk core slot root va acc) s = .next s)) ∧
  ((∀ (s : State), Says.ctlServes s → s.pkg.tlbGo = false → ∃ s' : State, exec .tlbinvGo s = .next s' ∧ s'.pkg.tlbGo = true ∧ s'.mem = s.mem ∧ s'.tillers = s.tillers ∧
      ∀ core, ∀ x ∈ (s.core core).tlb2, 0 < x.size → (x ∈ (s'.core core).tlb2 ↔ ¬∃ page, x.va / 65536 ≤ page ∧ page < (x.va + x.size + 65535) / 65536 ∧ Says.covered s.pkg x.root page)) ∧
    (∀ (s : State) (id page : Nat) (f : Flight) (q : Part), (id, f) ∈ s.flights → q ∈ f.parts → q.st ≠ .done →
      let size := Nat.max 65536 q.page
      Says.covered s.pkg (s.rootOf f.tid) page → q.va / size * size / 65536 ≤ page → page < (q.va / size * size + size + 65535) / 65536 →
      (Says.ctlServes s → s.pkg.tlbGo = false → ∃ s' : State, exec .tlbinvGo s = .next s' ∧ id ∈ s'.pkg.tlbWaits) ∧
      (s.pkg.tlbGo = true → id ∈ s.pkg.tlbWaits → tfind s.flights id = some f → exec .tlbinvComplete s = .next s)) ∧
    (∀ (s : State), s.pkg.tlbGo = true → s.pkg.tlbWaits = [] → ∃ s' : State, exec .tlbinvComplete s = .next s' ∧ s'.pkg.tlbGo = false ∧ s'.mem = s.mem ∧
      ∀ (tid page : Nat) (acc : Access) (mig free : Bool), (∃ t, tfind s.tillers tid = some t) → (s.tiller tid).block = .fault page acc mig free → (s.tiller tid).live = true → Says.covered s.pkg (s.rootOf tid) page →
        (s'.tiller tid).block = .fault page acc mig true ∧ Turn.ev (.translationReplay tid) ∈ s'.turns) ∧
    (∀ (tid page : Nat) (acc : Access) (mig : Bool) (s : State), (s.tiller tid).block = .fault page acc mig true →
      let t := s.tiller tid
      let c := s.core (tid / 64)
      let s1 := s.setCore (tid / 64) { c with faultBuf := c.faultBuf.filter fun x => decide (x ≠ tid) }
      (t.halt = .running → t.step = none →
        let again := t.again || decide (acc ≠ .fetch)
        let s2 := s1.setTiller tid { t with block := .none, step := none, again := again }
        exec (.translationReplay tid) s = .next (if again = true ∧ Turn.tiller tid ∉ s.turns then s2.pushTurn (.tiller tid) else s2)) ∧
      (t.halt = .halted → exec (.translationReplay tid) s = .next s)))

/-- R256 to R259, R262: a write of VALID commits an entry whose checks pass, and else leaves the lowest failing code; clearing it removes the entry; a word of a valid entry but QUOTA and POLICY is not replaced, a QUOTA whose claims do not fit is refused, and a busy entry answers with 8. The change completes with BUSY cleared once no access stands at the old home, nor in a codec that has asked for its lines there, a PINNED range reading as zeros, and a lowered quota leaving no more KV blocks than its limit but those to be retained. -/
def Obligations.ResidencyMap : Prop :=
  (∀ (n : Nat) (v : DWord) (s : State), Says.ctlServes s → (s.res n).change = 0 → (s.res n).valid = false →
    let w := Says.fieldsOf (s.res n) v.toNat
    (∀ code, v.toNat % 2 = 1 → Says.rejects s n w code → (∀ c, c < code → ¬Says.rejects s n w c) → exec (.residencyMapWrite n 0 8 v) s = .next (s.setRes n { w with err := code })) ∧
    (v.toNat % 2 = 1 → (∀ code, ¬Says.rejects s n w code) → ∃ s' : State, exec (.residencyMapWrite n 0 8 v) s = .next s' ∧ s'.res n = { w with valid := true, err := 0, change := 1 } ∧ s'.mem = s.mem) ∧
    (v.toNat % 2 = 0 → exec (.residencyMapWrite n 0 8 v) s = .next (s.setRes n { w with err := 0 })) ∧
    ((s.res n).base < 2 ^ 64 → exec (.residencyMapWrite n 8 8 v) s = .next (s.setRes n { s.res n with base := v.toNat, err := 0 })) ∧
    ((s.res n).size < 2 ^ 64 → exec (.residencyMapWrite n 16 8 v) s = .next (s.setRes n { s.res n with size := v.toNat, err := 0 })) ∧
    ((s.res n).kind ≠ 1 → exec (.residencyMapWrite n 24 4 v) s = .next (s.setRes n { s.res n with quota := v.toNat % 2 ^ 32, err := 0 }))) ∧
  (∀ (n : Nat) (v : DWord) (s : State), Says.ctlServes s → (s.res n).change = 0 → (s.res n).valid = true →
    let e := s.res n
    let q := v.toNat % 2 ^ 32
    (Says.fieldsOf e v.toNat = e → v.toNat % 2 = 0 → (e.policy = 0 ∨ e.kind = 0 ∧ e.policy < 3) →
      ∃ s' : State, exec (.residencyMapWrite n 0 8 v) s = .next s' ∧ s'.res n = { e with valid := false, err := 0, change := 2 } ∧ s'.mem = s.mem) ∧
    exec (.residencyMapWrite n 8 8 v) s = .next (s.setRes n { e with err := 7 }) ∧
    (e.kind ≠ 1 → ¬Says.fit ({ e with quota := q } :: Says.others s n) → exec (.residencyMapWrite n 24 4 v) s = .next (s.setRes n { e with err := 5 })) ∧
    (e.kind ≠ 1 → Says.fit ({ e with quota := q } :: Says.others s n) → exec (.residencyMapWrite n 24 4 v) s = .next (s.setRes n { e with quota := q, err := 0, change := if q < e.quota then 3 else 0 }))) ∧
  (∀ (n off size : Nat) (v : DWord) (s : State), Says.ctlServes s → (s.res n).change ≠ 0 → exec (.residencyMapWrite n off size v) s = .next (s.setRes n { s.res n with err := 8 })) ∧
  (∀ (n : Nat) (s : State),
    let e := s.res n
    let inside (a : Nat) : Prop := e.base ≤ a ∧ a < e.base + e.size
    let waits : Prop := (∃ x ∈ s.slices, ∃ r ∈ x.2.queue, inside r.pa) ∨ (∃ l ∈ s.links, l.snoop = true ∧ inside l.req.pa) ∨ ∃ x ∈ s.cores, ∃ j ∈ x.2.jobs, j.arrivedIn e = true
    (e.change ≠ 3 → waits → exec (.residencyChangeComplete n) s = .next s) ∧
    (¬waits → e.change = 1 ∨ e.change = 2 → ∃ s' : State, exec (.residencyChangeComplete n) s = .next s' ∧ s'.res n = { e with change := 0 } ∧
      (∀ a, e.kind = 1 → inside a → readByte s'.mem a = 0) ∧
      (∀ a, e.kind ≠ 1 ∨ ¬inside a → readByte s'.mem a = readByte s.mem a) ∧
      (∀ x ∈ s'.slices, ∀ w ∈ x.2.watches, ¬inside w.line) ∧
      (e.change = 2 → ∀ x ∈ s'.slices, (∀ l ∈ x.2.cache, l.entry ≠ n) ∧ ∀ b ∈ x.2.kv, b.entry ≠ n)) ∧
    (e.change = 3 → e.kind = 2 → Says.rising s.slices → ∃ s' : State, exec (.residencyChangeComplete n) s = .next s' ∧ s'.res n = { e with change := 0 } ∧ s'.mem = s.mem ∧
      ∀ x ∈ s'.slices, (x.2.kv.filter fun b => decide (b.entry = n)).length ≤ e.quota / (if e.place = 0 then 16384 else if e.place = 1 then 512 else 64) ∨
        ∀ b ∈ x.2.kv, b.entry = n → Says.retained s e b))

/-- R12, R337, R355, R356, R359: a decision places a waiting sheaf that fits: it is resident on the cluster found for it, its launch counts it, and the decision goes on; for one that fits nowhere victims become pre-empt pending, as few as would make it fit; where nothing waits nothing is placed. That a decision which places a sheaf is followed by another, and that victims are compared among the clusters that the candidate may enter, are the model's reading (log entry 66). R12, R213, R351, R356, R357: a sheaf whose tillers have all exited, with nothing outstanding, first makes its closing release, and then retires: its tillers and workgroups are gone, its frame set is free, its launch counts it, and the last sheaf of a launch completes it. That a launch counts its sheaf and completes also where its record no longer translates is the model's choice (log entry 21). R360, R361: the first waiting instance of a graph object is admitted, packet by packet in order; an instance each of whose launches is complete or abandoned leaves. -/
def Obligations.Placement : Prop :=
  ((∀ (s s1 : State) (c : Cand) (cl : Nat) (cores : List (Nat × Nat)) (served : Table Nat), s.candidates (s.launches.map (·.1)) = ([c], s1) → c.sheaf = none →
      served = (s1.served.filter fun e => s1.candRegion c == e.1) →
      let s2 : State := { s1 with served := served }
      s2.findFit c = some (cl, cores) → Says.rising s2.sheaves →
      let i := s2.sheaves.length
      ∃ s' : State, exec .decide s = .next s' ∧ (s'.sheaf i).st = .resident ∧ (s'.sheaf i).launch = c.launch ∧ (s'.sheaf i).index = c.index ∧ (s'.sheaf i).cluster = cl ∧
        (s'.launch c.launch).placed = (s2.launch c.launch).placed + 1 ∧ (s'.cluster cl).reserved = none ∧ s'.turns.head? = some (.ev .decide)) ∧
    (∀ (s s1 : State) (c : Cand) (cl : Nat) (vs : List Nat), s.candidates (s.launches.map (·.1)) = ([c], s1) → c.sheaf = none →
      let s2 : State := { s1 with served := s1.served.filter fun e => s1.candRegion c == e.1 }
      s2.findFit c = none → s2.victims c = some (cl, vs) → s2.sheaves.map (·.1) = List.range s2.sheaves.length →
      ∃ s' : State, exec .decide s = .next s' ∧ (s'.cluster cl).reserved = some s2.sheaves.length ∧ (s'.sheaf s2.sheaves.length).st = .waiting ∧
        (s'.sheaf s2.sheaves.length).launch = c.launch ∧ (s'.sheaf s2.sheaves.length).index = c.index ∧ ∀ v ∈ vs, (s'.sheaf v).st = .pending) ∧
    (∀ (s : State) (c : Cand) (cl : Nat) (vs : List Nat), s.victims c = some (cl, vs) →
      let prio := s.effPrio (s.candRegion c)
      let spare (xs : List (Nat × Sheaf)) : Prop := ∀ e ∈ xs, (xs.filter fun x => decide (x.2.launch = e.2.launch)).length ≤ (s.launch e.2.launch).free.length
      (∃ xs : List (Nat × Sheaf), vs = xs.map (·.1) ∧ xs ≠ [] ∧ spare xs ∧ (∀ e ∈ xs, e ∈ s.sheaves ∧ e.2.cluster = cl ∧ Says.victimOk s prio e)) ∧ (s.fits c.launch cl vs).isSome = true ∧
      ∀ (cl' : Nat) (ys : List (Nat × Sheaf)), cl' < 64 → s.unreserved c cl' = true → ys ≠ [] → ys.Sublist (s.victimsOf prio cl') → spare ys → (s.fits c.launch cl' (ys.map (·.1))).isSome = true →
        vs.length ≤ ys.length) ∧
    (∀ (s s1 : State), s.candidates (s.launches.map (·.1)) = ([], s1) → exec .decide s = .next { s1 with served := [] })) ∧
  (∀ (i : Nat) (s : State), Says.mayEnd s i → Says.rising s.sheaves →
      let h := s.sheaf i
      let l := s.launch h.launch
      (h.closing = false → ∃ s' : State, exec (.sheafRetire i) s = .next s' ∧ s'.sheaf i = { h with closing := true } ∧ s'.mem = s.mem ∧ s'.tillers = s.tillers ∧ s'.launches = s.launches) ∧
      (h.closing = true → h.frameSet = none → ∃ s' : State, exec (.sheafRetire i) s = .next s' ∧ (s'.sheaf i).st = .retired ∧ (s'.sheaf i).tids = [] ∧
        (∀ e ∈ h.tids, (s'.tiller e.2).live = false) ∧ (∀ r, r < 4 → tfind s'.wgs (4 * i + r) = none) ∧ (s'.launch h.launch).retired = l.retired + 1 ∧
        (s'.launch h.launch).status = (if l.status = 1 ∧ l.retired + 1 = l.pkt.gx * l.pkt.gy * l.pkt.gz then 2 else l.status)) ∧
      (∀ j, h.closing = true → h.frameSet = some j → ∃ s' : State, exec (.sheafRetire i) s = .next s' ∧ (s'.sheaf i).st = .retired ∧ (s'.sheaf i).frameSet = none ∧ j ∈ (s'.launch h.launch).free)) ∧
  (∀ (g : Nat) (s : State) (x : GraphInst), tfind s.graphs g = some x →
      (x.running = true → (∀ l ∈ x.launches, 2 ≤ (s.launch l).status) → ∃ s' : State, exec (.graphInstanceAdmit g) s = .next s' ∧ s'.graphs = tdel s.graphs g ∧ s'.launches = s.launches) ∧
      (x.running = false → ((s.instances x.obj x.root).head?.map (·.1)) = some g → x.pkts = [] →
        ∃ s' : State, exec (.graphInstanceAdmit g) s = .next s' ∧ tfind s'.graphs g = some { x with running := true, launches := [] }) ∧
      (x.running = false → ((s.instances x.obj x.root).head?.map (·.1)) = some g → ∀ d s1, x.pkts = [d] → s.admitPacket x.issuer d (some g) = (1, s1) →
        ∃ s' : State, exec (.graphInstanceAdmit g) s = .next s' ∧ tfind s'.graphs g = some { x with running := true, launches := [s.launches.length] } ∧ s'.launches = s1.launches))

/-- R337 to R342: a sheaf that is to be pre-empted, with every tiller halted, every chain quiescent and nothing outstanding, first makes its closing release; then every tiller that has not exited enters its pre-empt vector, its part of its frame and its workgroup's frame stored as R340 and R341 lay them out. CTXDONE in that handler, with nothing of its own outstanding, leaves the tiller issuing nothing, and with the last of them the sheaf ceases to be resident; with something outstanding it waits; elsewhere it is illegal. HND is 0 in the frame, the frames must translate, an entry of the chain list has the places given here, and the list holds the first 16 chains in fork order (log entries 25, 27, 28 and 81, the model's choices and readings). R317, R341, R344, R356: a saved sheaf is placed again with its tillers at RESUMEV in handler mode, their specials and PC slots as the first 64 bytes of their frames stand in memory; once every tiller of a sheaf that resumes has executed its RTE, its workgroups stand as their frames give them, the tillers go on, the sheaf is resident, and its frame set is free. A sheaf whose frames do not translate or cannot be read waits (log entry 25, the model's choice), and the places of a chain-list entry are the model's (log entry 28). -/
def Obligations.Preemption : Prop :=
  ((∀ (i j : Nat) (s : State),
      let h := s.sheaf i
      let p := (s.launch h.launch).pkt
      let ts := Says.live s i
      h.frameSet = some j → h.st = .pending → (s.cluster h.cluster).held = false → ts ≠ [] → (∀ t ∈ ts, (s.tiller t).halt = .halted) → s.sheafQuiet i = true →
      (∀ e ∈ s.engines, ∀ c, e.2.chain = some c → c.wg / 4 = i → c.park ≠ none) →
      (h.closing = false → ∃ s' : State, exec (.preemptSave i) s = .next s' ∧ (s'.sheaf i).closing = true ∧ (s'.sheaf i).st = .pending ∧ s'.mem = s.mem) ∧
      (h.closing = true → s.saveReady i j = true → (∀ t ∈ ts, (s.tiller t).count = 0) → ts.Nodup → (∀ e ∈ s.slices, e.2.watches = []) → ∃ s' : State, exec (.preemptSave i) s = .next s' ∧ (s'.sheaf i).st = .saving ∧
        (∀ t ∈ ts, Says.saved s s' i j t) ∧
        s'.mem = (Says.storeWgFrames p (s.effRoot p.region) i j (Says.storeFrames s' p j s ts) (List.range p.wg)).mem)) ∧
    (∀ (p : Bool) (s : State), s.tl.hnd = false ∨ s.tl.tcause.toNat % 256 ≠ 0x11 → exec (.sysCtxdone p) s = .next (Says.illegalHere s 0x09)) ∧
    (∀ (p : Bool) (s : State), s.tl.hnd = true → s.tl.tcause.toNat % 256 = 0x11 →
      let i := s.tl.sheaf
      let done := (s.setTl { s.tl with halt := .ctxdone }).finish p
      let idle : Prop := (∀ e ∈ s.tl.a, e.1 < 16 → e.2 = 0) ∧ s.tl.pend = [] ∧ ∀ o ∈ (s.array (s.cur / 64)).queue, ∀ c d, o.who ≠ .tiller s.cur c d
      (¬idle → ∀ r, s.tl.run = some r → exec (.sysCtxdone p) s = .next (s.setTl { s.tl with again := true, gapEnd := if s.tl.again = true then s.tl.gapEnd else (s.core (s.cur / 64)).cycles + 1 + Says.gap r })) ∧
      (idle → (s.sheaf i).st ≠ .saving → exec (.sysCtxdone p) s = .next done) ∧
      (∀ t, idle → t ∈ Says.live s i → t ≠ s.cur → (s.tiller t).halt ≠ .ctxdone → exec (.sysCtxdone p) s = .next done) ∧
      (idle → (s.sheaf i).st = .saving → s.cur ∈ Says.live s i → (∀ t ∈ Says.live s i, t ≠ s.cur → (s.tiller t).halt = .ctxdone) →
        ∃ s' : State, exec (.sysCtxdone p) s = .next s' ∧ (s'.sheaf i).st = .saved ∧ (s'.sheaf i).tids = [] ∧ (s'.sheaf i).frameSet = (s.sheaf i).frameSet ∧
          (s'.sheaf i).run = (s.sheaf i).run ∧ (s'.sheaf i).stall = (s.sheaf i).stall ∧
          (∀ e ∈ (s.sheaf i).tids, (s'.tiller e.2).live = false) ∧ (∀ r, r < 4 → tfind s'.wgs (4 * i + r) = none) ∧ s'.mem = s.mem ∧ s'.turns.head? = some (.ev .decide)))) ∧
  ((∀ (i j : Nat) (s s1 : State),
      let h := s.sheaf i
      let p := (s.launch h.launch).pkt
      let live := Says.live s i
      h.frameSet = some j → h.st = .resuming → live ≠ [] → (∀ t ∈ live, (s.tiller t).halt = .waiting) → s.restoreWgs i j (List.range p.wg) = some s1 →
      ∃ s' : State, exec (.resumeRelease i) s = .next s' ∧ (s'.sheaf i).st = .resident ∧ (s'.sheaf i).frameSet = none ∧ s'.wgs = s1.wgs ∧ s'.engines = s1.engines ∧ s'.mem = s.mem ∧
        (s'.launch h.launch).free = insertFree j (s.launch h.launch).free ∧ (∀ t ∈ live, s'.tiller t = { s.tiller t with halt := .running }) ∧
        (p.wg = 1 →
          let w := s.wg (4 * i)
          let w' := s'.wg (4 * i)
          ∀ lo img, s.vread (s.effRoot p.region) (p.wgFrame j 0) (0x800 + w.spad / 4) (w.spad / 256 + 34) = some lo → s.vread (s.effRoot p.region) (p.wgFrame j 0 + 0x30800) w.spad (w.spad / 64 + 2) = some img →
          let n (o k : Nat) : Nat := natOfBytes ((lo.drop o).take k)
          let f (o : Nat) : Word := BitVec.ofNat 32 (n o 4)
          (∀ o, o < img.length → readByte w'.bytes o = lget 0 img o) ∧ w'.cfg = f 0 ∧ w'.hclip = n 4 4 % 256 ∧
            (1 ≤ n 8 4 → n 8 4 ≤ 64 → w'.segs = (List.range (n 8 4)).map fun k => ⟨f (0x200 + 20 * k), f (0x204 + 20 * k), f (0x208 + 20 * k), f (0x20C + 20 * k), f (0x210 + 20 * k)⟩) ∧
            ∀ k, k < w.spad / 16 → w'.pScope (16 * k) = n (0x800 + 4 * k) 4 % 8 ∧ w'.lScope (16 * k) = n (0x800 + 4 * k) 4 / 8 % 8)) ∧
    (∀ (s s1 : State) (c : Cand) (i cl core s0 : Nat) (served : Table Nat) (bs : List Byte), s.candidates (s.launches.map (·.1)) = ([c], s1) → c.sheaf = some i →
      served = (s1.served.filter fun e => s1.candRegion c == e.1) →
      let s2 : State := { s1 with served := served }
      let h := s2.sheaf i
      let p := (s2.launch h.launch).pkt
      let frame := p.tillerFrame (h.frameSet.getD 0) 0 0
      s2.findFit c = some (cl, [(core, s0)]) → h.st = .saved → h.tids = [] → h.launch = c.launch → p.tillers = 1 → (tget Tiller.blank h.kept 0).exited = false → s2.frameHead p (h.frameSet.getD 0) 0 0 = some bs →
      ∃ s' tid, exec .decide s = .next s' ∧ (s'.sheaf i).st = .resuming ∧ (s'.sheaf i).cluster = cl ∧ (s'.sheaf i).tids = [(0, tid)] ∧
        let t := s'.tiller tid
        let w (o : Nat) : Word := BitVec.ofNat 32 (natOfBytes ((bs.drop o).take 4))
        t.live = true ∧ t.halt = .resuming ∧ t.hnd = true ∧ t.hpc = w 0x34 ∧ t.resumev = w 0x34 ∧ t.tcause.toNat % 256 = 0x12 ∧ t.tpc = w 0 ∧ t.flags = (w 4).extractLsb' 0 7 ∧
          t.widx = (w 4).toNat / 2 ^ 8 % 16 ∧ t.cln = (w 4).toNat / 2 ^ 12 % 16 ∧ t.clk = (w 4).toNat / 2 ^ 16 % 4 ∧ t.rslot = (w 4).getLsbD 18 ∧ t.repcnt = (w 12).toNat ∧
          t.slotA.mask = w 0x18 ∧ t.slotB.mask = w 0x1C ∧ (t.rs 60).toNat = frame % 2 ^ 32 ∧ (t.rs 61).toNat = frame / 2 ^ 32 % 2 ^ 32 ∧ ∀ r : SReg, r.toNat < 60 → t.rs r = 0))

/-- R191, R268, R323, R366, R368, R369, R371: a write of the host to the control space, aligned and of 4 or 8 bytes, replaces the register at its offset within the bits it has; one of another size or out of line, or to any register but the attestation area after a failed boot, changes nothing. R362, R371, R376: the attestation report gives the nonce and the firmware's version, and answers; a package reset checks the firmware's image and then the steward's, and leaves every register but memory as reset gives it, with ERR, SVN and STAGE as the boot ends, the steward alone placed; and the telemetry block of a die carries its values and its counts of corrected errors under a sequence number one higher. A package reset keeps memory, the fused minimum of SVN is its operand, the bytes of a report that the images fix are left free, and of several failures of an image the lowest counts (log entries 31, 5 and 90, the model's choices). That the steward is placed through the checks of LAUNCH, STAGE staying 1 where it fails them or does not fit, is log entry 69, and that a TELEMETRY_WRITE with other counts does nothing is log entry 14, both the model's. -/
def Obligations.HostRegisters : Prop :=
  ((∀ (off size : Nat) (v : DWord) (s : State), ¬(size = 4 ∨ size = 8) ∨ off % size ≠ 0 ∨ s.pkg.err ≠ 0 ∧ (off < 0x70000 ∨ 0x80000 ≤ off) → exec (.controlRegisterWrite off size v) s = .next s) ∧
    (∀ (v : DWord) (s : State), Says.ctlServes s →
      let w := v.toNat
      let wr (off size : Nat) : Result State := exec (.controlRegisterWrite off size v) s
      wr 0x1000 8 = .next { s with crtbase := w % 2 + 4096 * (w / 4096 % 2 ^ 40) } ∧
      wr 0x1008 8 = .next { s with aftbase := w % 2 + 4096 * (w / 4096 % 2 ^ 40) } ∧
      wr 0x1010 8 = .next { s with kvepoch := w % 2 ^ 32 } ∧
      (s.pkg.tlbGo = false → wr 0x20000 8 = .next { s with pkg := { s.pkg with tlbVpn := w % 2 ^ 40 } }) ∧
      (s.pkg.tlbGo = false → wr 0x20008 8 = .next { s with pkg := { s.pkg with tlbRoot := 4096 * (w / 4096 % 2 ^ 40) } }) ∧
      (s.pkg.tlbGo = false → w.testBit 32 = true → wr 0x20010 8 = .next { s with pkg := { s.pkg with tlbCount := w % 2 ^ 32 }, turns := .ev .tlbinvGo :: s.turns }) ∧
      (∀ d, d < 32 → wr (0x40000 + 64 * d) 8 = .next { s with dies := tput s.dies d { s.die d with en := w.testBit 0, blast := w / 2 % 4, thresh := w / 16 % 4096, swapn := w / 65536 % 16 } }) ∧
      (∀ k, k < 16 → ∃ s' : State, wr (0x50000 + 8 * k) 8 = .next s' ∧ ∀ j, j < 4 → tget 0xFFFF s'.pkg.sfmap (4 * k + j) = w / 2 ^ (16 * j) % 2 ^ 16) ∧
      (∀ k, k < 4 → ∃ s' : State, wr (0x70000 + 8 * k) 8 = .next s' ∧ ∀ j, j < 8 → lget 0 s'.pkg.nonce (8 * k + j) = BitVec.ofNat 8 (w / 2 ^ (8 * j))))) ∧
  ((∀ (nonce : List Byte) (s : State), ∃ s' : State, exec (.attestationRequest nonce) s = .next s' ∧ s'.pkg.attBusy = false ∧ s'.pkg.report.length = 192 + 3373 ∧
      (∀ k, k < 32 → lget 0 s'.pkg.report k = lget 0 nonce k) ∧ (∀ k, k < 8 → lget 0 s'.pkg.report (48 + k) = BitVec.ofNat 8 (s.pkg.svn % 2 ^ 16 / 256 ^ k)) ∧ s'.mem = s.mem ∧ s'.tillers = s.tillers) ∧
    (∀ (firmware steward : BootImage) (f pkt code : Nat) (s : State),
      let svn := firmware.svn.toNat
      let boot (err svn stage : Nat) : State := { State.reset with
        mem := s.mem, badLines := s.badLines, pkg := { Pkg.reset with err := err, svn := svn, stage := stage } }
      (Says.bootCode firmware f code → exec (.packageReset firmware steward f pkt) s = .next (boot code 0 0)) ∧
      (Says.accepted firmware f → Says.bootCode steward f code → exec (.packageReset firmware steward f pkt) s = .next (boot code svn 1)) ∧
      (Says.accepted firmware f → Says.accepted steward f → ∃ s' : State, exec (.packageReset firmware steward f pkt) s = .next s' ∧ s'.pkg.err = 0 ∧ s'.pkg.svn = svn ∧
        (s'.sheaves = [] → s' = boot 0 svn 1) ∧ (s'.sheaves ≠ [] → s'.pkg.stage = 2 ∧ ∀ e ∈ s'.tillers, e.2.live = true → e.2.steward = true))) ∧
    (∀ (die : Nat) (temp : BitVec 16) (p0 p1 : Word) (s : State), die < 32 → Memory.wf s.pkg.telem = true →
      let e := tget (0, 0) s.pkg.corrected die
      (∀ g h, (g, h) ≠ (e.1 % 2 ^ 64, e.2 % 2 ^ 64) → exec (.telemetryWrite die temp p0 p1 g h) s = .next s) ∧
      ∃ s' : State, exec (.telemetryWrite die temp p0 p1 (e.1 % 2 ^ 64) (e.2 % 2 ^ 64)) s = .next s' ∧
        let n (o k : Nat) : Nat := readNat s'.pkg.telem (2048 * die + o) k
        n 0 8 = (readNat s.pkg.telem (2048 * die) 8 + 1) % 2 ^ 64 ∧ n 8 2 = temp.toNat ∧ n 12 4 = p0.toNat ∧ n 16 4 = p1.toNat ∧
        n 24 8 = e.1 % 2 ^ 64 ∧ n 32 8 = e.2 % 2 ^ 64 ∧ s'.mem = s.mem))

/-- R254, R364, R365, R366, R367, R369: an access of the host or of a peer over a link that is up makes a request for each of its lines; over a link that is down it makes none. A link goes up or down; a request that waits at a link that goes down ends in an uncorrectable error; an answer gives its operation the line's bytes, and a peer link counts the flits it has sent again; the host's answer to a call-back lets the access that waited for it perform. A read from outside brings its source the line's bytes, which the host's filter then lists, or zeros, counted, where nothing stands. That the waiting requests of a link that goes down end in an uncorrectable error is the model's choice (log entry 32), as are the last answer to a source kept in the package (log entry 70) and the bytes of an answer and its count of replays as operands (log entry 20). R271, R370: a snoop of the host sends the dirty bytes of its line home from every first-level cache that holds it with HOST attribute, and, where the host writes, leaves no copy; a message that is pending is sent when its vector is unmasked. -/
def Obligations.HostTraffic : Prop :=
  ((∀ (i : Instr) (who addr len : Nat) (wr : Option (List Byte)) (up : Bool) (s : State),
      (i = .hostCxlMemAccess addr len wr ∧ who = 0 ∧ up = s.pkg.hostUp ∨ ∃ j, i = .peerAccess j addr len wr ∧ who = 1 + j ∧ up = tget false s.pkg.peerUp j) →
      (up = true → 0 < len → addr + len ≤ 0x21000000000 → ∃ (s' : State) (rs : List Req), exec i s = .next s' ∧ s'.transit = s.transit ++ rs ∧ Says.outer who addr len wr rs ∧ s'.mem = s.mem) ∧
      (up = false → exec i s = .next s)) ∧
    (∀ (s : State), exec (.linkStateChange 0 true) s = .next { s with pkg := { s.pkg with hostUp := true } }) ∧
    (∀ (j : Nat) (s : State), j < 12 → exec (.linkStateChange (j + 1) true) s = .next { s with pkg := { s.pkg with peerUp := tput s.pkg.peerUp j true } }) ∧
    (∀ (s : State) (r : Req) (id : Nat) (q : Part), s.links = [⟨r, false⟩] → physKind r.pa = .host → r.flight = some id → Says.waitsFor s id r.key .sent q →
      (∃ s' : State, exec (.linkStateChange 0 false) s = .next s' ∧ s'.pkg = { s.pkg with hostUp := false } ∧ s'.links = [] ∧ Says.served s' id r.key (List.replicate 64 0) true ∧ s'.mem = s.mem) ∧
      (∀ (data : List Byte) (inst last : Bool) (n : Nat), r.op = .read inst false last → data.length = 64 → r.pa % 64 = 0 → s.bad r.pa = false → Memory.wf s.mem = true →
        ∃ s' : State, exec (.linkResponse r.id ⟨data, n⟩) s = .next s' ∧ s'.links = [] ∧ Says.served s' id r.key data false)) ∧
    (∀ (s : State) (r : Req) (j n : Nat) (data : List Byte) (inst ovl last : Bool), s.links = [⟨r, false⟩] → physKind r.pa = .peer j → r.op = .read inst ovl last →
      ∃ s' : State, exec (.linkResponse r.id ⟨data, n⟩) s = .next s' ∧ s'.links = [] ∧ tget 0 s'.pkg.peerReplay j = (tget 0 s.pkg.peerReplay j + n) % 2 ^ 32) ∧
    (∀ (s : State) (r : Req) (bytes : List (Nat × Byte)) (last : Bool) (n : Nat), s.links = [⟨r, true⟩] → r.op = .write bytes last → bytes ≠ [] →
      exec (.linkResponse r.id ⟨[], n⟩) s = .next (({ s with links := [] } : State).performReq { r with key := ⟨r.pa / 64 * 64, 0, 0⟩ })) ∧
    (∀ (s : State) (r : Req) (install ovl last : Bool), r.src = 256 → r.tid = 0 → r.flight = none → r.op = .read install ovl last →
      let line := r.pa / 64 * 64
      let part := s.partOf r.pa
      (s.populated r.pa = false → s.homeContract r.pa = none →
        s.serveReq r = { s with pkg := { s.pkg with hostErr := s.pkg.hostErr + 1, answers := tput s.pkg.answers 0 (line, List.replicate 64 0) } }) ∧
      (s.populated r.pa = true → (∀ e ∈ s.cores, (s.core e.1).l1find ⟨line, 0, 0⟩ = none) → (∀ q, q ∈ s.transit ∨ q ∈ (s.slice (s.home line)).queue ∨ (∃ l ∈ s.links, l.req = q) → q.pa / 64 ≠ r.pa / 64) →
        (s.pkg.snoops.filter fun e => decide (e.part = part)).length < 16384 →
        tfind (s.serveReq r).pkg.answers 0 = some (line, readBytes s.mem line 64) ∧ (∃ e ∈ (s.serveReq r).pkg.snoops, e.line = line ∧ e.part = part) ∧ (s.serveReq r).mem = s.mem))) ∧
  ((∀ (addr : Nat) (wr : Bool) (s : State), ∃ s' : State, exec (.hostCacheSnoop addr wr) s = .next s' ∧ s'.mem = s.mem ∧
      let k : LKey := ⟨addr / 64 * 64, 0, 0⟩
      ∀ e ∈ s.cores, ∀ l, (s.core e.1).l1find k = some l → l.attr = 3 →
        (∀ x ∈ (s'.core e.1).l1, x.key = k → x.dirtyBytes = [] ∧ wr = false) ∧
        (l.dirtyBytes ≠ [] → ∃ r ∈ s'.transit, r.src = e.1 ∧ r.flight = none ∧ r.pa = k.base ∧ r.op = .write l.dirtyBytes false)) ∧
    (∀ (v : Nat) (s : State),
      (v ∉ s.pkg.masked → exec (.msixMaskChange v true) s = .next { s with pkg := { s.pkg with masked := s.pkg.masked ++ [v] } }) ∧
      (v ∈ s.pkg.msgPending → exec (.msixMaskChange v false) s = .next { s with pkg := { s.pkg with
        masked := s.pkg.masked.filter fun x => decide (x ≠ v), msgPending := s.pkg.msgPending.filter fun x => decide (x ≠ v), sent := tput s.pkg.sent v (tget 0 s.pkg.sent v + 1) } }) ∧
      (v ∉ s.pkg.msgPending → exec (.msixMaskChange v false) s = .next { s with pkg := { s.pkg with masked := s.pkg.masked.filter fun x => decide (x ≠ v) } })))

/-- R30, R142, R183, R185, R303: a step executes what is due: an event of the device, the command that stands at a chain's index in the allocation, or the next word of a tiller's clause as decoded, with the debit of R195 paid; where nothing is due, a cycle. A tiller's word whose registers are pending, or that is held back, stays. The words of a clause are the bytes of memory that the code addresses translate to, or the registers of the control space as they read. A step whose accesses must wait, for a lock, a change of contract or the host, has no effect but the calls to the host, and its turn is taken again later; one that needs a codec takes its place in that codec's queue (R103, R111, R259, R366). The turns, and the places of steps in a codec's queue, are the model's form of what the spec leaves open (log entries 2 and 100). -/
def Obligations.StepRunsDecoded : Prop :=
  let waits (t : State) : Prop := t.waits = true ∨ t.calls ≠ []
  let runs (s : State) (i : Instr) (s0 : State) : Prop := ∀ t, exec i s0 = .next t → ¬waits t → step s = .next t
  (∀ (s t : State), s.turns = [] → exec (.cycle s.nextCore) s = .next t → step s = .next { t with waits := false, calls := [], needs := [] }) ∧
  (∀ (s : State) (i : Instr) (rest : List Turn), s.turns = .ev i :: rest → s.grant = none →
    runs s i { s with turns := rest } ∧
    (∀ t, exec i { s with turns := rest } = .next t → t.waits = true → t.calls = [] → t.needs = [] → step s = .next { s with turns := rest, later := s.later ++ [.ev i] }) ∧
    (∀ t n ns, exec i { s with turns := rest } = .next t → t.waits = true → t.calls = [] → t.needs = n :: ns →
      ∃ s' : State, step s = .next s' ∧ s'.mem = s.mem ∧ s'.tillers = s.tillers ∧ ∃ j ∈ (s'.core n.core).jobs, ∃ rd wr, j.kind = .device (.ev i) rd wr)) ∧
  (∀ (s : State) (tid : Nat) (rest : List Turn) (r : Run) (i : Instr) (w lit : Word) (more : List Byte),
    s.turns = .tiller tid :: rest → (s.tiller tid).run = some r → r.rep = false → lget 0 r.words r.idx = w → lget 0 r.words (r.idx + 1) = lit →
    decode (bytesOf w ++ bytesOf lit) = .ok (i, more) → (s.tiller tid).hnd = true ∨ decodeWord false w lit = .ok i → (s.tiller tid).errs = [] → ¬waits s → s.grant = none →
    let s1 : State := { s with turns := rest, cur := tid }
    ((s.blocked tid = true ∨ s.turnHeld (.tiller tid) = true) → step s = .next { s with turns := rest }) ∧
    (s.blocked tid = false → s.turnHeld (.tiller tid) = false →
      (((∃ x ∈ Instr.uses i, x ∈ (s.tiller tid).pend) ∨ ∃ c, Instr.counter i = some c ∧ 255 ≤ (s.tiller tid).ctr c.toNat) → step s = .next s1) ∧
      ((∀ x ∈ Instr.uses i, x ∉ (s.tiller tid).pend) → (∀ c, Instr.counter i = some c → (s.tiller tid).ctr c.toNat < 255) → s1.noRoom i = false →
        let s2 := s1.setTiller tid { s.tiller tid with parkP := false }
        let cl := tid / 256
        ((s.tiller tid).again = true → runs s i s2) ∧
        ((s.tiller tid).again = false → runs s i (s2.setCluster cl { s.cluster cl with allow := (s.cluster cl).allow - issueDebit (fOp w).toNat i.cls (s.tiller tid).act }))))) ∧
  (∀ (s : State) (u : Nat) (rest : List Turn) (c : Chain) (i : Instr), s.turns = .engine u :: rest → (s.engine u).chain = some c → (s.engine u).work = none → c.park = none →
    (s.sheaf (c.wg / 4)).st = .resident → (s.cluster (s.sheaf (c.wg / 4)).cluster).held = false → s.grant = none →
    let m := (s.wg c.wg).bytes
    let o := c.off + 16 + 16 * c.cidx
    ((s.engine u).read = none → o + 16 ≤ (s.wg c.wg).spad → decodeCmd u ⟨readWord m o, readWord m (o + 4), readWord m (o + 8), readWord m (o + 12)⟩ = some i → runs s i { s with turns := rest }) ∧
    (∀ a x y z, (s.engine u).read = some (c.cidx, [a, x, y, z]) → decodeCmd u ⟨a, x, y, z⟩ = some i → runs s i { s with turns := rest })) ∧
  (∀ (s s' : State) (tid : Nat) (pc : Word) (ws : List Word), s.fetchClause tid pc = (.ok ws, s') → (∀ k, k ≤ 16 → (s.codeLine tid (pc + BitVec.ofNat 32 (4 * k))).2 = s) →
    s' = s ∧ ws.length = (lget 0 ws 0).toNat % 16 + 1 ∧ ∀ k, k < ws.length → Says.codeAt s tid (pc + BitVec.ofNat 32 (4 * k)) (lget 0 ws k))

/-- R32 to R45: the words that the spec itself writes out are read as the instructions it gives them for. -/
def Obligations.WordsAreRead : Prop :=
  decodeTableWord 32 0x2A0A17FF = some (.addi false 5 5 0x3FF) ∧
  decodeTableWord 32 0x02160000 = some (.bnz false 5 0) ∧
  decodeTableWord 32 0x30081018 = some (.vadd false 4 4 3) ∧
  decodeTableWord 32 0x530A1030 = some (.ffma false .f32 5 4 6) ∧
  decodeTableWord 32 0x56241031 = some (.fcmp false true .lt 2 4 6) ∧
  decodeTableWord 64 0x20000040690630A1 = some (.ldgx false 3 (.vec 12) 2 .w .normal 0x20000040) ∧
  decodeTableWord 32 0x6C061460 = some (.lds false 3 (.sc 5) 1 .w) ∧
  decodeTableWord 64 0x20000000710E08E0 = some (.atom false .add .w 7 2 3 0x20000000) ∧
  decodeTableWord 32 0x79001028 = some (.waitB false 4 5) ∧
  decodeTableWord 32 0x7A060143 = some (.fenceAr false .dv 5) ∧
  decodeTableWord 32 0x7C043073 = some (.mstr false 2 12 14) ∧
  decodeTableWord 32 0x7D021C40 = some (.engFork false 1 7 8) ∧
  decodeTableWord 32 0x0C0C0030 = some (.srd false 6 .freq) ∧
  decodeTableWord 32 0x0A00002A = some (.trap 0x2A) ∧
  decodeTableWord 32 0x65000000 = none ∧
  decodeTableWord 32 0x0C060000 = none

/-- R32 to R46: decoding is the inverse of encoding: the bytes of every well-formed instruction that has a word, whatever its operands and whatever bytes follow, are read as that instruction, and the bytes that follow are left. -/
def Obligations.RoundTrip : Prop :=
  ∀ (i : Instr) (rest : List Byte), i.isWord = true → i.wf = true → decode (encodeBytes i ++ rest) = .ok (i, rest)

/-- R32 to R46: what the decoder accepts is a well-formed instruction whose own bytes are the bytes it was read from: no word has two meanings, and no bit of a word is ignored. -/
def Obligations.WordsHaveOneMeaning : Prop :=
  ∀ (bs rest : List Byte) (i : Instr), decode bs = .ok (i, rest) → i.isWord = true ∧ i.wf = true ∧ encodeBytes i ++ rest = bs

/-- R107, R186, R191, R193, R196, R231, R250, R261, R264, R268, R284, R323, R369, R371: what package reset leaves, the values the spec gives for it; and the memory of the model, which lists nothing, is in its canonical form (log entry 1, the model's choice). That the banks' queues, the engines and the tillers are empty, and no bank is in retry mode, is the model's choice (log entry 7). -/
def Obligations.ResetLeaves : Prop :=
  let s := State.reset
  s.memOk ∧ s.time = 0 ∧ s.kvepoch = 0 ∧ s.crtbase = 0 ∧ s.aftbase = 0 ∧ s.pkg.tlbGo = false ∧ s.pkg.err = 0 ∧ s.pkg.boostOpen = false ∧ s.pkg.boostReq = false ∧
  (∀ c, (s.core c).cycles = 0 ∧ (s.core c).tcyc = [0, 0, 0, 0]) ∧ (∀ c k, (s.core c).rrOf k = 15) ∧
  (∀ c, (s.cluster c).cur = 1700 ∧ (s.cluster c).tgt = 1700 ∧ (s.cluster c).step = false ∧ (s.cluster c).base = 44 ∧ (s.cluster c).batchw = 0 ∧ (s.cluster c).wlvl = 0 ∧
    (s.cluster c).held = false ∧ (s.cluster c).ret = false ∧ (s.cluster c).retLoss = 0 ∧ (s.cluster c).retIdle = 100) ∧
  (∀ d, (s.die d).en = true ∧ (s.die d).blast = 2 ∧ (s.die d).thresh = 1024 ∧ (s.die d).swapn = 4) ∧
  (∀ n, (s.res n).valid = false ∧ (s.res n).change = 0 ∧ (s.res n).err = 0) ∧
  (∀ b, (s.bank b).queue = [] ∧ (s.bank b).retry = false) ∧ (∀ u, (s.engine u).chain = none ∧ (s.engine u).waiting = []) ∧
  (∀ t, (s.tiller t).live = false) ∧ (∀ i, ¬((s.sheaf i).st = .resident))

/-- Every step keeps the memory of the model in its canonical form (log entry 1, the model's choice): addresses rise, and no listed byte equals what an unlisted address reads as. -/
def Obligations.StepKeepsMemory : Prop :=
  ∀ s s' : State, s.memOk → step s = .next s' → s'.memOk

/-- R16, R19, R329: no instruction, event or command stops the machine: in every state each has a next state. -/
def Obligations.NothingStops : Prop :=
  ∀ (i : Instr) (s : State), ∃ s' : State, exec i s = .next s'
end

