-- ==== Sys2Proof/Laws/Encode.lean ====
section
/-! SUPPORT. The fields of the words that the encoder packs, and the bytes of a word: what a field reads from a packed word is what was packed there. -/

namespace Sys2Proof

/-- A word is put together again from its bytes. -/
@[simp] theorem wordOf_bytes (w : Word) : wordOf (w.extractLsb' 0 8) (w.extractLsb' 8 8) (w.extractLsb' 16 8) (w.extractLsb' 24 8) = w := by
  unfold wordOf
  ext i hi
  simp only [BitVec.getElem_append, BitVec.getElem_extractLsb', Byte]
  repeat' split
  all_goals (rw [← BitVec.getLsbD_eq_getElem]; congr 1; omega)

/-- The bytes of a word whose opcode takes no literal decode as the word does. -/
theorem decode_word (w : Word) (rest : List Byte) (h : opTakesLit (fOp w).toNat = false) :
    decode (bytesOf w ++ rest) = (decodeWord true w 0).map fun i => (i, rest) := by
  simp [decode, bytesOf, h]

/-- The bytes of a word and of its literal decode as the two do. -/
theorem decode_word_lit (w lit : Word) (rest : List Byte) (h : opTakesLit (fOp w).toNat = true) :
    decode (bytesOf w ++ (bytesOf lit ++ rest)) = (decodeWord true w lit).map fun i => (i, rest) := by
  simp [decode, bytesOf, h]

@[simp] theorem fP_packR (p : Bool) (op d a b : BitVec 7) (s : BitVec 3) : fP (packR p op d a b s) = p := by
  unfold fP packR
  repeat' (first | erw [BitVec.getLsbD_append])
  simp

@[simp] theorem fOp_packR (p : Bool) (op d a b : BitVec 7) (s : BitVec 3) : fOp (packR p op d a b s) = op := by
  unfold fOp packR
  apply BitVec.eq_of_getLsbD_eq
  intro k hk
  rw [BitVec.getLsbD_extractLsb']
  repeat' (first | erw [BitVec.getLsbD_append])
  repeat' split
  all_goals first
    | omega
    | (simp only [hk, decide_true, Bool.true_and]; congr 1; omega)

@[simp] theorem fD_packR (p : Bool) (op d a b : BitVec 7) (s : BitVec 3) : fD (packR p op d a b s) = d := by
  unfold fD packR
  apply BitVec.eq_of_getLsbD_eq
  intro k hk
  rw [BitVec.getLsbD_extractLsb']
  repeat' (first | erw [BitVec.getLsbD_append])
  repeat' split
  all_goals first
    | omega
    | (simp only [hk, decide_true, Bool.true_and]; congr 1; omega)

@[simp] theorem fA_packR (p : Bool) (op d a b : BitVec 7) (s : BitVec 3) : fA (packR p op d a b s) = a := by
  unfold fA packR
  apply BitVec.eq_of_getLsbD_eq
  intro k hk
  rw [BitVec.getLsbD_extractLsb']
  repeat' (first | erw [BitVec.getLsbD_append])
  repeat' split
  all_goals first
    | omega
    | (simp only [hk, decide_true, Bool.true_and]; congr 1; omega)

@[simp] theorem fB_packR (p : Bool) (op d a b : BitVec 7) (s : BitVec 3) : fB (packR p op d a b s) = b := by
  unfold fB packR
  apply BitVec.eq_of_getLsbD_eq
  intro k hk
  rw [BitVec.getLsbD_extractLsb']
  repeat' (first | erw [BitVec.getLsbD_append])
  repeat' split
  all_goals first
    | omega
    | (simp only [hk, decide_true, Bool.true_and]; congr 1; omega)

@[simp] theorem fS_packR (p : Bool) (op d a b : BitVec 7) (s : BitVec 3) : fS (packR p op d a b s) = s := by
  unfold fS packR
  apply BitVec.eq_of_getLsbD_eq
  intro k hk
  rw [BitVec.getLsbD_extractLsb']
  repeat' (first | erw [BitVec.getLsbD_append])
  repeat' split
  all_goals first
    | omega
    | (simp only [hk, decide_true, Bool.true_and]; congr 1; omega)

@[simp] theorem fP_packI (p : Bool) (op d a : BitVec 7) (i : BitVec 10) : fP (packI p op d a i) = p := by
  unfold fP packI
  repeat' (first | erw [BitVec.getLsbD_append])
  simp

@[simp] theorem fOp_packI (p : Bool) (op d a : BitVec 7) (i : BitVec 10) : fOp (packI p op d a i) = op := by
  unfold fOp packI
  apply BitVec.eq_of_getLsbD_eq
  intro k hk
  rw [BitVec.getLsbD_extractLsb']
  repeat' (first | erw [BitVec.getLsbD_append])
  repeat' split
  all_goals first
    | omega
    | (simp only [hk, decide_true, Bool.true_and]; congr 1; omega)

@[simp] theorem fD_packI (p : Bool) (op d a : BitVec 7) (i : BitVec 10) : fD (packI p op d a i) = d := by
  unfold fD packI
  apply BitVec.eq_of_getLsbD_eq
  intro k hk
  rw [BitVec.getLsbD_extractLsb']
  repeat' (first | erw [BitVec.getLsbD_append])
  repeat' split
  all_goals first
    | omega
    | (simp only [hk, decide_true, Bool.true_and]; congr 1; omega)

@[simp] theorem fA_packI (p : Bool) (op d a : BitVec 7) (i : BitVec 10) : fA (packI p op d a i) = a := by
  unfold fA packI
  apply BitVec.eq_of_getLsbD_eq
  intro k hk
  rw [BitVec.getLsbD_extractLsb']
  repeat' (first | erw [BitVec.getLsbD_append])
  repeat' split
  all_goals first
    | omega
    | (simp only [hk, decide_true, Bool.true_and]; congr 1; omega)

@[simp] theorem fImm_packI (p : Bool) (op d a : BitVec 7) (i : BitVec 10) : fImm (packI p op d a i) = i := by
  unfold fImm packI
  apply BitVec.eq_of_getLsbD_eq
  intro k hk
  rw [BitVec.getLsbD_extractLsb']
  repeat' (first | erw [BitVec.getLsbD_append])
  repeat' split
  all_goals first
    | omega
    | (simp only [hk, decide_true, Bool.true_and]; congr 1; omega)

@[simp] theorem fP_packB (p : Bool) (op : BitVec 7) (x : BitVec 24) : fP (packB p op x) = p := by
  unfold fP packB
  repeat' (first | erw [BitVec.getLsbD_append])
  simp

@[simp] theorem fOp_packB (p : Bool) (op : BitVec 7) (x : BitVec 24) : fOp (packB p op x) = op := by
  unfold fOp packB
  apply BitVec.eq_of_getLsbD_eq
  intro k hk
  rw [BitVec.getLsbD_extractLsb']
  repeat' (first | erw [BitVec.getLsbD_append])
  repeat' split
  all_goals first
    | omega
    | (simp only [hk, decide_true, Bool.true_and]; congr 1; omega)

@[simp] theorem fX_packB (p : Bool) (op : BitVec 7) (x : BitVec 24) : fX (packB p op x) = x := by
  unfold fX packB
  apply BitVec.eq_of_getLsbD_eq
  intro k hk
  rw [BitVec.getLsbD_extractLsb']
  repeat' (first | erw [BitVec.getLsbD_append])
  repeat' split
  all_goals first
    | omega
    | (simp only [hk, decide_true, Bool.true_and]; congr 1; omega)

@[simp] theorem fP_packM (p : Bool) (op t a : BitVec 7) (c : BitVec 4) (wd s : BitVec 3) : fP (packM p op t a c wd s) = p := by
  unfold fP packM
  repeat' (first | erw [BitVec.getLsbD_append])
  simp

@[simp] theorem fOp_packM (p : Bool) (op t a : BitVec 7) (c : BitVec 4) (wd s : BitVec 3) : fOp (packM p op t a c wd s) = op := by
  unfold fOp packM
  apply BitVec.eq_of_getLsbD_eq
  intro k hk
  rw [BitVec.getLsbD_extractLsb']
  repeat' (first | erw [BitVec.getLsbD_append])
  repeat' split
  all_goals first
    | omega
    | (simp only [hk, decide_true, Bool.true_and]; congr 1; omega)

@[simp] theorem fD_packM (p : Bool) (op t a : BitVec 7) (c : BitVec 4) (wd s : BitVec 3) : fD (packM p op t a c wd s) = t := by
  unfold fD packM
  apply BitVec.eq_of_getLsbD_eq
  intro k hk
  rw [BitVec.getLsbD_extractLsb']
  repeat' (first | erw [BitVec.getLsbD_append])
  repeat' split
  all_goals first
    | omega
    | (simp only [hk, decide_true, Bool.true_and]; congr 1; omega)

@[simp] theorem fA_packM (p : Bool) (op t a : BitVec 7) (c : BitVec 4) (wd s : BitVec 3) : fA (packM p op t a c wd s) = a := by
  unfold fA packM
  apply BitVec.eq_of_getLsbD_eq
  intro k hk
  rw [BitVec.getLsbD_extractLsb']
  repeat' (first | erw [BitVec.getLsbD_append])
  repeat' split
  all_goals first
    | omega
    | (simp only [hk, decide_true, Bool.true_and]; congr 1; omega)

@[simp] theorem fC_packM (p : Bool) (op t a : BitVec 7) (c : BitVec 4) (wd s : BitVec 3) : fC (packM p op t a c wd s) = c := by
  unfold fC packM
  apply BitVec.eq_of_getLsbD_eq
  intro k hk
  rw [BitVec.getLsbD_extractLsb']
  repeat' (first | erw [BitVec.getLsbD_append])
  repeat' split
  all_goals first
    | omega
    | (simp only [hk, decide_true, Bool.true_and]; congr 1; omega)

@[simp] theorem fW_packM (p : Bool) (op t a : BitVec 7) (c : BitVec 4) (wd s : BitVec 3) : fW (packM p op t a c wd s) = wd := by
  unfold fW packM
  apply BitVec.eq_of_getLsbD_eq
  intro k hk
  rw [BitVec.getLsbD_extractLsb']
  repeat' (first | erw [BitVec.getLsbD_append])
  repeat' split
  all_goals first
    | omega
    | (simp only [hk, decide_true, Bool.true_and]; congr 1; omega)

@[simp] theorem fS_packM (p : Bool) (op t a : BitVec 7) (c : BitVec 4) (wd s : BitVec 3) : fS (packM p op t a c wd s) = s := by
  unfold fS packM
  apply BitVec.eq_of_getLsbD_eq
  intro k hk
  rw [BitVec.getLsbD_extractLsb']
  repeat' (first | erw [BitVec.getLsbD_append])
  repeat' split
  all_goals first
    | omega
    | (simp only [hk, decide_true, Bool.true_and]; congr 1; omega)

/-- A word is packed again from its fields. -/
theorem packR_fields (w : Word) : packR (fP w) (fOp w) (fD w) (fA w) (fB w) (fS w) = w := by
  unfold packR fP fOp fD fA fB fS
  apply BitVec.eq_of_getLsbD_eq
  intro k hk
  repeat' (first | erw [BitVec.getLsbD_append])
  repeat' split
  all_goals first
    | omega
    | (rw [BitVec.getLsbD_extractLsb', decide_eq_true (by omega), Bool.true_and]; congr 1; omega)
    | (rw [BitVec.getLsbD_ofBool]; simp [show k = 31 by omega])

/-- A word is packed again from its fields. -/
theorem packI_fields (w : Word) : packI (fP w) (fOp w) (fD w) (fA w) (fImm w) = w := by
  unfold packI fP fOp fD fA fImm
  apply BitVec.eq_of_getLsbD_eq
  intro k hk
  repeat' (first | erw [BitVec.getLsbD_append])
  repeat' split
  all_goals first
    | omega
    | (rw [BitVec.getLsbD_extractLsb', decide_eq_true (by omega), Bool.true_and]; congr 1; omega)
    | (rw [BitVec.getLsbD_ofBool]; simp [show k = 31 by omega])

/-- A word is packed again from its fields. -/
theorem packB_fields (w : Word) : packB (fP w) (fOp w) (fX w) = w := by
  unfold packB fP fOp fX
  apply BitVec.eq_of_getLsbD_eq
  intro k hk
  repeat' (first | erw [BitVec.getLsbD_append])
  repeat' split
  all_goals first
    | omega
    | (rw [BitVec.getLsbD_extractLsb', decide_eq_true (by omega), Bool.true_and]; congr 1; omega)
    | (rw [BitVec.getLsbD_ofBool]; simp [show k = 31 by omega])

/-- A word is packed again from its fields. -/
theorem packM_fields (w : Word) : packM (fP w) (fOp w) (fD w) (fA w) (fC w) (fW w) (fS w) = w := by
  unfold packM fP fOp fD fA fC fW fS
  apply BitVec.eq_of_getLsbD_eq
  intro k hk
  repeat' (first | erw [BitVec.getLsbD_append])
  repeat' split
  all_goals first
    | omega
    | (rw [BitVec.getLsbD_extractLsb', decide_eq_true (by omega), Bool.true_and]; congr 1; omega)
    | (rw [BitVec.getLsbD_ofBool]; simp [show k = 31 by omega])

end Sys2Proof
end

