-- ==== Sys2Proof/Laws/Memory.lean ====
section
/-! SUPPORT. Laws of byte memory: reads after writes, and the canonical form, which every memory operation keeps. -/

namespace Sys2Proof.Machine

/-! ## The canonical form -/

theorem wfFrom_mono {lo hi : Nat} (h : hi ≤ lo) : ∀ {m : List Host.Cell}, wfFrom lo m = true → wfFrom hi m = true
  | [], _ => rfl
  | (j, b) :: rest, w => by
    simp only [wfFrom, Bool.and_eq_true, Nat.ble_eq] at w ⊢
    exact ⟨⟨by omega, w.1.2⟩, w.2⟩

theorem wfFrom_cons {lo j : Nat} {b : Byte} {rest : List Host.Cell} :
    wfFrom lo ((j, b) :: rest) = true ↔ lo ≤ j ∧ b ≠ unlisted ∧ wfFrom (j + 1) rest = true := by
  simp [wfFrom, and_assoc]

theorem wfFrom_writeByte {a : Nat} (b : Byte) : ∀ {m : List Host.Cell} {lo : Nat}, lo ≤ a → wfFrom lo m = true → wfFrom lo (writeByte m a b) = true
  | [], lo, h, _ => by
    by_cases hb : b = unlisted
    · simp [writeByte, hb, wfFrom]
    · simp [writeByte, hb, wfFrom, h]
  | (j, c) :: rest, lo, h, w => by
    have ⟨hj, hc, hr⟩ := wfFrom_cons.1 w
    unfold writeByte
    split
    · split
      · exact w
      · exact wfFrom_cons.2 ⟨h, ‹_›, wfFrom_cons.2 ⟨by omega, hc, hr⟩⟩
    · split
      · split
        · exact wfFrom_mono (by omega) hr
        · next h1 h2 hb => exact wfFrom_cons.2 ⟨h, hb, h2 ▸ hr⟩
      · exact wfFrom_cons.2 ⟨hj, hc, wfFrom_writeByte b (by omega) hr⟩

/-- A byte written keeps the canonical form. -/
theorem wf_writeByte {m : List Host.Cell} (a : Nat) (b : Byte) (h : Memory.wf m = true) : Memory.wf (writeByte m a b) = true :=
  wfFrom_writeByte b (Nat.zero_le a) h

/-- Bytes written keep the canonical form. -/
theorem wf_writeBytes : ∀ (bs : List Byte) {m : List Host.Cell} (a : Nat), Memory.wf m = true → Memory.wf (writeBytes m a bs) = true
  | [], _, _, h => h
  | b :: rest, _, a, h => wf_writeBytes rest (a + 1) (wf_writeByte a b h)

/-- Cells written keep the canonical form. -/
theorem wf_writeCells : ∀ (cs : List Host.Cell) {m : List Host.Cell}, Memory.wf m = true → Memory.wf (writeCells m cs) = true
  | [], _, h => h
  | (a, b) :: rest, _, h => wf_writeCells rest (wf_writeByte a b h)

/-- A number written keeps the canonical form. -/
theorem wf_writeNat {m : List Host.Cell} (a n v : Nat) (h : Memory.wf m = true) : Memory.wf (writeNat m a n v) = true :=
  wf_writeBytes _ a h

theorem wfFrom_filter (p : Host.Cell → Bool) : ∀ {m : List Host.Cell} {lo : Nat}, wfFrom lo m = true → wfFrom lo (m.filter p) = true
  | [], _, _ => rfl
  | (j, b) :: rest, lo, h => by
    have ⟨hj, hb, hr⟩ := wfFrom_cons.1 h
    by_cases hp : p (j, b)
    · rw [List.filter_cons_of_pos hp]
      exact wfFrom_cons.2 ⟨hj, hb, wfFrom_filter p hr⟩
    · rw [List.filter_cons_of_neg hp]
      exact wfFrom_mono (by omega) (wfFrom_filter p hr)

/-- A range cleared keeps the canonical form. -/
theorem wf_clearRange {m : List Host.Cell} (base size : Nat) (h : Memory.wf m = true) : Memory.wf (clearRange m base size) = true :=
  wfFrom_filter _ h

/-! ## Reads -/

/-- Below the first address of a canonical memory every byte reads as unlisted. -/
theorem readByte_below {m : List Host.Cell} {lo a : Nat} (h : wfFrom lo m = true) (ha : a < lo) : readByte m a = unlisted := by
  induction m generalizing lo with
  | nil => rfl
  | cons e rest ih =>
    obtain ⟨j, b⟩ := e
    have ⟨hj, _, hr⟩ := wfFrom_cons.1 h
    simp only [readByte]
    rw [if_neg (by omega)]
    exact ih hr (by omega)

theorem ite_swap {α : Type} (a c : Nat) (x y : α) : (if a = c then x else y) = if c = a then x else y := by
  by_cases h : c = a
  · rw [if_pos h, if_pos h.symm]
  · rw [if_neg h, if_neg fun q => h q.symm]

theorem readByte_writeByte_from {lo : Nat} {m : List Host.Cell} (a : Nat) (b : Byte) (c : Nat) (h : wfFrom lo m = true) :
    readByte (writeByte m a b) c = if c = a then b else readByte m c := by
  induction m generalizing lo with
  | nil =>
    by_cases hb : b = unlisted
    · simp [writeByte, hb, readByte]
    · simp only [writeByte, hb, if_false, readByte]
      exact ite_swap a c b _
  | cons e rest ih =>
    obtain ⟨j, x⟩ := e
    have ⟨hj, hx, hr⟩ := wfFrom_cons.1 h
    unfold writeByte
    split
    · next hlt =>
      split
      · next hb =>
        split
        · next hc =>
          subst hc
          rw [hb, readByte, if_neg (by omega)]
          exact readByte_below hr (by omega)
        · rfl
      · rw [readByte]
        exact ite_swap a c b _
    · split
      · next hja =>
        subst hja
        split
        · next hb =>
          split
          · next hc => rw [hc, hb]; exact readByte_below hr (by omega)
          · next hc => rw [readByte, if_neg (fun q => hc q.symm)]
        · rw [readByte, readByte]
          by_cases hc : c = a
          · rw [if_pos hc.symm, if_pos hc]
          · rw [if_neg (fun q => hc q.symm), if_neg hc, if_neg (fun q => hc q.symm)]
      · next hlt hne =>
        rw [readByte, readByte, ih hr]
        by_cases hjc : j = c
        · rw [if_pos hjc, if_neg (by omega), if_pos hjc]
        · rw [if_neg hjc, if_neg hjc]

/-- A byte read after a byte is written. -/
theorem readByte_writeByte {m : List Host.Cell} (a : Nat) (b : Byte) (c : Nat) (h : Memory.wf m = true) :
    readByte (writeByte m a b) c = if c = a then b else readByte m c := readByte_writeByte_from a b c h

/-- Bytes written leave every byte outside them alone. -/
theorem readByte_writeBytes_outside : ∀ (bs : List Byte) {m : List Host.Cell} (a c : Nat), Memory.wf m = true → c < a ∨ a + bs.length ≤ c →
    readByte (writeBytes m a bs) c = readByte m c
  | [], _, _, _, _, _ => rfl
  | b :: rest, m, a, c, h, hc => by
    rw [List.length_cons] at hc
    rw [writeBytes, readByte_writeBytes_outside rest (a + 1) c (wf_writeByte a b h) (by omega), readByte_writeByte a b c h, if_neg (by omega)]

/-- Bytes written are read back. -/
theorem readBytes_writeBytes : ∀ (bs : List Byte) {m : List Host.Cell} (a : Nat), Memory.wf m = true →
    readBytes (writeBytes m a bs) a bs.length = bs
  | [], _, _, _ => rfl
  | b :: rest, m, a, h => by
    rw [List.length_cons, readBytes, writeBytes, readByte_writeBytes_outside rest (a + 1) a (wf_writeByte a b h) (by omega),
      readByte_writeByte a b a h, if_pos rfl, readBytes_writeBytes rest (a + 1) (wf_writeByte a b h)]

/-- Cells written leave every byte that they do not name alone. -/
theorem readByte_writeCells_outside : ∀ (cs : List Host.Cell) {m : List Host.Cell} (c : Nat), Memory.wf m = true → (∀ e ∈ cs, e.1 ≠ c) →
    readByte (writeCells m cs) c = readByte m c
  | [], _, _, _, _ => rfl
  | (a, b) :: rest, m, c, h, hc => by
    rw [writeCells, readByte_writeCells_outside rest c (wf_writeByte a b h) (fun e he => hc e (List.mem_cons_of_mem _ he)),
      readByte_writeByte a b c h, if_neg (fun q => hc (a, b) List.mem_cons_self q.symm)]

end Sys2Proof.Machine
end

