-- ==== Sys2Proof/Laws/State.lean ====
section
/-! SUPPORT. The fields of State and Tiller after each named update, by rfl; and what a table holds after an entry is put. -/

namespace Sys2Proof.Machine

/-! ## Tables -/

@[simp] theorem tget_tput_same {α : Type} (d : α) (t : Table α) (k : Nat) (x : α) : tget d (tput t k x) k = x := by
  induction t with
  | nil => simp [tput, tget]
  | cons e rest ih =>
    obtain ⟨j, y⟩ := e
    unfold tput
    split
    · simp [tget]
    · split
      · simp [tget]
      · simp [tget, *]

theorem tget_tput_ne {α : Type} (d : α) (t : Table α) {k u : Nat} (x : α) (h : u ≠ k) : tget d (tput t k x) u = tget d t u := by
  induction t with
  | nil => simp [tput, tget, Ne.symm h]
  | cons e rest ih =>
    obtain ⟨j, y⟩ := e
    unfold tput
    split
    · simp [tget, Ne.symm h]
    · split
      · next hk => simp [tget, hk, Ne.symm h]
      · simp [tget, ih]

theorem tget_tput {α : Type} (d : α) (t : Table α) (k u : Nat) (x : α) : tget d (tput t k x) u = if u = k then x else tget d t u := by
  split
  · next h => rw [h, tget_tput_same]
  · next h => exact tget_tput_ne d t x h

/-! ## setTiller -/

@[simp] theorem State.setTiller_cur (s : State) (n : Nat) (x : Tiller) : (s.setTiller n x).cur = s.cur := rfl
@[simp] theorem State.setTiller_turns (s : State) (n : Nat) (x : Tiller) : (s.setTiller n x).turns = s.turns := rfl
@[simp] theorem State.setTiller_fresh (s : State) (n : Nat) (x : Tiller) : (s.setTiller n x).fresh = s.fresh := rfl
@[simp] theorem State.setTiller_now (s : State) (n : Nat) (x : Tiller) : (s.setTiller n x).now = s.now := rfl
@[simp] theorem State.setTiller_mem (s : State) (n : Nat) (x : Tiller) : (s.setTiller n x).mem = s.mem := rfl
@[simp] theorem State.setTiller_badLines (s : State) (n : Nat) (x : Tiller) : (s.setTiller n x).badLines = s.badLines := rfl
@[simp] theorem State.setTiller_wgs (s : State) (n : Nat) (x : Tiller) : (s.setTiller n x).wgs = s.wgs := rfl
@[simp] theorem State.setTiller_sheaves (s : State) (n : Nat) (x : Tiller) : (s.setTiller n x).sheaves = s.sheaves := rfl
@[simp] theorem State.setTiller_launches (s : State) (n : Nat) (x : Tiller) : (s.setTiller n x).launches = s.launches := rfl
@[simp] theorem State.setTiller_rcbs (s : State) (n : Nat) (x : Tiller) : (s.setTiller n x).rcbs = s.rcbs := rfl
@[simp] theorem State.setTiller_cores (s : State) (n : Nat) (x : Tiller) : (s.setTiller n x).cores = s.cores := rfl
@[simp] theorem State.setTiller_clusters (s : State) (n : Nat) (x : Tiller) : (s.setTiller n x).clusters = s.clusters := rfl
@[simp] theorem State.setTiller_flights (s : State) (n : Nat) (x : Tiller) : (s.setTiller n x).flights = s.flights := rfl
@[simp] theorem State.setTiller_transit (s : State) (n : Nat) (x : Tiller) : (s.setTiller n x).transit = s.transit := rfl
@[simp] theorem State.setTiller_resid (s : State) (n : Nat) (x : Tiller) : (s.setTiller n x).resid = s.resid := rfl
@[simp] theorem State.setTiller_slices (s : State) (n : Nat) (x : Tiller) : (s.setTiller n x).slices = s.slices := rfl
@[simp] theorem State.setTiller_banks (s : State) (n : Nat) (x : Tiller) : (s.setTiller n x).banks = s.banks := rfl
@[simp] theorem State.setTiller_dies (s : State) (n : Nat) (x : Tiller) : (s.setTiller n x).dies = s.dies := rfl
@[simp] theorem State.setTiller_kvepoch (s : State) (n : Nat) (x : Tiller) : (s.setTiller n x).kvepoch = s.kvepoch := rfl
@[simp] theorem State.setTiller_crtbase (s : State) (n : Nat) (x : Tiller) : (s.setTiller n x).crtbase = s.crtbase := rfl
@[simp] theorem State.setTiller_aftbase (s : State) (n : Nat) (x : Tiller) : (s.setTiller n x).aftbase = s.aftbase := rfl
@[simp] theorem State.setTiller_arrays (s : State) (n : Nat) (x : Tiller) : (s.setTiller n x).arrays = s.arrays := rfl
@[simp] theorem State.setTiller_engines (s : State) (n : Nat) (x : Tiller) : (s.setTiller n x).engines = s.engines := rfl
@[simp] theorem State.setTiller_links (s : State) (n : Nat) (x : Tiller) : (s.setTiller n x).links = s.links := rfl
@[simp] theorem State.setTiller_graphs (s : State) (n : Nat) (x : Tiller) : (s.setTiller n x).graphs = s.graphs := rfl
@[simp] theorem State.setTiller_graphSeq (s : State) (n : Nat) (x : Tiller) : (s.setTiller n x).graphSeq = s.graphSeq := rfl
@[simp] theorem State.setTiller_served (s : State) (n : Nat) (x : Tiller) : (s.setTiller n x).served = s.served := rfl
@[simp] theorem State.setTiller_moving (s : State) (n : Nat) (x : Tiller) : (s.setTiller n x).moving = s.moving := rfl
@[simp] theorem State.setTiller_calls (s : State) (n : Nat) (x : Tiller) : (s.setTiller n x).calls = s.calls := rfl
@[simp] theorem State.setTiller_waits (s : State) (n : Nat) (x : Tiller) : (s.setTiller n x).waits = s.waits := rfl
@[simp] theorem State.setTiller_needs (s : State) (n : Nat) (x : Tiller) : (s.setTiller n x).needs = s.needs := rfl
@[simp] theorem State.setTiller_grant (s : State) (n : Nat) (x : Tiller) : (s.setTiller n x).grant = s.grant := rfl
@[simp] theorem State.setTiller_later (s : State) (n : Nat) (x : Tiller) : (s.setTiller n x).later = s.later := rfl
@[simp] theorem State.setTiller_pkg (s : State) (n : Nat) (x : Tiller) : (s.setTiller n x).pkg = s.pkg := rfl

/-! ## setCore -/

@[simp] theorem State.setCore_cur (s : State) (n : Nat) (x : Core) : (s.setCore n x).cur = s.cur := rfl
@[simp] theorem State.setCore_turns (s : State) (n : Nat) (x : Core) : (s.setCore n x).turns = s.turns := rfl
@[simp] theorem State.setCore_fresh (s : State) (n : Nat) (x : Core) : (s.setCore n x).fresh = s.fresh := rfl
@[simp] theorem State.setCore_now (s : State) (n : Nat) (x : Core) : (s.setCore n x).now = s.now := rfl
@[simp] theorem State.setCore_mem (s : State) (n : Nat) (x : Core) : (s.setCore n x).mem = s.mem := rfl
@[simp] theorem State.setCore_badLines (s : State) (n : Nat) (x : Core) : (s.setCore n x).badLines = s.badLines := rfl
@[simp] theorem State.setCore_tillers (s : State) (n : Nat) (x : Core) : (s.setCore n x).tillers = s.tillers := rfl
@[simp] theorem State.setCore_wgs (s : State) (n : Nat) (x : Core) : (s.setCore n x).wgs = s.wgs := rfl
@[simp] theorem State.setCore_sheaves (s : State) (n : Nat) (x : Core) : (s.setCore n x).sheaves = s.sheaves := rfl
@[simp] theorem State.setCore_launches (s : State) (n : Nat) (x : Core) : (s.setCore n x).launches = s.launches := rfl
@[simp] theorem State.setCore_rcbs (s : State) (n : Nat) (x : Core) : (s.setCore n x).rcbs = s.rcbs := rfl
@[simp] theorem State.setCore_clusters (s : State) (n : Nat) (x : Core) : (s.setCore n x).clusters = s.clusters := rfl
@[simp] theorem State.setCore_flights (s : State) (n : Nat) (x : Core) : (s.setCore n x).flights = s.flights := rfl
@[simp] theorem State.setCore_transit (s : State) (n : Nat) (x : Core) : (s.setCore n x).transit = s.transit := rfl
@[simp] theorem State.setCore_resid (s : State) (n : Nat) (x : Core) : (s.setCore n x).resid = s.resid := rfl
@[simp] theorem State.setCore_slices (s : State) (n : Nat) (x : Core) : (s.setCore n x).slices = s.slices := rfl
@[simp] theorem State.setCore_banks (s : State) (n : Nat) (x : Core) : (s.setCore n x).banks = s.banks := rfl
@[simp] theorem State.setCore_dies (s : State) (n : Nat) (x : Core) : (s.setCore n x).dies = s.dies := rfl
@[simp] theorem State.setCore_kvepoch (s : State) (n : Nat) (x : Core) : (s.setCore n x).kvepoch = s.kvepoch := rfl
@[simp] theorem State.setCore_crtbase (s : State) (n : Nat) (x : Core) : (s.setCore n x).crtbase = s.crtbase := rfl
@[simp] theorem State.setCore_aftbase (s : State) (n : Nat) (x : Core) : (s.setCore n x).aftbase = s.aftbase := rfl
@[simp] theorem State.setCore_arrays (s : State) (n : Nat) (x : Core) : (s.setCore n x).arrays = s.arrays := rfl
@[simp] theorem State.setCore_engines (s : State) (n : Nat) (x : Core) : (s.setCore n x).engines = s.engines := rfl
@[simp] theorem State.setCore_links (s : State) (n : Nat) (x : Core) : (s.setCore n x).links = s.links := rfl
@[simp] theorem State.setCore_graphs (s : State) (n : Nat) (x : Core) : (s.setCore n x).graphs = s.graphs := rfl
@[simp] theorem State.setCore_graphSeq (s : State) (n : Nat) (x : Core) : (s.setCore n x).graphSeq = s.graphSeq := rfl
@[simp] theorem State.setCore_served (s : State) (n : Nat) (x : Core) : (s.setCore n x).served = s.served := rfl
@[simp] theorem State.setCore_moving (s : State) (n : Nat) (x : Core) : (s.setCore n x).moving = s.moving := rfl
@[simp] theorem State.setCore_calls (s : State) (n : Nat) (x : Core) : (s.setCore n x).calls = s.calls := rfl
@[simp] theorem State.setCore_waits (s : State) (n : Nat) (x : Core) : (s.setCore n x).waits = s.waits := rfl
@[simp] theorem State.setCore_needs (s : State) (n : Nat) (x : Core) : (s.setCore n x).needs = s.needs := rfl
@[simp] theorem State.setCore_grant (s : State) (n : Nat) (x : Core) : (s.setCore n x).grant = s.grant := rfl
@[simp] theorem State.setCore_later (s : State) (n : Nat) (x : Core) : (s.setCore n x).later = s.later := rfl
@[simp] theorem State.setCore_pkg (s : State) (n : Nat) (x : Core) : (s.setCore n x).pkg = s.pkg := rfl

/-! ## setCluster -/

@[simp] theorem State.setCluster_cur (s : State) (n : Nat) (x : Cluster) : (s.setCluster n x).cur = s.cur := rfl
@[simp] theorem State.setCluster_turns (s : State) (n : Nat) (x : Cluster) : (s.setCluster n x).turns = s.turns := rfl
@[simp] theorem State.setCluster_fresh (s : State) (n : Nat) (x : Cluster) : (s.setCluster n x).fresh = s.fresh := rfl
@[simp] theorem State.setCluster_now (s : State) (n : Nat) (x : Cluster) : (s.setCluster n x).now = s.now := rfl
@[simp] theorem State.setCluster_mem (s : State) (n : Nat) (x : Cluster) : (s.setCluster n x).mem = s.mem := rfl
@[simp] theorem State.setCluster_badLines (s : State) (n : Nat) (x : Cluster) : (s.setCluster n x).badLines = s.badLines := rfl
@[simp] theorem State.setCluster_tillers (s : State) (n : Nat) (x : Cluster) : (s.setCluster n x).tillers = s.tillers := rfl
@[simp] theorem State.setCluster_wgs (s : State) (n : Nat) (x : Cluster) : (s.setCluster n x).wgs = s.wgs := rfl
@[simp] theorem State.setCluster_sheaves (s : State) (n : Nat) (x : Cluster) : (s.setCluster n x).sheaves = s.sheaves := rfl
@[simp] theorem State.setCluster_launches (s : State) (n : Nat) (x : Cluster) : (s.setCluster n x).launches = s.launches := rfl
@[simp] theorem State.setCluster_rcbs (s : State) (n : Nat) (x : Cluster) : (s.setCluster n x).rcbs = s.rcbs := rfl
@[simp] theorem State.setCluster_cores (s : State) (n : Nat) (x : Cluster) : (s.setCluster n x).cores = s.cores := rfl
@[simp] theorem State.setCluster_flights (s : State) (n : Nat) (x : Cluster) : (s.setCluster n x).flights = s.flights := rfl
@[simp] theorem State.setCluster_transit (s : State) (n : Nat) (x : Cluster) : (s.setCluster n x).transit = s.transit := rfl
@[simp] theorem State.setCluster_resid (s : State) (n : Nat) (x : Cluster) : (s.setCluster n x).resid = s.resid := rfl
@[simp] theorem State.setCluster_slices (s : State) (n : Nat) (x : Cluster) : (s.setCluster n x).slices = s.slices := rfl
@[simp] theorem State.setCluster_banks (s : State) (n : Nat) (x : Cluster) : (s.setCluster n x).banks = s.banks := rfl
@[simp] theorem State.setCluster_dies (s : State) (n : Nat) (x : Cluster) : (s.setCluster n x).dies = s.dies := rfl
@[simp] theorem State.setCluster_kvepoch (s : State) (n : Nat) (x : Cluster) : (s.setCluster n x).kvepoch = s.kvepoch := rfl
@[simp] theorem State.setCluster_crtbase (s : State) (n : Nat) (x : Cluster) : (s.setCluster n x).crtbase = s.crtbase := rfl
@[simp] theorem State.setCluster_aftbase (s : State) (n : Nat) (x : Cluster) : (s.setCluster n x).aftbase = s.aftbase := rfl
@[simp] theorem State.setCluster_arrays (s : State) (n : Nat) (x : Cluster) : (s.setCluster n x).arrays = s.arrays := rfl
@[simp] theorem State.setCluster_engines (s : State) (n : Nat) (x : Cluster) : (s.setCluster n x).engines = s.engines := rfl
@[simp] theorem State.setCluster_links (s : State) (n : Nat) (x : Cluster) : (s.setCluster n x).links = s.links := rfl
@[simp] theorem State.setCluster_graphs (s : State) (n : Nat) (x : Cluster) : (s.setCluster n x).graphs = s.graphs := rfl
@[simp] theorem State.setCluster_graphSeq (s : State) (n : Nat) (x : Cluster) : (s.setCluster n x).graphSeq = s.graphSeq := rfl
@[simp] theorem State.setCluster_served (s : State) (n : Nat) (x : Cluster) : (s.setCluster n x).served = s.served := rfl
@[simp] theorem State.setCluster_moving (s : State) (n : Nat) (x : Cluster) : (s.setCluster n x).moving = s.moving := rfl
@[simp] theorem State.setCluster_calls (s : State) (n : Nat) (x : Cluster) : (s.setCluster n x).calls = s.calls := rfl
@[simp] theorem State.setCluster_waits (s : State) (n : Nat) (x : Cluster) : (s.setCluster n x).waits = s.waits := rfl
@[simp] theorem State.setCluster_needs (s : State) (n : Nat) (x : Cluster) : (s.setCluster n x).needs = s.needs := rfl
@[simp] theorem State.setCluster_grant (s : State) (n : Nat) (x : Cluster) : (s.setCluster n x).grant = s.grant := rfl
@[simp] theorem State.setCluster_later (s : State) (n : Nat) (x : Cluster) : (s.setCluster n x).later = s.later := rfl
@[simp] theorem State.setCluster_pkg (s : State) (n : Nat) (x : Cluster) : (s.setCluster n x).pkg = s.pkg := rfl

/-! ## setSheaf -/

@[simp] theorem State.setSheaf_cur (s : State) (n : Nat) (x : Sheaf) : (s.setSheaf n x).cur = s.cur := rfl
@[simp] theorem State.setSheaf_turns (s : State) (n : Nat) (x : Sheaf) : (s.setSheaf n x).turns = s.turns := rfl
@[simp] theorem State.setSheaf_fresh (s : State) (n : Nat) (x : Sheaf) : (s.setSheaf n x).fresh = s.fresh := rfl
@[simp] theorem State.setSheaf_now (s : State) (n : Nat) (x : Sheaf) : (s.setSheaf n x).now = s.now := rfl
@[simp] theorem State.setSheaf_mem (s : State) (n : Nat) (x : Sheaf) : (s.setSheaf n x).mem = s.mem := rfl
@[simp] theorem State.setSheaf_badLines (s : State) (n : Nat) (x : Sheaf) : (s.setSheaf n x).badLines = s.badLines := rfl
@[simp] theorem State.setSheaf_tillers (s : State) (n : Nat) (x : Sheaf) : (s.setSheaf n x).tillers = s.tillers := rfl
@[simp] theorem State.setSheaf_wgs (s : State) (n : Nat) (x : Sheaf) : (s.setSheaf n x).wgs = s.wgs := rfl
@[simp] theorem State.setSheaf_launches (s : State) (n : Nat) (x : Sheaf) : (s.setSheaf n x).launches = s.launches := rfl
@[simp] theorem State.setSheaf_rcbs (s : State) (n : Nat) (x : Sheaf) : (s.setSheaf n x).rcbs = s.rcbs := rfl
@[simp] theorem State.setSheaf_cores (s : State) (n : Nat) (x : Sheaf) : (s.setSheaf n x).cores = s.cores := rfl
@[simp] theorem State.setSheaf_clusters (s : State) (n : Nat) (x : Sheaf) : (s.setSheaf n x).clusters = s.clusters := rfl
@[simp] theorem State.setSheaf_flights (s : State) (n : Nat) (x : Sheaf) : (s.setSheaf n x).flights = s.flights := rfl
@[simp] theorem State.setSheaf_transit (s : State) (n : Nat) (x : Sheaf) : (s.setSheaf n x).transit = s.transit := rfl
@[simp] theorem State.setSheaf_resid (s : State) (n : Nat) (x : Sheaf) : (s.setSheaf n x).resid = s.resid := rfl
@[simp] theorem State.setSheaf_slices (s : State) (n : Nat) (x : Sheaf) : (s.setSheaf n x).slices = s.slices := rfl
@[simp] theorem State.setSheaf_banks (s : State) (n : Nat) (x : Sheaf) : (s.setSheaf n x).banks = s.banks := rfl
@[simp] theorem State.setSheaf_dies (s : State) (n : Nat) (x : Sheaf) : (s.setSheaf n x).dies = s.dies := rfl
@[simp] theorem State.setSheaf_kvepoch (s : State) (n : Nat) (x : Sheaf) : (s.setSheaf n x).kvepoch = s.kvepoch := rfl
@[simp] theorem State.setSheaf_crtbase (s : State) (n : Nat) (x : Sheaf) : (s.setSheaf n x).crtbase = s.crtbase := rfl
@[simp] theorem State.setSheaf_aftbase (s : State) (n : Nat) (x : Sheaf) : (s.setSheaf n x).aftbase = s.aftbase := rfl
@[simp] theorem State.setSheaf_arrays (s : State) (n : Nat) (x : Sheaf) : (s.setSheaf n x).arrays = s.arrays := rfl
@[simp] theorem State.setSheaf_engines (s : State) (n : Nat) (x : Sheaf) : (s.setSheaf n x).engines = s.engines := rfl
@[simp] theorem State.setSheaf_links (s : State) (n : Nat) (x : Sheaf) : (s.setSheaf n x).links = s.links := rfl
@[simp] theorem State.setSheaf_graphs (s : State) (n : Nat) (x : Sheaf) : (s.setSheaf n x).graphs = s.graphs := rfl
@[simp] theorem State.setSheaf_graphSeq (s : State) (n : Nat) (x : Sheaf) : (s.setSheaf n x).graphSeq = s.graphSeq := rfl
@[simp] theorem State.setSheaf_served (s : State) (n : Nat) (x : Sheaf) : (s.setSheaf n x).served = s.served := rfl
@[simp] theorem State.setSheaf_moving (s : State) (n : Nat) (x : Sheaf) : (s.setSheaf n x).moving = s.moving := rfl
@[simp] theorem State.setSheaf_calls (s : State) (n : Nat) (x : Sheaf) : (s.setSheaf n x).calls = s.calls := rfl
@[simp] theorem State.setSheaf_waits (s : State) (n : Nat) (x : Sheaf) : (s.setSheaf n x).waits = s.waits := rfl
@[simp] theorem State.setSheaf_needs (s : State) (n : Nat) (x : Sheaf) : (s.setSheaf n x).needs = s.needs := rfl
@[simp] theorem State.setSheaf_grant (s : State) (n : Nat) (x : Sheaf) : (s.setSheaf n x).grant = s.grant := rfl
@[simp] theorem State.setSheaf_later (s : State) (n : Nat) (x : Sheaf) : (s.setSheaf n x).later = s.later := rfl
@[simp] theorem State.setSheaf_pkg (s : State) (n : Nat) (x : Sheaf) : (s.setSheaf n x).pkg = s.pkg := rfl

/-! ## setLaunch -/

@[simp] theorem State.setLaunch_cur (s : State) (n : Nat) (x : Launch) : (s.setLaunch n x).cur = s.cur := rfl
@[simp] theorem State.setLaunch_turns (s : State) (n : Nat) (x : Launch) : (s.setLaunch n x).turns = s.turns := rfl
@[simp] theorem State.setLaunch_fresh (s : State) (n : Nat) (x : Launch) : (s.setLaunch n x).fresh = s.fresh := rfl
@[simp] theorem State.setLaunch_now (s : State) (n : Nat) (x : Launch) : (s.setLaunch n x).now = s.now := rfl
@[simp] theorem State.setLaunch_mem (s : State) (n : Nat) (x : Launch) : (s.setLaunch n x).mem = s.mem := rfl
@[simp] theorem State.setLaunch_badLines (s : State) (n : Nat) (x : Launch) : (s.setLaunch n x).badLines = s.badLines := rfl
@[simp] theorem State.setLaunch_tillers (s : State) (n : Nat) (x : Launch) : (s.setLaunch n x).tillers = s.tillers := rfl
@[simp] theorem State.setLaunch_wgs (s : State) (n : Nat) (x : Launch) : (s.setLaunch n x).wgs = s.wgs := rfl
@[simp] theorem State.setLaunch_sheaves (s : State) (n : Nat) (x : Launch) : (s.setLaunch n x).sheaves = s.sheaves := rfl
@[simp] theorem State.setLaunch_rcbs (s : State) (n : Nat) (x : Launch) : (s.setLaunch n x).rcbs = s.rcbs := rfl
@[simp] theorem State.setLaunch_cores (s : State) (n : Nat) (x : Launch) : (s.setLaunch n x).cores = s.cores := rfl
@[simp] theorem State.setLaunch_clusters (s : State) (n : Nat) (x : Launch) : (s.setLaunch n x).clusters = s.clusters := rfl
@[simp] theorem State.setLaunch_flights (s : State) (n : Nat) (x : Launch) : (s.setLaunch n x).flights = s.flights := rfl
@[simp] theorem State.setLaunch_transit (s : State) (n : Nat) (x : Launch) : (s.setLaunch n x).transit = s.transit := rfl
@[simp] theorem State.setLaunch_resid (s : State) (n : Nat) (x : Launch) : (s.setLaunch n x).resid = s.resid := rfl
@[simp] theorem State.setLaunch_slices (s : State) (n : Nat) (x : Launch) : (s.setLaunch n x).slices = s.slices := rfl
@[simp] theorem State.setLaunch_banks (s : State) (n : Nat) (x : Launch) : (s.setLaunch n x).banks = s.banks := rfl
@[simp] theorem State.setLaunch_dies (s : State) (n : Nat) (x : Launch) : (s.setLaunch n x).dies = s.dies := rfl
@[simp] theorem State.setLaunch_kvepoch (s : State) (n : Nat) (x : Launch) : (s.setLaunch n x).kvepoch = s.kvepoch := rfl
@[simp] theorem State.setLaunch_crtbase (s : State) (n : Nat) (x : Launch) : (s.setLaunch n x).crtbase = s.crtbase := rfl
@[simp] theorem State.setLaunch_aftbase (s : State) (n : Nat) (x : Launch) : (s.setLaunch n x).aftbase = s.aftbase := rfl
@[simp] theorem State.setLaunch_arrays (s : State) (n : Nat) (x : Launch) : (s.setLaunch n x).arrays = s.arrays := rfl
@[simp] theorem State.setLaunch_engines (s : State) (n : Nat) (x : Launch) : (s.setLaunch n x).engines = s.engines := rfl
@[simp] theorem State.setLaunch_links (s : State) (n : Nat) (x : Launch) : (s.setLaunch n x).links = s.links := rfl
@[simp] theorem State.setLaunch_graphs (s : State) (n : Nat) (x : Launch) : (s.setLaunch n x).graphs = s.graphs := rfl
@[simp] theorem State.setLaunch_graphSeq (s : State) (n : Nat) (x : Launch) : (s.setLaunch n x).graphSeq = s.graphSeq := rfl
@[simp] theorem State.setLaunch_served (s : State) (n : Nat) (x : Launch) : (s.setLaunch n x).served = s.served := rfl
@[simp] theorem State.setLaunch_moving (s : State) (n : Nat) (x : Launch) : (s.setLaunch n x).moving = s.moving := rfl
@[simp] theorem State.setLaunch_calls (s : State) (n : Nat) (x : Launch) : (s.setLaunch n x).calls = s.calls := rfl
@[simp] theorem State.setLaunch_waits (s : State) (n : Nat) (x : Launch) : (s.setLaunch n x).waits = s.waits := rfl
@[simp] theorem State.setLaunch_needs (s : State) (n : Nat) (x : Launch) : (s.setLaunch n x).needs = s.needs := rfl
@[simp] theorem State.setLaunch_grant (s : State) (n : Nat) (x : Launch) : (s.setLaunch n x).grant = s.grant := rfl
@[simp] theorem State.setLaunch_later (s : State) (n : Nat) (x : Launch) : (s.setLaunch n x).later = s.later := rfl
@[simp] theorem State.setLaunch_pkg (s : State) (n : Nat) (x : Launch) : (s.setLaunch n x).pkg = s.pkg := rfl

/-! ## setArray -/

@[simp] theorem State.setArray_cur (s : State) (n : Nat) (x : ArrayUnit) : (s.setArray n x).cur = s.cur := rfl
@[simp] theorem State.setArray_turns (s : State) (n : Nat) (x : ArrayUnit) : (s.setArray n x).turns = s.turns := rfl
@[simp] theorem State.setArray_fresh (s : State) (n : Nat) (x : ArrayUnit) : (s.setArray n x).fresh = s.fresh := rfl
@[simp] theorem State.setArray_now (s : State) (n : Nat) (x : ArrayUnit) : (s.setArray n x).now = s.now := rfl
@[simp] theorem State.setArray_mem (s : State) (n : Nat) (x : ArrayUnit) : (s.setArray n x).mem = s.mem := rfl
@[simp] theorem State.setArray_badLines (s : State) (n : Nat) (x : ArrayUnit) : (s.setArray n x).badLines = s.badLines := rfl
@[simp] theorem State.setArray_tillers (s : State) (n : Nat) (x : ArrayUnit) : (s.setArray n x).tillers = s.tillers := rfl
@[simp] theorem State.setArray_wgs (s : State) (n : Nat) (x : ArrayUnit) : (s.setArray n x).wgs = s.wgs := rfl
@[simp] theorem State.setArray_sheaves (s : State) (n : Nat) (x : ArrayUnit) : (s.setArray n x).sheaves = s.sheaves := rfl
@[simp] theorem State.setArray_launches (s : State) (n : Nat) (x : ArrayUnit) : (s.setArray n x).launches = s.launches := rfl
@[simp] theorem State.setArray_rcbs (s : State) (n : Nat) (x : ArrayUnit) : (s.setArray n x).rcbs = s.rcbs := rfl
@[simp] theorem State.setArray_cores (s : State) (n : Nat) (x : ArrayUnit) : (s.setArray n x).cores = s.cores := rfl
@[simp] theorem State.setArray_clusters (s : State) (n : Nat) (x : ArrayUnit) : (s.setArray n x).clusters = s.clusters := rfl
@[simp] theorem State.setArray_flights (s : State) (n : Nat) (x : ArrayUnit) : (s.setArray n x).flights = s.flights := rfl
@[simp] theorem State.setArray_transit (s : State) (n : Nat) (x : ArrayUnit) : (s.setArray n x).transit = s.transit := rfl
@[simp] theorem State.setArray_resid (s : State) (n : Nat) (x : ArrayUnit) : (s.setArray n x).resid = s.resid := rfl
@[simp] theorem State.setArray_slices (s : State) (n : Nat) (x : ArrayUnit) : (s.setArray n x).slices = s.slices := rfl
@[simp] theorem State.setArray_banks (s : State) (n : Nat) (x : ArrayUnit) : (s.setArray n x).banks = s.banks := rfl
@[simp] theorem State.setArray_dies (s : State) (n : Nat) (x : ArrayUnit) : (s.setArray n x).dies = s.dies := rfl
@[simp] theorem State.setArray_kvepoch (s : State) (n : Nat) (x : ArrayUnit) : (s.setArray n x).kvepoch = s.kvepoch := rfl
@[simp] theorem State.setArray_crtbase (s : State) (n : Nat) (x : ArrayUnit) : (s.setArray n x).crtbase = s.crtbase := rfl
@[simp] theorem State.setArray_aftbase (s : State) (n : Nat) (x : ArrayUnit) : (s.setArray n x).aftbase = s.aftbase := rfl
@[simp] theorem State.setArray_engines (s : State) (n : Nat) (x : ArrayUnit) : (s.setArray n x).engines = s.engines := rfl
@[simp] theorem State.setArray_links (s : State) (n : Nat) (x : ArrayUnit) : (s.setArray n x).links = s.links := rfl
@[simp] theorem State.setArray_graphs (s : State) (n : Nat) (x : ArrayUnit) : (s.setArray n x).graphs = s.graphs := rfl
@[simp] theorem State.setArray_graphSeq (s : State) (n : Nat) (x : ArrayUnit) : (s.setArray n x).graphSeq = s.graphSeq := rfl
@[simp] theorem State.setArray_served (s : State) (n : Nat) (x : ArrayUnit) : (s.setArray n x).served = s.served := rfl
@[simp] theorem State.setArray_moving (s : State) (n : Nat) (x : ArrayUnit) : (s.setArray n x).moving = s.moving := rfl
@[simp] theorem State.setArray_calls (s : State) (n : Nat) (x : ArrayUnit) : (s.setArray n x).calls = s.calls := rfl
@[simp] theorem State.setArray_waits (s : State) (n : Nat) (x : ArrayUnit) : (s.setArray n x).waits = s.waits := rfl
@[simp] theorem State.setArray_needs (s : State) (n : Nat) (x : ArrayUnit) : (s.setArray n x).needs = s.needs := rfl
@[simp] theorem State.setArray_grant (s : State) (n : Nat) (x : ArrayUnit) : (s.setArray n x).grant = s.grant := rfl
@[simp] theorem State.setArray_later (s : State) (n : Nat) (x : ArrayUnit) : (s.setArray n x).later = s.later := rfl
@[simp] theorem State.setArray_pkg (s : State) (n : Nat) (x : ArrayUnit) : (s.setArray n x).pkg = s.pkg := rfl

/-! ## setEngine -/

@[simp] theorem State.setEngine_cur (s : State) (n : Nat) (x : Engine) : (s.setEngine n x).cur = s.cur := rfl
@[simp] theorem State.setEngine_turns (s : State) (n : Nat) (x : Engine) : (s.setEngine n x).turns = s.turns := rfl
@[simp] theorem State.setEngine_fresh (s : State) (n : Nat) (x : Engine) : (s.setEngine n x).fresh = s.fresh := rfl
@[simp] theorem State.setEngine_now (s : State) (n : Nat) (x : Engine) : (s.setEngine n x).now = s.now := rfl
@[simp] theorem State.setEngine_mem (s : State) (n : Nat) (x : Engine) : (s.setEngine n x).mem = s.mem := rfl
@[simp] theorem State.setEngine_badLines (s : State) (n : Nat) (x : Engine) : (s.setEngine n x).badLines = s.badLines := rfl
@[simp] theorem State.setEngine_tillers (s : State) (n : Nat) (x : Engine) : (s.setEngine n x).tillers = s.tillers := rfl
@[simp] theorem State.setEngine_wgs (s : State) (n : Nat) (x : Engine) : (s.setEngine n x).wgs = s.wgs := rfl
@[simp] theorem State.setEngine_sheaves (s : State) (n : Nat) (x : Engine) : (s.setEngine n x).sheaves = s.sheaves := rfl
@[simp] theorem State.setEngine_launches (s : State) (n : Nat) (x : Engine) : (s.setEngine n x).launches = s.launches := rfl
@[simp] theorem State.setEngine_rcbs (s : State) (n : Nat) (x : Engine) : (s.setEngine n x).rcbs = s.rcbs := rfl
@[simp] theorem State.setEngine_cores (s : State) (n : Nat) (x : Engine) : (s.setEngine n x).cores = s.cores := rfl
@[simp] theorem State.setEngine_clusters (s : State) (n : Nat) (x : Engine) : (s.setEngine n x).clusters = s.clusters := rfl
@[simp] theorem State.setEngine_flights (s : State) (n : Nat) (x : Engine) : (s.setEngine n x).flights = s.flights := rfl
@[simp] theorem State.setEngine_transit (s : State) (n : Nat) (x : Engine) : (s.setEngine n x).transit = s.transit := rfl
@[simp] theorem State.setEngine_resid (s : State) (n : Nat) (x : Engine) : (s.setEngine n x).resid = s.resid := rfl
@[simp] theorem State.setEngine_slices (s : State) (n : Nat) (x : Engine) : (s.setEngine n x).slices = s.slices := rfl
@[simp] theorem State.setEngine_banks (s : State) (n : Nat) (x : Engine) : (s.setEngine n x).banks = s.banks := rfl
@[simp] theorem State.setEngine_dies (s : State) (n : Nat) (x : Engine) : (s.setEngine n x).dies = s.dies := rfl
@[simp] theorem State.setEngine_kvepoch (s : State) (n : Nat) (x : Engine) : (s.setEngine n x).kvepoch = s.kvepoch := rfl
@[simp] theorem State.setEngine_crtbase (s : State) (n : Nat) (x : Engine) : (s.setEngine n x).crtbase = s.crtbase := rfl
@[simp] theorem State.setEngine_aftbase (s : State) (n : Nat) (x : Engine) : (s.setEngine n x).aftbase = s.aftbase := rfl
@[simp] theorem State.setEngine_arrays (s : State) (n : Nat) (x : Engine) : (s.setEngine n x).arrays = s.arrays := rfl
@[simp] theorem State.setEngine_links (s : State) (n : Nat) (x : Engine) : (s.setEngine n x).links = s.links := rfl
@[simp] theorem State.setEngine_graphs (s : State) (n : Nat) (x : Engine) : (s.setEngine n x).graphs = s.graphs := rfl
@[simp] theorem State.setEngine_graphSeq (s : State) (n : Nat) (x : Engine) : (s.setEngine n x).graphSeq = s.graphSeq := rfl
@[simp] theorem State.setEngine_served (s : State) (n : Nat) (x : Engine) : (s.setEngine n x).served = s.served := rfl
@[simp] theorem State.setEngine_moving (s : State) (n : Nat) (x : Engine) : (s.setEngine n x).moving = s.moving := rfl
@[simp] theorem State.setEngine_calls (s : State) (n : Nat) (x : Engine) : (s.setEngine n x).calls = s.calls := rfl
@[simp] theorem State.setEngine_waits (s : State) (n : Nat) (x : Engine) : (s.setEngine n x).waits = s.waits := rfl
@[simp] theorem State.setEngine_needs (s : State) (n : Nat) (x : Engine) : (s.setEngine n x).needs = s.needs := rfl
@[simp] theorem State.setEngine_grant (s : State) (n : Nat) (x : Engine) : (s.setEngine n x).grant = s.grant := rfl
@[simp] theorem State.setEngine_later (s : State) (n : Nat) (x : Engine) : (s.setEngine n x).later = s.later := rfl
@[simp] theorem State.setEngine_pkg (s : State) (n : Nat) (x : Engine) : (s.setEngine n x).pkg = s.pkg := rfl

/-! ## setWg -/

@[simp] theorem State.setWg_cur (s : State) (n : Nat) (x : Wg) : (s.setWg n x).cur = s.cur := rfl
@[simp] theorem State.setWg_turns (s : State) (n : Nat) (x : Wg) : (s.setWg n x).turns = s.turns := rfl
@[simp] theorem State.setWg_fresh (s : State) (n : Nat) (x : Wg) : (s.setWg n x).fresh = s.fresh := rfl
@[simp] theorem State.setWg_now (s : State) (n : Nat) (x : Wg) : (s.setWg n x).now = s.now := rfl
@[simp] theorem State.setWg_mem (s : State) (n : Nat) (x : Wg) : (s.setWg n x).mem = s.mem := rfl
@[simp] theorem State.setWg_badLines (s : State) (n : Nat) (x : Wg) : (s.setWg n x).badLines = s.badLines := rfl
@[simp] theorem State.setWg_tillers (s : State) (n : Nat) (x : Wg) : (s.setWg n x).tillers = s.tillers := rfl
@[simp] theorem State.setWg_sheaves (s : State) (n : Nat) (x : Wg) : (s.setWg n x).sheaves = s.sheaves := rfl
@[simp] theorem State.setWg_launches (s : State) (n : Nat) (x : Wg) : (s.setWg n x).launches = s.launches := rfl
@[simp] theorem State.setWg_rcbs (s : State) (n : Nat) (x : Wg) : (s.setWg n x).rcbs = s.rcbs := rfl
@[simp] theorem State.setWg_cores (s : State) (n : Nat) (x : Wg) : (s.setWg n x).cores = s.cores := rfl
@[simp] theorem State.setWg_clusters (s : State) (n : Nat) (x : Wg) : (s.setWg n x).clusters = s.clusters := rfl
@[simp] theorem State.setWg_flights (s : State) (n : Nat) (x : Wg) : (s.setWg n x).flights = s.flights := rfl
@[simp] theorem State.setWg_transit (s : State) (n : Nat) (x : Wg) : (s.setWg n x).transit = s.transit := rfl
@[simp] theorem State.setWg_resid (s : State) (n : Nat) (x : Wg) : (s.setWg n x).resid = s.resid := rfl
@[simp] theorem State.setWg_slices (s : State) (n : Nat) (x : Wg) : (s.setWg n x).slices = s.slices := rfl
@[simp] theorem State.setWg_banks (s : State) (n : Nat) (x : Wg) : (s.setWg n x).banks = s.banks := rfl
@[simp] theorem State.setWg_dies (s : State) (n : Nat) (x : Wg) : (s.setWg n x).dies = s.dies := rfl
@[simp] theorem State.setWg_kvepoch (s : State) (n : Nat) (x : Wg) : (s.setWg n x).kvepoch = s.kvepoch := rfl
@[simp] theorem State.setWg_crtbase (s : State) (n : Nat) (x : Wg) : (s.setWg n x).crtbase = s.crtbase := rfl
@[simp] theorem State.setWg_aftbase (s : State) (n : Nat) (x : Wg) : (s.setWg n x).aftbase = s.aftbase := rfl
@[simp] theorem State.setWg_arrays (s : State) (n : Nat) (x : Wg) : (s.setWg n x).arrays = s.arrays := rfl
@[simp] theorem State.setWg_engines (s : State) (n : Nat) (x : Wg) : (s.setWg n x).engines = s.engines := rfl
@[simp] theorem State.setWg_links (s : State) (n : Nat) (x : Wg) : (s.setWg n x).links = s.links := rfl
@[simp] theorem State.setWg_graphs (s : State) (n : Nat) (x : Wg) : (s.setWg n x).graphs = s.graphs := rfl
@[simp] theorem State.setWg_graphSeq (s : State) (n : Nat) (x : Wg) : (s.setWg n x).graphSeq = s.graphSeq := rfl
@[simp] theorem State.setWg_served (s : State) (n : Nat) (x : Wg) : (s.setWg n x).served = s.served := rfl
@[simp] theorem State.setWg_moving (s : State) (n : Nat) (x : Wg) : (s.setWg n x).moving = s.moving := rfl
@[simp] theorem State.setWg_calls (s : State) (n : Nat) (x : Wg) : (s.setWg n x).calls = s.calls := rfl
@[simp] theorem State.setWg_waits (s : State) (n : Nat) (x : Wg) : (s.setWg n x).waits = s.waits := rfl
@[simp] theorem State.setWg_needs (s : State) (n : Nat) (x : Wg) : (s.setWg n x).needs = s.needs := rfl
@[simp] theorem State.setWg_grant (s : State) (n : Nat) (x : Wg) : (s.setWg n x).grant = s.grant := rfl
@[simp] theorem State.setWg_later (s : State) (n : Nat) (x : Wg) : (s.setWg n x).later = s.later := rfl
@[simp] theorem State.setWg_pkg (s : State) (n : Nat) (x : Wg) : (s.setWg n x).pkg = s.pkg := rfl

/-! ## setSlice -/

@[simp] theorem State.setSlice_cur (s : State) (n : Nat) (x : Slice) : (s.setSlice n x).cur = s.cur := rfl
@[simp] theorem State.setSlice_turns (s : State) (n : Nat) (x : Slice) : (s.setSlice n x).turns = s.turns := rfl
@[simp] theorem State.setSlice_fresh (s : State) (n : Nat) (x : Slice) : (s.setSlice n x).fresh = s.fresh := rfl
@[simp] theorem State.setSlice_now (s : State) (n : Nat) (x : Slice) : (s.setSlice n x).now = s.now := rfl
@[simp] theorem State.setSlice_mem (s : State) (n : Nat) (x : Slice) : (s.setSlice n x).mem = s.mem := rfl
@[simp] theorem State.setSlice_badLines (s : State) (n : Nat) (x : Slice) : (s.setSlice n x).badLines = s.badLines := rfl
@[simp] theorem State.setSlice_tillers (s : State) (n : Nat) (x : Slice) : (s.setSlice n x).tillers = s.tillers := rfl
@[simp] theorem State.setSlice_wgs (s : State) (n : Nat) (x : Slice) : (s.setSlice n x).wgs = s.wgs := rfl
@[simp] theorem State.setSlice_sheaves (s : State) (n : Nat) (x : Slice) : (s.setSlice n x).sheaves = s.sheaves := rfl
@[simp] theorem State.setSlice_launches (s : State) (n : Nat) (x : Slice) : (s.setSlice n x).launches = s.launches := rfl
@[simp] theorem State.setSlice_rcbs (s : State) (n : Nat) (x : Slice) : (s.setSlice n x).rcbs = s.rcbs := rfl
@[simp] theorem State.setSlice_cores (s : State) (n : Nat) (x : Slice) : (s.setSlice n x).cores = s.cores := rfl
@[simp] theorem State.setSlice_clusters (s : State) (n : Nat) (x : Slice) : (s.setSlice n x).clusters = s.clusters := rfl
@[simp] theorem State.setSlice_flights (s : State) (n : Nat) (x : Slice) : (s.setSlice n x).flights = s.flights := rfl
@[simp] theorem State.setSlice_transit (s : State) (n : Nat) (x : Slice) : (s.setSlice n x).transit = s.transit := rfl
@[simp] theorem State.setSlice_resid (s : State) (n : Nat) (x : Slice) : (s.setSlice n x).resid = s.resid := rfl
@[simp] theorem State.setSlice_banks (s : State) (n : Nat) (x : Slice) : (s.setSlice n x).banks = s.banks := rfl
@[simp] theorem State.setSlice_dies (s : State) (n : Nat) (x : Slice) : (s.setSlice n x).dies = s.dies := rfl
@[simp] theorem State.setSlice_kvepoch (s : State) (n : Nat) (x : Slice) : (s.setSlice n x).kvepoch = s.kvepoch := rfl
@[simp] theorem State.setSlice_crtbase (s : State) (n : Nat) (x : Slice) : (s.setSlice n x).crtbase = s.crtbase := rfl
@[simp] theorem State.setSlice_aftbase (s : State) (n : Nat) (x : Slice) : (s.setSlice n x).aftbase = s.aftbase := rfl
@[simp] theorem State.setSlice_arrays (s : State) (n : Nat) (x : Slice) : (s.setSlice n x).arrays = s.arrays := rfl
@[simp] theorem State.setSlice_engines (s : State) (n : Nat) (x : Slice) : (s.setSlice n x).engines = s.engines := rfl
@[simp] theorem State.setSlice_links (s : State) (n : Nat) (x : Slice) : (s.setSlice n x).links = s.links := rfl
@[simp] theorem State.setSlice_graphs (s : State) (n : Nat) (x : Slice) : (s.setSlice n x).graphs = s.graphs := rfl
@[simp] theorem State.setSlice_graphSeq (s : State) (n : Nat) (x : Slice) : (s.setSlice n x).graphSeq = s.graphSeq := rfl
@[simp] theorem State.setSlice_served (s : State) (n : Nat) (x : Slice) : (s.setSlice n x).served = s.served := rfl
@[simp] theorem State.setSlice_moving (s : State) (n : Nat) (x : Slice) : (s.setSlice n x).moving = s.moving := rfl
@[simp] theorem State.setSlice_calls (s : State) (n : Nat) (x : Slice) : (s.setSlice n x).calls = s.calls := rfl
@[simp] theorem State.setSlice_waits (s : State) (n : Nat) (x : Slice) : (s.setSlice n x).waits = s.waits := rfl
@[simp] theorem State.setSlice_needs (s : State) (n : Nat) (x : Slice) : (s.setSlice n x).needs = s.needs := rfl
@[simp] theorem State.setSlice_grant (s : State) (n : Nat) (x : Slice) : (s.setSlice n x).grant = s.grant := rfl
@[simp] theorem State.setSlice_later (s : State) (n : Nat) (x : Slice) : (s.setSlice n x).later = s.later := rfl
@[simp] theorem State.setSlice_pkg (s : State) (n : Nat) (x : Slice) : (s.setSlice n x).pkg = s.pkg := rfl

/-! ## setFlight -/

@[simp] theorem State.setFlight_cur (s : State) (n : Nat) (x : Flight) : (s.setFlight n x).cur = s.cur := rfl
@[simp] theorem State.setFlight_turns (s : State) (n : Nat) (x : Flight) : (s.setFlight n x).turns = s.turns := rfl
@[simp] theorem State.setFlight_fresh (s : State) (n : Nat) (x : Flight) : (s.setFlight n x).fresh = s.fresh := rfl
@[simp] theorem State.setFlight_now (s : State) (n : Nat) (x : Flight) : (s.setFlight n x).now = s.now := rfl
@[simp] theorem State.setFlight_mem (s : State) (n : Nat) (x : Flight) : (s.setFlight n x).mem = s.mem := rfl
@[simp] theorem State.setFlight_badLines (s : State) (n : Nat) (x : Flight) : (s.setFlight n x).badLines = s.badLines := rfl
@[simp] theorem State.setFlight_tillers (s : State) (n : Nat) (x : Flight) : (s.setFlight n x).tillers = s.tillers := rfl
@[simp] theorem State.setFlight_wgs (s : State) (n : Nat) (x : Flight) : (s.setFlight n x).wgs = s.wgs := rfl
@[simp] theorem State.setFlight_sheaves (s : State) (n : Nat) (x : Flight) : (s.setFlight n x).sheaves = s.sheaves := rfl
@[simp] theorem State.setFlight_launches (s : State) (n : Nat) (x : Flight) : (s.setFlight n x).launches = s.launches := rfl
@[simp] theorem State.setFlight_rcbs (s : State) (n : Nat) (x : Flight) : (s.setFlight n x).rcbs = s.rcbs := rfl
@[simp] theorem State.setFlight_cores (s : State) (n : Nat) (x : Flight) : (s.setFlight n x).cores = s.cores := rfl
@[simp] theorem State.setFlight_clusters (s : State) (n : Nat) (x : Flight) : (s.setFlight n x).clusters = s.clusters := rfl
@[simp] theorem State.setFlight_transit (s : State) (n : Nat) (x : Flight) : (s.setFlight n x).transit = s.transit := rfl
@[simp] theorem State.setFlight_resid (s : State) (n : Nat) (x : Flight) : (s.setFlight n x).resid = s.resid := rfl
@[simp] theorem State.setFlight_slices (s : State) (n : Nat) (x : Flight) : (s.setFlight n x).slices = s.slices := rfl
@[simp] theorem State.setFlight_banks (s : State) (n : Nat) (x : Flight) : (s.setFlight n x).banks = s.banks := rfl
@[simp] theorem State.setFlight_dies (s : State) (n : Nat) (x : Flight) : (s.setFlight n x).dies = s.dies := rfl
@[simp] theorem State.setFlight_kvepoch (s : State) (n : Nat) (x : Flight) : (s.setFlight n x).kvepoch = s.kvepoch := rfl
@[simp] theorem State.setFlight_crtbase (s : State) (n : Nat) (x : Flight) : (s.setFlight n x).crtbase = s.crtbase := rfl
@[simp] theorem State.setFlight_aftbase (s : State) (n : Nat) (x : Flight) : (s.setFlight n x).aftbase = s.aftbase := rfl
@[simp] theorem State.setFlight_arrays (s : State) (n : Nat) (x : Flight) : (s.setFlight n x).arrays = s.arrays := rfl
@[simp] theorem State.setFlight_engines (s : State) (n : Nat) (x : Flight) : (s.setFlight n x).engines = s.engines := rfl
@[simp] theorem State.setFlight_links (s : State) (n : Nat) (x : Flight) : (s.setFlight n x).links = s.links := rfl
@[simp] theorem State.setFlight_graphs (s : State) (n : Nat) (x : Flight) : (s.setFlight n x).graphs = s.graphs := rfl
@[simp] theorem State.setFlight_graphSeq (s : State) (n : Nat) (x : Flight) : (s.setFlight n x).graphSeq = s.graphSeq := rfl
@[simp] theorem State.setFlight_served (s : State) (n : Nat) (x : Flight) : (s.setFlight n x).served = s.served := rfl
@[simp] theorem State.setFlight_moving (s : State) (n : Nat) (x : Flight) : (s.setFlight n x).moving = s.moving := rfl
@[simp] theorem State.setFlight_calls (s : State) (n : Nat) (x : Flight) : (s.setFlight n x).calls = s.calls := rfl
@[simp] theorem State.setFlight_waits (s : State) (n : Nat) (x : Flight) : (s.setFlight n x).waits = s.waits := rfl
@[simp] theorem State.setFlight_needs (s : State) (n : Nat) (x : Flight) : (s.setFlight n x).needs = s.needs := rfl
@[simp] theorem State.setFlight_grant (s : State) (n : Nat) (x : Flight) : (s.setFlight n x).grant = s.grant := rfl
@[simp] theorem State.setFlight_later (s : State) (n : Nat) (x : Flight) : (s.setFlight n x).later = s.later := rfl
@[simp] theorem State.setFlight_pkg (s : State) (n : Nat) (x : Flight) : (s.setFlight n x).pkg = s.pkg := rfl

/-! ## delFlight -/

@[simp] theorem State.delFlight_cur (s : State) (n : Nat) : (s.delFlight n).cur = s.cur := rfl
@[simp] theorem State.delFlight_turns (s : State) (n : Nat) : (s.delFlight n).turns = s.turns := rfl
@[simp] theorem State.delFlight_fresh (s : State) (n : Nat) : (s.delFlight n).fresh = s.fresh := rfl
@[simp] theorem State.delFlight_now (s : State) (n : Nat) : (s.delFlight n).now = s.now := rfl
@[simp] theorem State.delFlight_mem (s : State) (n : Nat) : (s.delFlight n).mem = s.mem := rfl
@[simp] theorem State.delFlight_badLines (s : State) (n : Nat) : (s.delFlight n).badLines = s.badLines := rfl
@[simp] theorem State.delFlight_tillers (s : State) (n : Nat) : (s.delFlight n).tillers = s.tillers := rfl
@[simp] theorem State.delFlight_wgs (s : State) (n : Nat) : (s.delFlight n).wgs = s.wgs := rfl
@[simp] theorem State.delFlight_sheaves (s : State) (n : Nat) : (s.delFlight n).sheaves = s.sheaves := rfl
@[simp] theorem State.delFlight_launches (s : State) (n : Nat) : (s.delFlight n).launches = s.launches := rfl
@[simp] theorem State.delFlight_rcbs (s : State) (n : Nat) : (s.delFlight n).rcbs = s.rcbs := rfl
@[simp] theorem State.delFlight_cores (s : State) (n : Nat) : (s.delFlight n).cores = s.cores := rfl
@[simp] theorem State.delFlight_clusters (s : State) (n : Nat) : (s.delFlight n).clusters = s.clusters := rfl
@[simp] theorem State.delFlight_transit (s : State) (n : Nat) : (s.delFlight n).transit = s.transit := rfl
@[simp] theorem State.delFlight_resid (s : State) (n : Nat) : (s.delFlight n).resid = s.resid := rfl
@[simp] theorem State.delFlight_slices (s : State) (n : Nat) : (s.delFlight n).slices = s.slices := rfl
@[simp] theorem State.delFlight_banks (s : State) (n : Nat) : (s.delFlight n).banks = s.banks := rfl
@[simp] theorem State.delFlight_dies (s : State) (n : Nat) : (s.delFlight n).dies = s.dies := rfl
@[simp] theorem State.delFlight_kvepoch (s : State) (n : Nat) : (s.delFlight n).kvepoch = s.kvepoch := rfl
@[simp] theorem State.delFlight_crtbase (s : State) (n : Nat) : (s.delFlight n).crtbase = s.crtbase := rfl
@[simp] theorem State.delFlight_aftbase (s : State) (n : Nat) : (s.delFlight n).aftbase = s.aftbase := rfl
@[simp] theorem State.delFlight_arrays (s : State) (n : Nat) : (s.delFlight n).arrays = s.arrays := rfl
@[simp] theorem State.delFlight_engines (s : State) (n : Nat) : (s.delFlight n).engines = s.engines := rfl
@[simp] theorem State.delFlight_links (s : State) (n : Nat) : (s.delFlight n).links = s.links := rfl
@[simp] theorem State.delFlight_graphs (s : State) (n : Nat) : (s.delFlight n).graphs = s.graphs := rfl
@[simp] theorem State.delFlight_graphSeq (s : State) (n : Nat) : (s.delFlight n).graphSeq = s.graphSeq := rfl
@[simp] theorem State.delFlight_served (s : State) (n : Nat) : (s.delFlight n).served = s.served := rfl
@[simp] theorem State.delFlight_moving (s : State) (n : Nat) : (s.delFlight n).moving = s.moving := rfl
@[simp] theorem State.delFlight_calls (s : State) (n : Nat) : (s.delFlight n).calls = s.calls := rfl
@[simp] theorem State.delFlight_waits (s : State) (n : Nat) : (s.delFlight n).waits = s.waits := rfl
@[simp] theorem State.delFlight_needs (s : State) (n : Nat) : (s.delFlight n).needs = s.needs := rfl
@[simp] theorem State.delFlight_grant (s : State) (n : Nat) : (s.delFlight n).grant = s.grant := rfl
@[simp] theorem State.delFlight_later (s : State) (n : Nat) : (s.delFlight n).later = s.later := rfl
@[simp] theorem State.delFlight_pkg (s : State) (n : Nat) : (s.delFlight n).pkg = s.pkg := rfl

/-! ## addFlight -/

@[simp] theorem State.addFlight_cur (s : State) (x : Flight) : (s.addFlight x).cur = s.cur := rfl
@[simp] theorem State.addFlight_turns (s : State) (x : Flight) : (s.addFlight x).turns = s.turns := rfl
@[simp] theorem State.addFlight_now (s : State) (x : Flight) : (s.addFlight x).now = s.now := rfl
@[simp] theorem State.addFlight_mem (s : State) (x : Flight) : (s.addFlight x).mem = s.mem := rfl
@[simp] theorem State.addFlight_badLines (s : State) (x : Flight) : (s.addFlight x).badLines = s.badLines := rfl
@[simp] theorem State.addFlight_tillers (s : State) (x : Flight) : (s.addFlight x).tillers = s.tillers := rfl
@[simp] theorem State.addFlight_wgs (s : State) (x : Flight) : (s.addFlight x).wgs = s.wgs := rfl
@[simp] theorem State.addFlight_sheaves (s : State) (x : Flight) : (s.addFlight x).sheaves = s.sheaves := rfl
@[simp] theorem State.addFlight_launches (s : State) (x : Flight) : (s.addFlight x).launches = s.launches := rfl
@[simp] theorem State.addFlight_rcbs (s : State) (x : Flight) : (s.addFlight x).rcbs = s.rcbs := rfl
@[simp] theorem State.addFlight_cores (s : State) (x : Flight) : (s.addFlight x).cores = s.cores := rfl
@[simp] theorem State.addFlight_clusters (s : State) (x : Flight) : (s.addFlight x).clusters = s.clusters := rfl
@[simp] theorem State.addFlight_transit (s : State) (x : Flight) : (s.addFlight x).transit = s.transit := rfl
@[simp] theorem State.addFlight_resid (s : State) (x : Flight) : (s.addFlight x).resid = s.resid := rfl
@[simp] theorem State.addFlight_slices (s : State) (x : Flight) : (s.addFlight x).slices = s.slices := rfl
@[simp] theorem State.addFlight_banks (s : State) (x : Flight) : (s.addFlight x).banks = s.banks := rfl
@[simp] theorem State.addFlight_dies (s : State) (x : Flight) : (s.addFlight x).dies = s.dies := rfl
@[simp] theorem State.addFlight_kvepoch (s : State) (x : Flight) : (s.addFlight x).kvepoch = s.kvepoch := rfl
@[simp] theorem State.addFlight_crtbase (s : State) (x : Flight) : (s.addFlight x).crtbase = s.crtbase := rfl
@[simp] theorem State.addFlight_aftbase (s : State) (x : Flight) : (s.addFlight x).aftbase = s.aftbase := rfl
@[simp] theorem State.addFlight_arrays (s : State) (x : Flight) : (s.addFlight x).arrays = s.arrays := rfl
@[simp] theorem State.addFlight_engines (s : State) (x : Flight) : (s.addFlight x).engines = s.engines := rfl
@[simp] theorem State.addFlight_links (s : State) (x : Flight) : (s.addFlight x).links = s.links := rfl
@[simp] theorem State.addFlight_graphs (s : State) (x : Flight) : (s.addFlight x).graphs = s.graphs := rfl
@[simp] theorem State.addFlight_graphSeq (s : State) (x : Flight) : (s.addFlight x).graphSeq = s.graphSeq := rfl
@[simp] theorem State.addFlight_served (s : State) (x : Flight) : (s.addFlight x).served = s.served := rfl
@[simp] theorem State.addFlight_moving (s : State) (x : Flight) : (s.addFlight x).moving = s.moving := rfl
@[simp] theorem State.addFlight_calls (s : State) (x : Flight) : (s.addFlight x).calls = s.calls := rfl
@[simp] theorem State.addFlight_waits (s : State) (x : Flight) : (s.addFlight x).waits = s.waits := rfl
@[simp] theorem State.addFlight_needs (s : State) (x : Flight) : (s.addFlight x).needs = s.needs := rfl
@[simp] theorem State.addFlight_grant (s : State) (x : Flight) : (s.addFlight x).grant = s.grant := rfl
@[simp] theorem State.addFlight_later (s : State) (x : Flight) : (s.addFlight x).later = s.later := rfl
@[simp] theorem State.addFlight_pkg (s : State) (x : Flight) : (s.addFlight x).pkg = s.pkg := rfl

/-! ## setBank -/

@[simp] theorem State.setBank_cur (s : State) (n : Nat) (x : Bank) : (s.setBank n x).cur = s.cur := rfl
@[simp] theorem State.setBank_turns (s : State) (n : Nat) (x : Bank) : (s.setBank n x).turns = s.turns := rfl
@[simp] theorem State.setBank_fresh (s : State) (n : Nat) (x : Bank) : (s.setBank n x).fresh = s.fresh := rfl
@[simp] theorem State.setBank_now (s : State) (n : Nat) (x : Bank) : (s.setBank n x).now = s.now := rfl
@[simp] theorem State.setBank_mem (s : State) (n : Nat) (x : Bank) : (s.setBank n x).mem = s.mem := rfl
@[simp] theorem State.setBank_badLines (s : State) (n : Nat) (x : Bank) : (s.setBank n x).badLines = s.badLines := rfl
@[simp] theorem State.setBank_tillers (s : State) (n : Nat) (x : Bank) : (s.setBank n x).tillers = s.tillers := rfl
@[simp] theorem State.setBank_wgs (s : State) (n : Nat) (x : Bank) : (s.setBank n x).wgs = s.wgs := rfl
@[simp] theorem State.setBank_sheaves (s : State) (n : Nat) (x : Bank) : (s.setBank n x).sheaves = s.sheaves := rfl
@[simp] theorem State.setBank_launches (s : State) (n : Nat) (x : Bank) : (s.setBank n x).launches = s.launches := rfl
@[simp] theorem State.setBank_rcbs (s : State) (n : Nat) (x : Bank) : (s.setBank n x).rcbs = s.rcbs := rfl
@[simp] theorem State.setBank_cores (s : State) (n : Nat) (x : Bank) : (s.setBank n x).cores = s.cores := rfl
@[simp] theorem State.setBank_clusters (s : State) (n : Nat) (x : Bank) : (s.setBank n x).clusters = s.clusters := rfl
@[simp] theorem State.setBank_flights (s : State) (n : Nat) (x : Bank) : (s.setBank n x).flights = s.flights := rfl
@[simp] theorem State.setBank_transit (s : State) (n : Nat) (x : Bank) : (s.setBank n x).transit = s.transit := rfl
@[simp] theorem State.setBank_resid (s : State) (n : Nat) (x : Bank) : (s.setBank n x).resid = s.resid := rfl
@[simp] theorem State.setBank_slices (s : State) (n : Nat) (x : Bank) : (s.setBank n x).slices = s.slices := rfl
@[simp] theorem State.setBank_dies (s : State) (n : Nat) (x : Bank) : (s.setBank n x).dies = s.dies := rfl
@[simp] theorem State.setBank_kvepoch (s : State) (n : Nat) (x : Bank) : (s.setBank n x).kvepoch = s.kvepoch := rfl
@[simp] theorem State.setBank_crtbase (s : State) (n : Nat) (x : Bank) : (s.setBank n x).crtbase = s.crtbase := rfl
@[simp] theorem State.setBank_aftbase (s : State) (n : Nat) (x : Bank) : (s.setBank n x).aftbase = s.aftbase := rfl
@[simp] theorem State.setBank_arrays (s : State) (n : Nat) (x : Bank) : (s.setBank n x).arrays = s.arrays := rfl
@[simp] theorem State.setBank_engines (s : State) (n : Nat) (x : Bank) : (s.setBank n x).engines = s.engines := rfl
@[simp] theorem State.setBank_links (s : State) (n : Nat) (x : Bank) : (s.setBank n x).links = s.links := rfl
@[simp] theorem State.setBank_graphs (s : State) (n : Nat) (x : Bank) : (s.setBank n x).graphs = s.graphs := rfl
@[simp] theorem State.setBank_graphSeq (s : State) (n : Nat) (x : Bank) : (s.setBank n x).graphSeq = s.graphSeq := rfl
@[simp] theorem State.setBank_served (s : State) (n : Nat) (x : Bank) : (s.setBank n x).served = s.served := rfl
@[simp] theorem State.setBank_moving (s : State) (n : Nat) (x : Bank) : (s.setBank n x).moving = s.moving := rfl
@[simp] theorem State.setBank_calls (s : State) (n : Nat) (x : Bank) : (s.setBank n x).calls = s.calls := rfl
@[simp] theorem State.setBank_waits (s : State) (n : Nat) (x : Bank) : (s.setBank n x).waits = s.waits := rfl
@[simp] theorem State.setBank_needs (s : State) (n : Nat) (x : Bank) : (s.setBank n x).needs = s.needs := rfl
@[simp] theorem State.setBank_grant (s : State) (n : Nat) (x : Bank) : (s.setBank n x).grant = s.grant := rfl
@[simp] theorem State.setBank_later (s : State) (n : Nat) (x : Bank) : (s.setBank n x).later = s.later := rfl
@[simp] theorem State.setBank_pkg (s : State) (n : Nat) (x : Bank) : (s.setBank n x).pkg = s.pkg := rfl

/-! ## setRes -/

@[simp] theorem State.setRes_cur (s : State) (n : Nat) (x : ResEntry) : (s.setRes n x).cur = s.cur := rfl
@[simp] theorem State.setRes_turns (s : State) (n : Nat) (x : ResEntry) : (s.setRes n x).turns = s.turns := rfl
@[simp] theorem State.setRes_fresh (s : State) (n : Nat) (x : ResEntry) : (s.setRes n x).fresh = s.fresh := rfl
@[simp] theorem State.setRes_now (s : State) (n : Nat) (x : ResEntry) : (s.setRes n x).now = s.now := rfl
@[simp] theorem State.setRes_mem (s : State) (n : Nat) (x : ResEntry) : (s.setRes n x).mem = s.mem := rfl
@[simp] theorem State.setRes_badLines (s : State) (n : Nat) (x : ResEntry) : (s.setRes n x).badLines = s.badLines := rfl
@[simp] theorem State.setRes_tillers (s : State) (n : Nat) (x : ResEntry) : (s.setRes n x).tillers = s.tillers := rfl
@[simp] theorem State.setRes_wgs (s : State) (n : Nat) (x : ResEntry) : (s.setRes n x).wgs = s.wgs := rfl
@[simp] theorem State.setRes_sheaves (s : State) (n : Nat) (x : ResEntry) : (s.setRes n x).sheaves = s.sheaves := rfl
@[simp] theorem State.setRes_launches (s : State) (n : Nat) (x : ResEntry) : (s.setRes n x).launches = s.launches := rfl
@[simp] theorem State.setRes_rcbs (s : State) (n : Nat) (x : ResEntry) : (s.setRes n x).rcbs = s.rcbs := rfl
@[simp] theorem State.setRes_cores (s : State) (n : Nat) (x : ResEntry) : (s.setRes n x).cores = s.cores := rfl
@[simp] theorem State.setRes_clusters (s : State) (n : Nat) (x : ResEntry) : (s.setRes n x).clusters = s.clusters := rfl
@[simp] theorem State.setRes_flights (s : State) (n : Nat) (x : ResEntry) : (s.setRes n x).flights = s.flights := rfl
@[simp] theorem State.setRes_transit (s : State) (n : Nat) (x : ResEntry) : (s.setRes n x).transit = s.transit := rfl
@[simp] theorem State.setRes_slices (s : State) (n : Nat) (x : ResEntry) : (s.setRes n x).slices = s.slices := rfl
@[simp] theorem State.setRes_banks (s : State) (n : Nat) (x : ResEntry) : (s.setRes n x).banks = s.banks := rfl
@[simp] theorem State.setRes_dies (s : State) (n : Nat) (x : ResEntry) : (s.setRes n x).dies = s.dies := rfl
@[simp] theorem State.setRes_kvepoch (s : State) (n : Nat) (x : ResEntry) : (s.setRes n x).kvepoch = s.kvepoch := rfl
@[simp] theorem State.setRes_crtbase (s : State) (n : Nat) (x : ResEntry) : (s.setRes n x).crtbase = s.crtbase := rfl
@[simp] theorem State.setRes_aftbase (s : State) (n : Nat) (x : ResEntry) : (s.setRes n x).aftbase = s.aftbase := rfl
@[simp] theorem State.setRes_arrays (s : State) (n : Nat) (x : ResEntry) : (s.setRes n x).arrays = s.arrays := rfl
@[simp] theorem State.setRes_engines (s : State) (n : Nat) (x : ResEntry) : (s.setRes n x).engines = s.engines := rfl
@[simp] theorem State.setRes_links (s : State) (n : Nat) (x : ResEntry) : (s.setRes n x).links = s.links := rfl
@[simp] theorem State.setRes_graphs (s : State) (n : Nat) (x : ResEntry) : (s.setRes n x).graphs = s.graphs := rfl
@[simp] theorem State.setRes_graphSeq (s : State) (n : Nat) (x : ResEntry) : (s.setRes n x).graphSeq = s.graphSeq := rfl
@[simp] theorem State.setRes_served (s : State) (n : Nat) (x : ResEntry) : (s.setRes n x).served = s.served := rfl
@[simp] theorem State.setRes_moving (s : State) (n : Nat) (x : ResEntry) : (s.setRes n x).moving = s.moving := rfl
@[simp] theorem State.setRes_calls (s : State) (n : Nat) (x : ResEntry) : (s.setRes n x).calls = s.calls := rfl
@[simp] theorem State.setRes_waits (s : State) (n : Nat) (x : ResEntry) : (s.setRes n x).waits = s.waits := rfl
@[simp] theorem State.setRes_needs (s : State) (n : Nat) (x : ResEntry) : (s.setRes n x).needs = s.needs := rfl
@[simp] theorem State.setRes_grant (s : State) (n : Nat) (x : ResEntry) : (s.setRes n x).grant = s.grant := rfl
@[simp] theorem State.setRes_later (s : State) (n : Nat) (x : ResEntry) : (s.setRes n x).later = s.later := rfl
@[simp] theorem State.setRes_pkg (s : State) (n : Nat) (x : ResEntry) : (s.setRes n x).pkg = s.pkg := rfl

/-! ## setTl -/

@[simp] theorem State.setTl_cur (s : State) (x : Tiller) : (s.setTl x).cur = s.cur := rfl
@[simp] theorem State.setTl_turns (s : State) (x : Tiller) : (s.setTl x).turns = s.turns := rfl
@[simp] theorem State.setTl_fresh (s : State) (x : Tiller) : (s.setTl x).fresh = s.fresh := rfl
@[simp] theorem State.setTl_now (s : State) (x : Tiller) : (s.setTl x).now = s.now := rfl
@[simp] theorem State.setTl_mem (s : State) (x : Tiller) : (s.setTl x).mem = s.mem := rfl
@[simp] theorem State.setTl_badLines (s : State) (x : Tiller) : (s.setTl x).badLines = s.badLines := rfl
@[simp] theorem State.setTl_wgs (s : State) (x : Tiller) : (s.setTl x).wgs = s.wgs := rfl
@[simp] theorem State.setTl_sheaves (s : State) (x : Tiller) : (s.setTl x).sheaves = s.sheaves := rfl
@[simp] theorem State.setTl_launches (s : State) (x : Tiller) : (s.setTl x).launches = s.launches := rfl
@[simp] theorem State.setTl_rcbs (s : State) (x : Tiller) : (s.setTl x).rcbs = s.rcbs := rfl
@[simp] theorem State.setTl_cores (s : State) (x : Tiller) : (s.setTl x).cores = s.cores := rfl
@[simp] theorem State.setTl_clusters (s : State) (x : Tiller) : (s.setTl x).clusters = s.clusters := rfl
@[simp] theorem State.setTl_flights (s : State) (x : Tiller) : (s.setTl x).flights = s.flights := rfl
@[simp] theorem State.setTl_transit (s : State) (x : Tiller) : (s.setTl x).transit = s.transit := rfl
@[simp] theorem State.setTl_resid (s : State) (x : Tiller) : (s.setTl x).resid = s.resid := rfl
@[simp] theorem State.setTl_slices (s : State) (x : Tiller) : (s.setTl x).slices = s.slices := rfl
@[simp] theorem State.setTl_banks (s : State) (x : Tiller) : (s.setTl x).banks = s.banks := rfl
@[simp] theorem State.setTl_dies (s : State) (x : Tiller) : (s.setTl x).dies = s.dies := rfl
@[simp] theorem State.setTl_kvepoch (s : State) (x : Tiller) : (s.setTl x).kvepoch = s.kvepoch := rfl
@[simp] theorem State.setTl_crtbase (s : State) (x : Tiller) : (s.setTl x).crtbase = s.crtbase := rfl
@[simp] theorem State.setTl_aftbase (s : State) (x : Tiller) : (s.setTl x).aftbase = s.aftbase := rfl
@[simp] theorem State.setTl_arrays (s : State) (x : Tiller) : (s.setTl x).arrays = s.arrays := rfl
@[simp] theorem State.setTl_engines (s : State) (x : Tiller) : (s.setTl x).engines = s.engines := rfl
@[simp] theorem State.setTl_links (s : State) (x : Tiller) : (s.setTl x).links = s.links := rfl
@[simp] theorem State.setTl_graphs (s : State) (x : Tiller) : (s.setTl x).graphs = s.graphs := rfl
@[simp] theorem State.setTl_graphSeq (s : State) (x : Tiller) : (s.setTl x).graphSeq = s.graphSeq := rfl
@[simp] theorem State.setTl_served (s : State) (x : Tiller) : (s.setTl x).served = s.served := rfl
@[simp] theorem State.setTl_moving (s : State) (x : Tiller) : (s.setTl x).moving = s.moving := rfl
@[simp] theorem State.setTl_calls (s : State) (x : Tiller) : (s.setTl x).calls = s.calls := rfl
@[simp] theorem State.setTl_waits (s : State) (x : Tiller) : (s.setTl x).waits = s.waits := rfl
@[simp] theorem State.setTl_needs (s : State) (x : Tiller) : (s.setTl x).needs = s.needs := rfl
@[simp] theorem State.setTl_grant (s : State) (x : Tiller) : (s.setTl x).grant = s.grant := rfl
@[simp] theorem State.setTl_later (s : State) (x : Tiller) : (s.setTl x).later = s.later := rfl
@[simp] theorem State.setTl_pkg (s : State) (x : Tiller) : (s.setTl x).pkg = s.pkg := rfl

/-! ## modTl -/

@[simp] theorem State.modTl_cur (s : State) (f : Tiller → Tiller) : (s.modTl f).cur = s.cur := rfl
@[simp] theorem State.modTl_turns (s : State) (f : Tiller → Tiller) : (s.modTl f).turns = s.turns := rfl
@[simp] theorem State.modTl_fresh (s : State) (f : Tiller → Tiller) : (s.modTl f).fresh = s.fresh := rfl
@[simp] theorem State.modTl_now (s : State) (f : Tiller → Tiller) : (s.modTl f).now = s.now := rfl
@[simp] theorem State.modTl_mem (s : State) (f : Tiller → Tiller) : (s.modTl f).mem = s.mem := rfl
@[simp] theorem State.modTl_badLines (s : State) (f : Tiller → Tiller) : (s.modTl f).badLines = s.badLines := rfl
@[simp] theorem State.modTl_wgs (s : State) (f : Tiller → Tiller) : (s.modTl f).wgs = s.wgs := rfl
@[simp] theorem State.modTl_sheaves (s : State) (f : Tiller → Tiller) : (s.modTl f).sheaves = s.sheaves := rfl
@[simp] theorem State.modTl_launches (s : State) (f : Tiller → Tiller) : (s.modTl f).launches = s.launches := rfl
@[simp] theorem State.modTl_rcbs (s : State) (f : Tiller → Tiller) : (s.modTl f).rcbs = s.rcbs := rfl
@[simp] theorem State.modTl_cores (s : State) (f : Tiller → Tiller) : (s.modTl f).cores = s.cores := rfl
@[simp] theorem State.modTl_clusters (s : State) (f : Tiller → Tiller) : (s.modTl f).clusters = s.clusters := rfl
@[simp] theorem State.modTl_flights (s : State) (f : Tiller → Tiller) : (s.modTl f).flights = s.flights := rfl
@[simp] theorem State.modTl_transit (s : State) (f : Tiller → Tiller) : (s.modTl f).transit = s.transit := rfl
@[simp] theorem State.modTl_resid (s : State) (f : Tiller → Tiller) : (s.modTl f).resid = s.resid := rfl
@[simp] theorem State.modTl_slices (s : State) (f : Tiller → Tiller) : (s.modTl f).slices = s.slices := rfl
@[simp] theorem State.modTl_banks (s : State) (f : Tiller → Tiller) : (s.modTl f).banks = s.banks := rfl
@[simp] theorem State.modTl_dies (s : State) (f : Tiller → Tiller) : (s.modTl f).dies = s.dies := rfl
@[simp] theorem State.modTl_kvepoch (s : State) (f : Tiller → Tiller) : (s.modTl f).kvepoch = s.kvepoch := rfl
@[simp] theorem State.modTl_crtbase (s : State) (f : Tiller → Tiller) : (s.modTl f).crtbase = s.crtbase := rfl
@[simp] theorem State.modTl_aftbase (s : State) (f : Tiller → Tiller) : (s.modTl f).aftbase = s.aftbase := rfl
@[simp] theorem State.modTl_arrays (s : State) (f : Tiller → Tiller) : (s.modTl f).arrays = s.arrays := rfl
@[simp] theorem State.modTl_engines (s : State) (f : Tiller → Tiller) : (s.modTl f).engines = s.engines := rfl
@[simp] theorem State.modTl_links (s : State) (f : Tiller → Tiller) : (s.modTl f).links = s.links := rfl
@[simp] theorem State.modTl_graphs (s : State) (f : Tiller → Tiller) : (s.modTl f).graphs = s.graphs := rfl
@[simp] theorem State.modTl_graphSeq (s : State) (f : Tiller → Tiller) : (s.modTl f).graphSeq = s.graphSeq := rfl
@[simp] theorem State.modTl_served (s : State) (f : Tiller → Tiller) : (s.modTl f).served = s.served := rfl
@[simp] theorem State.modTl_moving (s : State) (f : Tiller → Tiller) : (s.modTl f).moving = s.moving := rfl
@[simp] theorem State.modTl_calls (s : State) (f : Tiller → Tiller) : (s.modTl f).calls = s.calls := rfl
@[simp] theorem State.modTl_waits (s : State) (f : Tiller → Tiller) : (s.modTl f).waits = s.waits := rfl
@[simp] theorem State.modTl_needs (s : State) (f : Tiller → Tiller) : (s.modTl f).needs = s.needs := rfl
@[simp] theorem State.modTl_grant (s : State) (f : Tiller → Tiller) : (s.modTl f).grant = s.grant := rfl
@[simp] theorem State.modTl_later (s : State) (f : Tiller → Tiller) : (s.modTl f).later = s.later := rfl
@[simp] theorem State.modTl_pkg (s : State) (f : Tiller → Tiller) : (s.modTl f).pkg = s.pkg := rfl

/-! ## pushTurn -/

@[simp] theorem State.pushTurn_cur (s : State) (x : Turn) : (s.pushTurn x).cur = s.cur := rfl
@[simp] theorem State.pushTurn_fresh (s : State) (x : Turn) : (s.pushTurn x).fresh = s.fresh := rfl
@[simp] theorem State.pushTurn_now (s : State) (x : Turn) : (s.pushTurn x).now = s.now := rfl
@[simp] theorem State.pushTurn_mem (s : State) (x : Turn) : (s.pushTurn x).mem = s.mem := rfl
@[simp] theorem State.pushTurn_badLines (s : State) (x : Turn) : (s.pushTurn x).badLines = s.badLines := rfl
@[simp] theorem State.pushTurn_tillers (s : State) (x : Turn) : (s.pushTurn x).tillers = s.tillers := rfl
@[simp] theorem State.pushTurn_wgs (s : State) (x : Turn) : (s.pushTurn x).wgs = s.wgs := rfl
@[simp] theorem State.pushTurn_sheaves (s : State) (x : Turn) : (s.pushTurn x).sheaves = s.sheaves := rfl
@[simp] theorem State.pushTurn_launches (s : State) (x : Turn) : (s.pushTurn x).launches = s.launches := rfl
@[simp] theorem State.pushTurn_rcbs (s : State) (x : Turn) : (s.pushTurn x).rcbs = s.rcbs := rfl
@[simp] theorem State.pushTurn_cores (s : State) (x : Turn) : (s.pushTurn x).cores = s.cores := rfl
@[simp] theorem State.pushTurn_clusters (s : State) (x : Turn) : (s.pushTurn x).clusters = s.clusters := rfl
@[simp] theorem State.pushTurn_flights (s : State) (x : Turn) : (s.pushTurn x).flights = s.flights := rfl
@[simp] theorem State.pushTurn_transit (s : State) (x : Turn) : (s.pushTurn x).transit = s.transit := rfl
@[simp] theorem State.pushTurn_resid (s : State) (x : Turn) : (s.pushTurn x).resid = s.resid := rfl
@[simp] theorem State.pushTurn_slices (s : State) (x : Turn) : (s.pushTurn x).slices = s.slices := rfl
@[simp] theorem State.pushTurn_banks (s : State) (x : Turn) : (s.pushTurn x).banks = s.banks := rfl
@[simp] theorem State.pushTurn_dies (s : State) (x : Turn) : (s.pushTurn x).dies = s.dies := rfl
@[simp] theorem State.pushTurn_kvepoch (s : State) (x : Turn) : (s.pushTurn x).kvepoch = s.kvepoch := rfl
@[simp] theorem State.pushTurn_crtbase (s : State) (x : Turn) : (s.pushTurn x).crtbase = s.crtbase := rfl
@[simp] theorem State.pushTurn_aftbase (s : State) (x : Turn) : (s.pushTurn x).aftbase = s.aftbase := rfl
@[simp] theorem State.pushTurn_arrays (s : State) (x : Turn) : (s.pushTurn x).arrays = s.arrays := rfl
@[simp] theorem State.pushTurn_engines (s : State) (x : Turn) : (s.pushTurn x).engines = s.engines := rfl
@[simp] theorem State.pushTurn_links (s : State) (x : Turn) : (s.pushTurn x).links = s.links := rfl
@[simp] theorem State.pushTurn_graphs (s : State) (x : Turn) : (s.pushTurn x).graphs = s.graphs := rfl
@[simp] theorem State.pushTurn_graphSeq (s : State) (x : Turn) : (s.pushTurn x).graphSeq = s.graphSeq := rfl
@[simp] theorem State.pushTurn_served (s : State) (x : Turn) : (s.pushTurn x).served = s.served := rfl
@[simp] theorem State.pushTurn_moving (s : State) (x : Turn) : (s.pushTurn x).moving = s.moving := rfl
@[simp] theorem State.pushTurn_calls (s : State) (x : Turn) : (s.pushTurn x).calls = s.calls := rfl
@[simp] theorem State.pushTurn_waits (s : State) (x : Turn) : (s.pushTurn x).waits = s.waits := rfl
@[simp] theorem State.pushTurn_needs (s : State) (x : Turn) : (s.pushTurn x).needs = s.needs := rfl
@[simp] theorem State.pushTurn_grant (s : State) (x : Turn) : (s.pushTurn x).grant = s.grant := rfl
@[simp] theorem State.pushTurn_later (s : State) (x : Turn) : (s.pushTurn x).later = s.later := rfl
@[simp] theorem State.pushTurn_pkg (s : State) (x : Turn) : (s.pushTurn x).pkg = s.pkg := rfl

/-! ## pushTurns -/

@[simp] theorem State.pushTurns_cur (s : State) (x : List Turn) : (s.pushTurns x).cur = s.cur := rfl
@[simp] theorem State.pushTurns_fresh (s : State) (x : List Turn) : (s.pushTurns x).fresh = s.fresh := rfl
@[simp] theorem State.pushTurns_now (s : State) (x : List Turn) : (s.pushTurns x).now = s.now := rfl
@[simp] theorem State.pushTurns_mem (s : State) (x : List Turn) : (s.pushTurns x).mem = s.mem := rfl
@[simp] theorem State.pushTurns_badLines (s : State) (x : List Turn) : (s.pushTurns x).badLines = s.badLines := rfl
@[simp] theorem State.pushTurns_tillers (s : State) (x : List Turn) : (s.pushTurns x).tillers = s.tillers := rfl
@[simp] theorem State.pushTurns_wgs (s : State) (x : List Turn) : (s.pushTurns x).wgs = s.wgs := rfl
@[simp] theorem State.pushTurns_sheaves (s : State) (x : List Turn) : (s.pushTurns x).sheaves = s.sheaves := rfl
@[simp] theorem State.pushTurns_launches (s : State) (x : List Turn) : (s.pushTurns x).launches = s.launches := rfl
@[simp] theorem State.pushTurns_rcbs (s : State) (x : List Turn) : (s.pushTurns x).rcbs = s.rcbs := rfl
@[simp] theorem State.pushTurns_cores (s : State) (x : List Turn) : (s.pushTurns x).cores = s.cores := rfl
@[simp] theorem State.pushTurns_clusters (s : State) (x : List Turn) : (s.pushTurns x).clusters = s.clusters := rfl
@[simp] theorem State.pushTurns_flights (s : State) (x : List Turn) : (s.pushTurns x).flights = s.flights := rfl
@[simp] theorem State.pushTurns_transit (s : State) (x : List Turn) : (s.pushTurns x).transit = s.transit := rfl
@[simp] theorem State.pushTurns_resid (s : State) (x : List Turn) : (s.pushTurns x).resid = s.resid := rfl
@[simp] theorem State.pushTurns_slices (s : State) (x : List Turn) : (s.pushTurns x).slices = s.slices := rfl
@[simp] theorem State.pushTurns_banks (s : State) (x : List Turn) : (s.pushTurns x).banks = s.banks := rfl
@[simp] theorem State.pushTurns_dies (s : State) (x : List Turn) : (s.pushTurns x).dies = s.dies := rfl
@[simp] theorem State.pushTurns_kvepoch (s : State) (x : List Turn) : (s.pushTurns x).kvepoch = s.kvepoch := rfl
@[simp] theorem State.pushTurns_crtbase (s : State) (x : List Turn) : (s.pushTurns x).crtbase = s.crtbase := rfl
@[simp] theorem State.pushTurns_aftbase (s : State) (x : List Turn) : (s.pushTurns x).aftbase = s.aftbase := rfl
@[simp] theorem State.pushTurns_arrays (s : State) (x : List Turn) : (s.pushTurns x).arrays = s.arrays := rfl
@[simp] theorem State.pushTurns_engines (s : State) (x : List Turn) : (s.pushTurns x).engines = s.engines := rfl
@[simp] theorem State.pushTurns_links (s : State) (x : List Turn) : (s.pushTurns x).links = s.links := rfl
@[simp] theorem State.pushTurns_graphs (s : State) (x : List Turn) : (s.pushTurns x).graphs = s.graphs := rfl
@[simp] theorem State.pushTurns_graphSeq (s : State) (x : List Turn) : (s.pushTurns x).graphSeq = s.graphSeq := rfl
@[simp] theorem State.pushTurns_served (s : State) (x : List Turn) : (s.pushTurns x).served = s.served := rfl
@[simp] theorem State.pushTurns_moving (s : State) (x : List Turn) : (s.pushTurns x).moving = s.moving := rfl
@[simp] theorem State.pushTurns_calls (s : State) (x : List Turn) : (s.pushTurns x).calls = s.calls := rfl
@[simp] theorem State.pushTurns_waits (s : State) (x : List Turn) : (s.pushTurns x).waits = s.waits := rfl
@[simp] theorem State.pushTurns_needs (s : State) (x : List Turn) : (s.pushTurns x).needs = s.needs := rfl
@[simp] theorem State.pushTurns_grant (s : State) (x : List Turn) : (s.pushTurns x).grant = s.grant := rfl
@[simp] theorem State.pushTurns_later (s : State) (x : List Turn) : (s.pushTurns x).later = s.later := rfl
@[simp] theorem State.pushTurns_pkg (s : State) (x : List Turn) : (s.pushTurns x).pkg = s.pkg := rfl

/-! ## What the accessors read -/

@[simp] theorem State.setTiller_tiller (s : State) (n : Nat) (x : Tiller) : (s.setTiller n x).tiller n = x := tget_tput_same _ _ _ _
theorem State.setTiller_tiller_ne (s : State) {n k : Nat} (x : Tiller) (h : k ≠ n) : (s.setTiller n x).tiller k = s.tiller k := tget_tput_ne _ _ _ h
@[simp] theorem State.setCore_core (s : State) (n : Nat) (x : Core) : (s.setCore n x).core n = x := tget_tput_same _ _ _ _
theorem State.setCore_core_ne (s : State) {n k : Nat} (x : Core) (h : k ≠ n) : (s.setCore n x).core k = s.core k := tget_tput_ne _ _ _ h
@[simp] theorem State.setCluster_cluster (s : State) (n : Nat) (x : Cluster) : (s.setCluster n x).cluster n = x := tget_tput_same _ _ _ _
theorem State.setCluster_cluster_ne (s : State) {n k : Nat} (x : Cluster) (h : k ≠ n) : (s.setCluster n x).cluster k = s.cluster k := tget_tput_ne _ _ _ h
@[simp] theorem State.setSheaf_sheaf (s : State) (n : Nat) (x : Sheaf) : (s.setSheaf n x).sheaf n = x := tget_tput_same _ _ _ _
theorem State.setSheaf_sheaf_ne (s : State) {n k : Nat} (x : Sheaf) (h : k ≠ n) : (s.setSheaf n x).sheaf k = s.sheaf k := tget_tput_ne _ _ _ h
@[simp] theorem State.setLaunch_launch (s : State) (n : Nat) (x : Launch) : (s.setLaunch n x).launch n = x := tget_tput_same _ _ _ _
theorem State.setLaunch_launch_ne (s : State) {n k : Nat} (x : Launch) (h : k ≠ n) : (s.setLaunch n x).launch k = s.launch k := tget_tput_ne _ _ _ h
@[simp] theorem State.setArray_array (s : State) (n : Nat) (x : ArrayUnit) : (s.setArray n x).array n = x := tget_tput_same _ _ _ _
theorem State.setArray_array_ne (s : State) {n k : Nat} (x : ArrayUnit) (h : k ≠ n) : (s.setArray n x).array k = s.array k := tget_tput_ne _ _ _ h
@[simp] theorem State.setEngine_engine (s : State) (n : Nat) (x : Engine) : (s.setEngine n x).engine n = x := tget_tput_same _ _ _ _
theorem State.setEngine_engine_ne (s : State) {n k : Nat} (x : Engine) (h : k ≠ n) : (s.setEngine n x).engine k = s.engine k := tget_tput_ne _ _ _ h
@[simp] theorem State.setWg_wg (s : State) (n : Nat) (x : Wg) : (s.setWg n x).wg n = x := tget_tput_same _ _ _ _
theorem State.setWg_wg_ne (s : State) {n k : Nat} (x : Wg) (h : k ≠ n) : (s.setWg n x).wg k = s.wg k := tget_tput_ne _ _ _ h
@[simp] theorem State.setSlice_slice (s : State) (n : Nat) (x : Slice) : (s.setSlice n x).slice n = x := tget_tput_same _ _ _ _
theorem State.setSlice_slice_ne (s : State) {n k : Nat} (x : Slice) (h : k ≠ n) : (s.setSlice n x).slice k = s.slice k := tget_tput_ne _ _ _ h
@[simp] theorem State.setFlight_flight (s : State) (n : Nat) (x : Flight) : (s.setFlight n x).flight n = x := tget_tput_same _ _ _ _
theorem State.setFlight_flight_ne (s : State) {n k : Nat} (x : Flight) (h : k ≠ n) : (s.setFlight n x).flight k = s.flight k := tget_tput_ne _ _ _ h
@[simp] theorem State.setBank_bank (s : State) (n : Nat) (x : Bank) : (s.setBank n x).bank n = x := tget_tput_same _ _ _ _
theorem State.setBank_bank_ne (s : State) {n k : Nat} (x : Bank) (h : k ≠ n) : (s.setBank n x).bank k = s.bank k := tget_tput_ne _ _ _ h
@[simp] theorem State.setRes_res (s : State) (n : Nat) (x : ResEntry) : (s.setRes n x).res n = x := tget_tput_same _ _ _ _
theorem State.setRes_res_ne (s : State) {n k : Nat} (x : ResEntry) (h : k ≠ n) : (s.setRes n x).res k = s.res k := tget_tput_ne _ _ _ h

@[simp] theorem State.setTl_tl (s : State) (x : Tiller) : (s.setTl x).tl = x := tget_tput_same _ _ _ _
@[simp] theorem State.modTl_tl (s : State) (f : Tiller → Tiller) : (s.modTl f).tl = f s.tl := tget_tput_same _ _ _ _

/-! ## Registers of a tiller -/

@[simp] theorem Tiller.ws_live (t : Tiller) (r : SReg) (x : Word) : (t.ws r x).live = t.live := by unfold Tiller.ws; split <;> rfl
@[simp] theorem Tiller.ws_sheaf (t : Tiller) (r : SReg) (x : Word) : (t.ws r x).sheaf = t.sheaf := by unfold Tiller.ws; split <;> rfl
@[simp] theorem Tiller.ws_rank (t : Tiller) (r : SReg) (x : Word) : (t.ws r x).rank = t.rank := by unfold Tiller.ws; split <;> rfl
@[simp] theorem Tiller.ws_num (t : Tiller) (r : SReg) (x : Word) : (t.ws r x).num = t.num := by unfold Tiller.ws; split <;> rfl
@[simp] theorem Tiller.ws_steward (t : Tiller) (r : SReg) (x : Word) : (t.ws r x).steward = t.steward := by unfold Tiller.ws; split <;> rfl
@[simp] theorem Tiller.ws_v (t : Tiller) (r : SReg) (x : Word) : (t.ws r x).v = t.v := by unfold Tiller.ws; split <;> rfl
@[simp] theorem Tiller.ws_m (t : Tiller) (r : SReg) (x : Word) : (t.ws r x).m = t.m := by unfold Tiller.ws; split <;> rfl
@[simp] theorem Tiller.ws_a (t : Tiller) (r : SReg) (x : Word) : (t.ws r x).a = t.a := by unfold Tiller.ws; split <;> rfl
@[simp] theorem Tiller.ws_flags (t : Tiller) (r : SReg) (x : Word) : (t.ws r x).flags = t.flags := by unfold Tiller.ws; split <;> rfl
@[simp] theorem Tiller.ws_widx (t : Tiller) (r : SReg) (x : Word) : (t.ws r x).widx = t.widx := by unfold Tiller.ws; split <;> rfl
@[simp] theorem Tiller.ws_cln (t : Tiller) (r : SReg) (x : Word) : (t.ws r x).cln = t.cln := by unfold Tiller.ws; split <;> rfl
@[simp] theorem Tiller.ws_clk (t : Tiller) (r : SReg) (x : Word) : (t.ws r x).clk = t.clk := by unfold Tiller.ws; split <;> rfl
@[simp] theorem Tiller.ws_rslot (t : Tiller) (r : SReg) (x : Word) : (t.ws r x).rslot = t.rslot := by unfold Tiller.ws; split <;> rfl
@[simp] theorem Tiller.ws_hnd (t : Tiller) (r : SReg) (x : Word) : (t.ws r x).hnd = t.hnd := by unfold Tiller.ws; split <;> rfl
@[simp] theorem Tiller.ws_pwinTrap (t : Tiller) (r : SReg) (x : Word) : (t.ws r x).pwinTrap = t.pwinTrap := by unfold Tiller.ws; split <;> rfl
@[simp] theorem Tiller.ws_reqCap (t : Tiller) (r : SReg) (x : Word) : (t.ws r x).reqCap = t.reqCap := by unfold Tiller.ws; split <;> rfl
@[simp] theorem Tiller.ws_tcause (t : Tiller) (r : SReg) (x : Word) : (t.ws r x).tcause = t.tcause := by unfold Tiller.ws; split <;> rfl
@[simp] theorem Tiller.ws_tpc (t : Tiller) (r : SReg) (x : Word) : (t.ws r x).tpc = t.tpc := by unfold Tiller.ws; split <;> rfl
@[simp] theorem Tiller.ws_tinfo0 (t : Tiller) (r : SReg) (x : Word) : (t.ws r x).tinfo0 = t.tinfo0 := by unfold Tiller.ws; split <;> rfl
@[simp] theorem Tiller.ws_tinfo1 (t : Tiller) (r : SReg) (x : Word) : (t.ws r x).tinfo1 = t.tinfo1 := by unfold Tiller.ws; split <;> rfl
@[simp] theorem Tiller.ws_lanes (t : Tiller) (r : SReg) (x : Word) : (t.ws r x).lanes = t.lanes := by unfold Tiller.ws; split <;> rfl
@[simp] theorem Tiller.ws_repcnt (t : Tiller) (r : SReg) (x : Word) : (t.ws r x).repcnt = t.repcnt := by unfold Tiller.ws; split <;> rfl
@[simp] theorem Tiller.ws_slotA (t : Tiller) (r : SReg) (x : Word) : (t.ws r x).slotA = t.slotA := by unfold Tiller.ws; split <;> rfl
@[simp] theorem Tiller.ws_slotB (t : Tiller) (r : SReg) (x : Word) : (t.ws r x).slotB = t.slotB := by unfold Tiller.ws; split <;> rfl
@[simp] theorem Tiller.ws_head (t : Tiller) (r : SReg) (x : Word) : (t.ws r x).head = t.head := by unfold Tiller.ws; split <;> rfl
@[simp] theorem Tiller.ws_count (t : Tiller) (r : SReg) (x : Word) : (t.ws r x).count = t.count := by unfold Tiller.ws; split <;> rfl
@[simp] theorem Tiller.ws_lastB (t : Tiller) (r : SReg) (x : Word) : (t.ws r x).lastB = t.lastB := by unfold Tiller.ws; split <;> rfl
@[simp] theorem Tiller.ws_hpc (t : Tiller) (r : SReg) (x : Word) : (t.ws r x).hpc = t.hpc := by unfold Tiller.ws; split <;> rfl
@[simp] theorem Tiller.ws_run (t : Tiller) (r : SReg) (x : Word) : (t.ws r x).run = t.run := by unfold Tiller.ws; split <;> rfl
@[simp] theorem Tiller.ws_pend (t : Tiller) (r : SReg) (x : Word) : (t.ws r x).pend = t.pend := by unfold Tiller.ws; split <;> rfl
@[simp] theorem Tiller.ws_block (t : Tiller) (r : SReg) (x : Word) : (t.ws r x).block = t.block := by unfold Tiller.ws; split <;> rfl
@[simp] theorem Tiller.ws_parkP (t : Tiller) (r : SReg) (x : Word) : (t.ws r x).parkP = t.parkP := by unfold Tiller.ws; split <;> rfl
@[simp] theorem Tiller.ws_step (t : Tiller) (r : SReg) (x : Word) : (t.ws r x).step = t.step := by unfold Tiller.ws; split <;> rfl
@[simp] theorem Tiller.ws_exited (t : Tiller) (r : SReg) (x : Word) : (t.ws r x).exited = t.exited := by unfold Tiller.ws; split <;> rfl
@[simp] theorem Tiller.ws_halt (t : Tiller) (r : SReg) (x : Word) : (t.ws r x).halt = t.halt := by unfold Tiller.ws; split <;> rfl
@[simp] theorem Tiller.ws_errs (t : Tiller) (r : SReg) (x : Word) : (t.ws r x).errs = t.errs := by unfold Tiller.ws; split <;> rfl
@[simp] theorem Tiller.ws_ng (t : Tiller) (r : SReg) (x : Word) : (t.ws r x).ng = t.ng := by unfold Tiller.ws; split <;> rfl
@[simp] theorem Tiller.ws_depth (t : Tiller) (r : SReg) (x : Word) : (t.ws r x).depth = t.depth := by unfold Tiller.ws; split <;> rfl
@[simp] theorem Tiller.ws_area (t : Tiller) (r : SReg) (x : Word) : (t.ws r x).area = t.area := by unfold Tiller.ws; split <;> rfl
@[simp] theorem Tiller.ws_frame (t : Tiller) (r : SReg) (x : Word) : (t.ws r x).frame = t.frame := by unfold Tiller.ws; split <;> rfl
@[simp] theorem Tiller.ws_resumev (t : Tiller) (r : SReg) (x : Word) : (t.ws r x).resumev = t.resumev := by unfold Tiller.ws; split <;> rfl
@[simp] theorem Tiller.ws_notify (t : Tiller) (r : SReg) (x : Word) : (t.ws r x).notify = t.notify := by unfold Tiller.ws; split <;> rfl
@[simp] theorem Tiller.ws_watches (t : Tiller) (r : SReg) (x : Word) : (t.ws r x).watches = t.watches := by unfold Tiller.ws; split <;> rfl
@[simp] theorem Tiller.ws_demoted (t : Tiller) (r : SReg) (x : Word) : (t.ws r x).demoted = t.demoted := by unfold Tiller.ws; split <;> rfl
@[simp] theorem Tiller.ws_gapEnd (t : Tiller) (r : SReg) (x : Word) : (t.ws r x).gapEnd = t.gapEnd := by unfold Tiller.ws; split <;> rfl
@[simp] theorem Tiller.ws_elig (t : Tiller) (r : SReg) (x : Word) : (t.ws r x).elig = t.elig := by unfold Tiller.ws; split <;> rfl
@[simp] theorem Tiller.ws_wait (t : Tiller) (r : SReg) (x : Word) : (t.ws r x).wait = t.wait := by unfold Tiller.ws; split <;> rfl
@[simp] theorem Tiller.ws_late (t : Tiller) (r : SReg) (x : Word) : (t.ws r x).late = t.late := by unfold Tiller.ws; split <;> rfl
@[simp] theorem Tiller.ws_defer (t : Tiller) (r : SReg) (x : Word) : (t.ws r x).defer = t.defer := by unfold Tiller.ws; split <;> rfl
@[simp] theorem Tiller.ws_released (t : Tiller) (r : SReg) (x : Word) : (t.ws r x).released = t.released := by unfold Tiller.ws; split <;> rfl
@[simp] theorem Tiller.ws_withheld (t : Tiller) (r : SReg) (x : Word) : (t.ws r x).withheld = t.withheld := by unfold Tiller.ws; split <;> rfl
@[simp] theorem Tiller.ws_overdue (t : Tiller) (r : SReg) (x : Word) : (t.ws r x).overdue = t.overdue := by unfold Tiller.ws; split <;> rfl
@[simp] theorem Tiller.ws_again (t : Tiller) (r : SReg) (x : Word) : (t.ws r x).again = t.again := by unfold Tiller.ws; split <;> rfl
@[simp] theorem Tiller.ws_ran (t : Tiller) (r : SReg) (x : Word) : (t.ws r x).ran = t.ran := by unfold Tiller.ws; split <;> rfl
@[simp] theorem Tiller.ws_vtag (t : Tiller) (r : SReg) (x : Word) : (t.ws r x).vtag = t.vtag := by unfold Tiller.ws; split <;> rfl
@[simp] theorem Tiller.wm_live (t : Tiller) (r : MReg) (x : Word) : (t.wm r x).live = t.live := by unfold Tiller.wm; split <;> rfl
@[simp] theorem Tiller.wm_sheaf (t : Tiller) (r : MReg) (x : Word) : (t.wm r x).sheaf = t.sheaf := by unfold Tiller.wm; split <;> rfl
@[simp] theorem Tiller.wm_rank (t : Tiller) (r : MReg) (x : Word) : (t.wm r x).rank = t.rank := by unfold Tiller.wm; split <;> rfl
@[simp] theorem Tiller.wm_num (t : Tiller) (r : MReg) (x : Word) : (t.wm r x).num = t.num := by unfold Tiller.wm; split <;> rfl
@[simp] theorem Tiller.wm_steward (t : Tiller) (r : MReg) (x : Word) : (t.wm r x).steward = t.steward := by unfold Tiller.wm; split <;> rfl
@[simp] theorem Tiller.wm_s (t : Tiller) (r : MReg) (x : Word) : (t.wm r x).s = t.s := by unfold Tiller.wm; split <;> rfl
@[simp] theorem Tiller.wm_v (t : Tiller) (r : MReg) (x : Word) : (t.wm r x).v = t.v := by unfold Tiller.wm; split <;> rfl
@[simp] theorem Tiller.wm_a (t : Tiller) (r : MReg) (x : Word) : (t.wm r x).a = t.a := by unfold Tiller.wm; split <;> rfl
@[simp] theorem Tiller.wm_flags (t : Tiller) (r : MReg) (x : Word) : (t.wm r x).flags = t.flags := by unfold Tiller.wm; split <;> rfl
@[simp] theorem Tiller.wm_widx (t : Tiller) (r : MReg) (x : Word) : (t.wm r x).widx = t.widx := by unfold Tiller.wm; split <;> rfl
@[simp] theorem Tiller.wm_cln (t : Tiller) (r : MReg) (x : Word) : (t.wm r x).cln = t.cln := by unfold Tiller.wm; split <;> rfl
@[simp] theorem Tiller.wm_clk (t : Tiller) (r : MReg) (x : Word) : (t.wm r x).clk = t.clk := by unfold Tiller.wm; split <;> rfl
@[simp] theorem Tiller.wm_rslot (t : Tiller) (r : MReg) (x : Word) : (t.wm r x).rslot = t.rslot := by unfold Tiller.wm; split <;> rfl
@[simp] theorem Tiller.wm_hnd (t : Tiller) (r : MReg) (x : Word) : (t.wm r x).hnd = t.hnd := by unfold Tiller.wm; split <;> rfl
@[simp] theorem Tiller.wm_pwinTrap (t : Tiller) (r : MReg) (x : Word) : (t.wm r x).pwinTrap = t.pwinTrap := by unfold Tiller.wm; split <;> rfl
@[simp] theorem Tiller.wm_reqCap (t : Tiller) (r : MReg) (x : Word) : (t.wm r x).reqCap = t.reqCap := by unfold Tiller.wm; split <;> rfl
@[simp] theorem Tiller.wm_tcause (t : Tiller) (r : MReg) (x : Word) : (t.wm r x).tcause = t.tcause := by unfold Tiller.wm; split <;> rfl
@[simp] theorem Tiller.wm_tpc (t : Tiller) (r : MReg) (x : Word) : (t.wm r x).tpc = t.tpc := by unfold Tiller.wm; split <;> rfl
@[simp] theorem Tiller.wm_tinfo0 (t : Tiller) (r : MReg) (x : Word) : (t.wm r x).tinfo0 = t.tinfo0 := by unfold Tiller.wm; split <;> rfl
@[simp] theorem Tiller.wm_tinfo1 (t : Tiller) (r : MReg) (x : Word) : (t.wm r x).tinfo1 = t.tinfo1 := by unfold Tiller.wm; split <;> rfl
@[simp] theorem Tiller.wm_lanes (t : Tiller) (r : MReg) (x : Word) : (t.wm r x).lanes = t.lanes := by unfold Tiller.wm; split <;> rfl
@[simp] theorem Tiller.wm_repcnt (t : Tiller) (r : MReg) (x : Word) : (t.wm r x).repcnt = t.repcnt := by unfold Tiller.wm; split <;> rfl
@[simp] theorem Tiller.wm_slotA (t : Tiller) (r : MReg) (x : Word) : (t.wm r x).slotA = t.slotA := by unfold Tiller.wm; split <;> rfl
@[simp] theorem Tiller.wm_slotB (t : Tiller) (r : MReg) (x : Word) : (t.wm r x).slotB = t.slotB := by unfold Tiller.wm; split <;> rfl
@[simp] theorem Tiller.wm_head (t : Tiller) (r : MReg) (x : Word) : (t.wm r x).head = t.head := by unfold Tiller.wm; split <;> rfl
@[simp] theorem Tiller.wm_count (t : Tiller) (r : MReg) (x : Word) : (t.wm r x).count = t.count := by unfold Tiller.wm; split <;> rfl
@[simp] theorem Tiller.wm_lastB (t : Tiller) (r : MReg) (x : Word) : (t.wm r x).lastB = t.lastB := by unfold Tiller.wm; split <;> rfl
@[simp] theorem Tiller.wm_hpc (t : Tiller) (r : MReg) (x : Word) : (t.wm r x).hpc = t.hpc := by unfold Tiller.wm; split <;> rfl
@[simp] theorem Tiller.wm_run (t : Tiller) (r : MReg) (x : Word) : (t.wm r x).run = t.run := by unfold Tiller.wm; split <;> rfl
@[simp] theorem Tiller.wm_pend (t : Tiller) (r : MReg) (x : Word) : (t.wm r x).pend = t.pend := by unfold Tiller.wm; split <;> rfl
@[simp] theorem Tiller.wm_block (t : Tiller) (r : MReg) (x : Word) : (t.wm r x).block = t.block := by unfold Tiller.wm; split <;> rfl
@[simp] theorem Tiller.wm_parkP (t : Tiller) (r : MReg) (x : Word) : (t.wm r x).parkP = t.parkP := by unfold Tiller.wm; split <;> rfl
@[simp] theorem Tiller.wm_step (t : Tiller) (r : MReg) (x : Word) : (t.wm r x).step = t.step := by unfold Tiller.wm; split <;> rfl
@[simp] theorem Tiller.wm_exited (t : Tiller) (r : MReg) (x : Word) : (t.wm r x).exited = t.exited := by unfold Tiller.wm; split <;> rfl
@[simp] theorem Tiller.wm_halt (t : Tiller) (r : MReg) (x : Word) : (t.wm r x).halt = t.halt := by unfold Tiller.wm; split <;> rfl
@[simp] theorem Tiller.wm_errs (t : Tiller) (r : MReg) (x : Word) : (t.wm r x).errs = t.errs := by unfold Tiller.wm; split <;> rfl
@[simp] theorem Tiller.wm_ng (t : Tiller) (r : MReg) (x : Word) : (t.wm r x).ng = t.ng := by unfold Tiller.wm; split <;> rfl
@[simp] theorem Tiller.wm_depth (t : Tiller) (r : MReg) (x : Word) : (t.wm r x).depth = t.depth := by unfold Tiller.wm; split <;> rfl
@[simp] theorem Tiller.wm_area (t : Tiller) (r : MReg) (x : Word) : (t.wm r x).area = t.area := by unfold Tiller.wm; split <;> rfl
@[simp] theorem Tiller.wm_frame (t : Tiller) (r : MReg) (x : Word) : (t.wm r x).frame = t.frame := by unfold Tiller.wm; split <;> rfl
@[simp] theorem Tiller.wm_resumev (t : Tiller) (r : MReg) (x : Word) : (t.wm r x).resumev = t.resumev := by unfold Tiller.wm; split <;> rfl
@[simp] theorem Tiller.wm_notify (t : Tiller) (r : MReg) (x : Word) : (t.wm r x).notify = t.notify := by unfold Tiller.wm; split <;> rfl
@[simp] theorem Tiller.wm_watches (t : Tiller) (r : MReg) (x : Word) : (t.wm r x).watches = t.watches := by unfold Tiller.wm; split <;> rfl
@[simp] theorem Tiller.wm_demoted (t : Tiller) (r : MReg) (x : Word) : (t.wm r x).demoted = t.demoted := by unfold Tiller.wm; split <;> rfl
@[simp] theorem Tiller.wm_gapEnd (t : Tiller) (r : MReg) (x : Word) : (t.wm r x).gapEnd = t.gapEnd := by unfold Tiller.wm; split <;> rfl
@[simp] theorem Tiller.wm_elig (t : Tiller) (r : MReg) (x : Word) : (t.wm r x).elig = t.elig := by unfold Tiller.wm; split <;> rfl
@[simp] theorem Tiller.wm_wait (t : Tiller) (r : MReg) (x : Word) : (t.wm r x).wait = t.wait := by unfold Tiller.wm; split <;> rfl
@[simp] theorem Tiller.wm_late (t : Tiller) (r : MReg) (x : Word) : (t.wm r x).late = t.late := by unfold Tiller.wm; split <;> rfl
@[simp] theorem Tiller.wm_defer (t : Tiller) (r : MReg) (x : Word) : (t.wm r x).defer = t.defer := by unfold Tiller.wm; split <;> rfl
@[simp] theorem Tiller.wm_released (t : Tiller) (r : MReg) (x : Word) : (t.wm r x).released = t.released := by unfold Tiller.wm; split <;> rfl
@[simp] theorem Tiller.wm_withheld (t : Tiller) (r : MReg) (x : Word) : (t.wm r x).withheld = t.withheld := by unfold Tiller.wm; split <;> rfl
@[simp] theorem Tiller.wm_overdue (t : Tiller) (r : MReg) (x : Word) : (t.wm r x).overdue = t.overdue := by unfold Tiller.wm; split <;> rfl
@[simp] theorem Tiller.wm_again (t : Tiller) (r : MReg) (x : Word) : (t.wm r x).again = t.again := by unfold Tiller.wm; split <;> rfl
@[simp] theorem Tiller.wm_ran (t : Tiller) (r : MReg) (x : Word) : (t.wm r x).ran = t.ran := by unfold Tiller.wm; split <;> rfl
@[simp] theorem Tiller.wm_vtag (t : Tiller) (r : MReg) (x : Word) : (t.wm r x).vtag = t.vtag := by unfold Tiller.wm; split <;> rfl
@[simp] theorem Tiller.wv_live (t : Tiller) (r : VNum) (x : VReg) : (t.wv r x).live = t.live := rfl
@[simp] theorem Tiller.wv_sheaf (t : Tiller) (r : VNum) (x : VReg) : (t.wv r x).sheaf = t.sheaf := rfl
@[simp] theorem Tiller.wv_rank (t : Tiller) (r : VNum) (x : VReg) : (t.wv r x).rank = t.rank := rfl
@[simp] theorem Tiller.wv_num (t : Tiller) (r : VNum) (x : VReg) : (t.wv r x).num = t.num := rfl
@[simp] theorem Tiller.wv_steward (t : Tiller) (r : VNum) (x : VReg) : (t.wv r x).steward = t.steward := rfl
@[simp] theorem Tiller.wv_s (t : Tiller) (r : VNum) (x : VReg) : (t.wv r x).s = t.s := rfl
@[simp] theorem Tiller.wv_m (t : Tiller) (r : VNum) (x : VReg) : (t.wv r x).m = t.m := rfl
@[simp] theorem Tiller.wv_a (t : Tiller) (r : VNum) (x : VReg) : (t.wv r x).a = t.a := rfl
@[simp] theorem Tiller.wv_flags (t : Tiller) (r : VNum) (x : VReg) : (t.wv r x).flags = t.flags := rfl
@[simp] theorem Tiller.wv_widx (t : Tiller) (r : VNum) (x : VReg) : (t.wv r x).widx = t.widx := rfl
@[simp] theorem Tiller.wv_cln (t : Tiller) (r : VNum) (x : VReg) : (t.wv r x).cln = t.cln := rfl
@[simp] theorem Tiller.wv_clk (t : Tiller) (r : VNum) (x : VReg) : (t.wv r x).clk = t.clk := rfl
@[simp] theorem Tiller.wv_rslot (t : Tiller) (r : VNum) (x : VReg) : (t.wv r x).rslot = t.rslot := rfl
@[simp] theorem Tiller.wv_hnd (t : Tiller) (r : VNum) (x : VReg) : (t.wv r x).hnd = t.hnd := rfl
@[simp] theorem Tiller.wv_pwinTrap (t : Tiller) (r : VNum) (x : VReg) : (t.wv r x).pwinTrap = t.pwinTrap := rfl
@[simp] theorem Tiller.wv_reqCap (t : Tiller) (r : VNum) (x : VReg) : (t.wv r x).reqCap = t.reqCap := rfl
@[simp] theorem Tiller.wv_tcause (t : Tiller) (r : VNum) (x : VReg) : (t.wv r x).tcause = t.tcause := rfl
@[simp] theorem Tiller.wv_tpc (t : Tiller) (r : VNum) (x : VReg) : (t.wv r x).tpc = t.tpc := rfl
@[simp] theorem Tiller.wv_tinfo0 (t : Tiller) (r : VNum) (x : VReg) : (t.wv r x).tinfo0 = t.tinfo0 := rfl
@[simp] theorem Tiller.wv_tinfo1 (t : Tiller) (r : VNum) (x : VReg) : (t.wv r x).tinfo1 = t.tinfo1 := rfl
@[simp] theorem Tiller.wv_lanes (t : Tiller) (r : VNum) (x : VReg) : (t.wv r x).lanes = t.lanes := rfl
@[simp] theorem Tiller.wv_repcnt (t : Tiller) (r : VNum) (x : VReg) : (t.wv r x).repcnt = t.repcnt := rfl
@[simp] theorem Tiller.wv_slotA (t : Tiller) (r : VNum) (x : VReg) : (t.wv r x).slotA = t.slotA := rfl
@[simp] theorem Tiller.wv_slotB (t : Tiller) (r : VNum) (x : VReg) : (t.wv r x).slotB = t.slotB := rfl
@[simp] theorem Tiller.wv_head (t : Tiller) (r : VNum) (x : VReg) : (t.wv r x).head = t.head := rfl
@[simp] theorem Tiller.wv_count (t : Tiller) (r : VNum) (x : VReg) : (t.wv r x).count = t.count := rfl
@[simp] theorem Tiller.wv_lastB (t : Tiller) (r : VNum) (x : VReg) : (t.wv r x).lastB = t.lastB := rfl
@[simp] theorem Tiller.wv_hpc (t : Tiller) (r : VNum) (x : VReg) : (t.wv r x).hpc = t.hpc := rfl
@[simp] theorem Tiller.wv_run (t : Tiller) (r : VNum) (x : VReg) : (t.wv r x).run = t.run := rfl
@[simp] theorem Tiller.wv_pend (t : Tiller) (r : VNum) (x : VReg) : (t.wv r x).pend = t.pend := rfl
@[simp] theorem Tiller.wv_block (t : Tiller) (r : VNum) (x : VReg) : (t.wv r x).block = t.block := rfl
@[simp] theorem Tiller.wv_parkP (t : Tiller) (r : VNum) (x : VReg) : (t.wv r x).parkP = t.parkP := rfl
@[simp] theorem Tiller.wv_step (t : Tiller) (r : VNum) (x : VReg) : (t.wv r x).step = t.step := rfl
@[simp] theorem Tiller.wv_exited (t : Tiller) (r : VNum) (x : VReg) : (t.wv r x).exited = t.exited := rfl
@[simp] theorem Tiller.wv_halt (t : Tiller) (r : VNum) (x : VReg) : (t.wv r x).halt = t.halt := rfl
@[simp] theorem Tiller.wv_errs (t : Tiller) (r : VNum) (x : VReg) : (t.wv r x).errs = t.errs := rfl
@[simp] theorem Tiller.wv_ng (t : Tiller) (r : VNum) (x : VReg) : (t.wv r x).ng = t.ng := rfl
@[simp] theorem Tiller.wv_depth (t : Tiller) (r : VNum) (x : VReg) : (t.wv r x).depth = t.depth := rfl
@[simp] theorem Tiller.wv_area (t : Tiller) (r : VNum) (x : VReg) : (t.wv r x).area = t.area := rfl
@[simp] theorem Tiller.wv_frame (t : Tiller) (r : VNum) (x : VReg) : (t.wv r x).frame = t.frame := rfl
@[simp] theorem Tiller.wv_resumev (t : Tiller) (r : VNum) (x : VReg) : (t.wv r x).resumev = t.resumev := rfl
@[simp] theorem Tiller.wv_notify (t : Tiller) (r : VNum) (x : VReg) : (t.wv r x).notify = t.notify := rfl
@[simp] theorem Tiller.wv_watches (t : Tiller) (r : VNum) (x : VReg) : (t.wv r x).watches = t.watches := rfl
@[simp] theorem Tiller.wv_demoted (t : Tiller) (r : VNum) (x : VReg) : (t.wv r x).demoted = t.demoted := rfl
@[simp] theorem Tiller.wv_gapEnd (t : Tiller) (r : VNum) (x : VReg) : (t.wv r x).gapEnd = t.gapEnd := rfl
@[simp] theorem Tiller.wv_elig (t : Tiller) (r : VNum) (x : VReg) : (t.wv r x).elig = t.elig := rfl
@[simp] theorem Tiller.wv_wait (t : Tiller) (r : VNum) (x : VReg) : (t.wv r x).wait = t.wait := rfl
@[simp] theorem Tiller.wv_late (t : Tiller) (r : VNum) (x : VReg) : (t.wv r x).late = t.late := rfl
@[simp] theorem Tiller.wv_defer (t : Tiller) (r : VNum) (x : VReg) : (t.wv r x).defer = t.defer := rfl
@[simp] theorem Tiller.wv_released (t : Tiller) (r : VNum) (x : VReg) : (t.wv r x).released = t.released := rfl
@[simp] theorem Tiller.wv_withheld (t : Tiller) (r : VNum) (x : VReg) : (t.wv r x).withheld = t.withheld := rfl
@[simp] theorem Tiller.wv_overdue (t : Tiller) (r : VNum) (x : VReg) : (t.wv r x).overdue = t.overdue := rfl
@[simp] theorem Tiller.wv_again (t : Tiller) (r : VNum) (x : VReg) : (t.wv r x).again = t.again := rfl
@[simp] theorem Tiller.wv_ran (t : Tiller) (r : VNum) (x : VReg) : (t.wv r x).ran = t.ran := rfl
@[simp] theorem Tiller.wv_vtag (t : Tiller) (r : VNum) (x : VReg) : (t.wv r x).vtag = t.vtag := rfl

/-- The scalar that reads as zero (R113). -/
@[simp] theorem Tiller.rs_zero (t : Tiller) : t.rs 0 = 0 := rfl
/-- The mask register that reads as all ones (R115). -/
@[simp] theorem Tiller.rm_zero (t : Tiller) : t.rm 0 = 0xFFFFFFFF := rfl

/-- A scalar written reads back, but for s0. -/
theorem Tiller.rs_ws (t : Tiller) (r : SReg) (x : Word) (h : r ≠ 0) : (t.ws r x).rs r = x := by
  unfold Tiller.ws Tiller.rs; rw [if_neg h, if_neg h]; exact tget_tput_same _ _ _ _

/-- A scalar written leaves the others alone. -/
theorem Tiller.rs_ws_ne (t : Tiller) {r q : SReg} (x : Word) (h : q ≠ r) : (t.ws r x).rs q = t.rs q := by
  unfold Tiller.ws
  split
  · rfl
  · have hn : q.toNat ≠ r.toNat := fun e => h (BitVec.eq_of_toNat_eq e)
    simp only [Tiller.rs, tget_tput_ne _ _ _ hn]

/-- A write of s0 is discarded (R33). -/
@[simp] theorem Tiller.ws_zero (t : Tiller) (x : Word) : t.ws 0 x = t := rfl

/-- A mask written reads back, but for m0. -/
theorem Tiller.rm_wm (t : Tiller) (r : MReg) (x : Word) (h : r ≠ 0) : (t.wm r x).rm r = x := by
  unfold Tiller.wm Tiller.rm; rw [if_neg h, if_neg h]; exact tget_tput_same _ _ _ _

/-- A mask written leaves the others alone. -/
theorem Tiller.rm_wm_ne (t : Tiller) {r q : MReg} (x : Word) (h : q ≠ r) : (t.wm r x).rm q = t.rm q := by
  unfold Tiller.wm
  split
  · rfl
  · have hn : q.toNat ≠ r.toNat := fun e => h (BitVec.eq_of_toNat_eq e)
    simp only [Tiller.rm, tget_tput_ne _ _ _ hn]

/-- A vector written reads back. -/
@[simp] theorem Tiller.rv_wv (t : Tiller) (r : VNum) (x : VReg) : (t.wv r x).rv r = x := tget_tput_same _ _ _ _

/-- A vector written leaves the others alone. -/
theorem Tiller.rv_wv_ne (t : Tiller) {r q : VNum} (x : VReg) (h : q ≠ r) : (t.wv r x).rv q = t.rv q :=
  tget_tput_ne _ _ _ fun e => h (BitVec.eq_of_toNat_eq e)

@[simp] theorem Tiller.ws_rv (t : Tiller) (r : SReg) (x : Word) (q : VNum) : (t.ws r x).rv q = t.rv q := by simp [Tiller.rv]
@[simp] theorem Tiller.ws_rm (t : Tiller) (r : SReg) (x : Word) (q : MReg) : (t.ws r x).rm q = t.rm q := by simp [Tiller.rm]
@[simp] theorem Tiller.wv_rs (t : Tiller) (r : VNum) (x : VReg) (q : SReg) : (t.wv r x).rs q = t.rs q := rfl
@[simp] theorem Tiller.wv_rm (t : Tiller) (r : VNum) (x : VReg) (q : MReg) : (t.wv r x).rm q = t.rm q := rfl
@[simp] theorem Tiller.wm_rs (t : Tiller) (r : MReg) (x : Word) (q : SReg) : (t.wm r x).rs q = t.rs q := by simp [Tiller.rs]
@[simp] theorem Tiller.wm_rv (t : Tiller) (r : MReg) (x : Word) (q : VNum) : (t.wm r x).rv q = t.rv q := by simp [Tiller.rv]

end Sys2Proof.Machine
end

