-- ==== Sys2Proof/Tests/Slice0.lean ====
section
/-! SUPPORT. Tests: an ill-formed instruction for each check of WellFormed, words that the spec writes out, steps whose result the spec gives, and for each statement that has hypotheses a state that meets them. -/

namespace Sys2Proof.Tests

open Sys2Proof.Machine

/-! ## WellFormed refuses (one ill-formed term for each check) -/

theorem test_wf_srd_pair : Instr.wf (.srd false 3 .time) = false := by decide
theorem test_wf_sys_pair : Instr.wf (.sysLaunch false 4 9) = false ∧ Instr.wf (.sysGrun false 4 9) = false ∧ Instr.wf (.sysRcbsync false 4 9) = false := by decide
theorem test_wf_add64_d : Instr.wf (.add64 false 3 2 2) = false ∧ Instr.wf (.sub64 false 2 3 2) = false ∧ Instr.wf (.mul64 false 2 2 3) = false := by decide
theorem test_wf_sh64 : Instr.wf (.sh64 false .shl 3 2 5) = false ∧ Instr.wf (.sh64 false .shl 2 3 5) = false := by decide
theorem test_wf_cmp64 : Instr.wf (.cmp64 false .eq 1 3 2) = false ∧ Instr.wf (.cmp64 false .eq 1 2 3) = false := by decide
theorem test_wf_mask_dest : Instr.wf (.movsTom false 0 1) = false ∧ Instr.wf (.vcmp false .eq 0 1 2) = false ∧ Instr.wf (.fcmp false false .eq 0 1 2) = false := by decide
theorem test_wf_v64 : Instr.wf (.v64 false .add 3 2 2) = false ∧ Instr.wf (.v64 false .add 2 3 2) = false ∧ Instr.wf (.v64 false .sub 2 2 3) = false := by decide
theorem test_wf_mop : Instr.wf (.mop false .and 0 1 2) = false ∧ Instr.wf (.mop false .not 1 1 2) = false ∧ Instr.wf (.mop false .set 1 2 0) = false := by decide
theorem test_wf_lrefill : Instr.wf (.lrefill false 3 1 0 true 1) = false := by decide
theorem test_wf_vsav : Instr.wf (.vsav false 1 3 0 .normal) = false ∧ Instr.wf (.vrst false 1 3 0 .normal) = false := by decide
theorem test_wf_fp_pairs : Instr.wf (.fadd false .f64 3 2 2) = false ∧ Instr.wf (.fmul false .f64 2 3 2) = false ∧ Instr.wf (.ffma false .f64 2 2 3) = false := by decide
theorem test_wf_fcmp : Instr.wf (.fcmp false true .eq 1 3 2) = false ∧ Instr.wf (.fcmp false true .eq 1 2 3) = false := by decide
theorem test_wf_fsgn : Instr.wf (.fsgn false true .neg 3 2 0) = false ∧ Instr.wf (.fsgn false true .copysign 2 2 3) = false ∧ Instr.wf (.fsgn false false .abs 2 2 3) = false := by decide
theorem test_wf_fdiv : Instr.wf (.fdiv false true 3 2 2) = false ∧ Instr.wf (.fsqrt false true 2 3) = false ∧ Instr.wf (.frnd64 false .rne 3 2) = false := by decide
theorem test_wf_fclass : Instr.wf (.fclass false true 2 3) = false := by decide
theorem test_wf_cvt : Instr.wf (.cvt false .ftod .rne 3 2) = false ∧ Instr.wf (.cvt false .dtof .rne 2 3) = false := by decide
theorem test_wf_cord : Instr.wf (.cord false true .sin 20 3 2) = false ∧ Instr.wf (.cord false false .sin 3 2 2) = false ∧ Instr.wf (.cord false false .sin 61 2 2) = false := by decide
theorem test_wf_ldg : Instr.wf (.ldg false 3 (.sc 2) 0 .d .normal) = false ∧ Instr.wf (.ldg false 2 (.sc 3) 0 .w .normal) = false ∧ Instr.wf (.ldg false 2 (.vec 2) 0 .uw .normal) = false := by decide
theorem test_wf_stg : Instr.wf (.stg false 3 (.sc 2) 0 .d .normal) = false ∧ Instr.wf (.stg false 2 (.sc 3) 0 .w .normal) = false ∧ Instr.wf (.stg false 2 (.sc 2) 0 .uw .normal) = false := by decide
theorem test_wf_ldgx : Instr.wf (.ldgx false 3 (.sc 2) 0 .q .normal 0) = false ∧ Instr.wf (.ldgx false 4 (.sc 2) 0 .w .normal 0x0C000000) = false := by decide
theorem test_wf_stgx : Instr.wf (.stgx false 2 (.sc 2) 0 .bs .normal 0) = false ∧ Instr.wf (.stgx false 4 (.sc 2) 0 .w .normal 0x0C000000) = false := by decide
theorem test_wf_lds : Instr.wf (.lds false 3 (.sc 2) 0 .d) = false ∧ Instr.wf (.ldx false 3 (.vec 2) 0 .uw 1) = false := by decide
theorem test_wf_sts : Instr.wf (.sts false 3 (.sc 2) 0 .d) = false ∧ Instr.wf (.stx false 3 (.sc 2) 0 .hs 1) = false := by decide
theorem test_wf_ldp : Instr.wf (.ldp false 3 (.sc 2) 0 .w 1) = false ∧ Instr.wf (.ldp false 3 (.vec 2) 0 .uw 1) = false := by decide
theorem test_wf_atom : Instr.wf (.atom false .fadd .w 2 1 0 0) = false ∧ Instr.wf (.atom false .add .d 3 1 0 0) = false ∧ Instr.wf (.atom false .add .w 2 1 0 0x0C000000) = false := by decide
theorem test_wf_red : Instr.wf (.red false .exch .w 2 1 0 0) = false ∧ Instr.wf (.red false .add .d 3 1 0 0) = false := by decide
theorem test_wf_cas : Instr.wf (.cas false false 3 1 0 0) = false ∧ Instr.wf (.cas false true 2 1 0 0) = false := by decide
theorem test_wf_pref : Instr.wf (.prefL1 false 1 0x0C000000) = false ∧ Instr.wf (.prefGr false 1 0x0C000000) = false := by decide
theorem test_wf_atoms : Instr.wf (.atoms false .fadd .w 2 1 0) = false ∧ Instr.wf (.atoms false .add .d 3 1 0) = false := by decide
theorem test_wf_watch : Instr.wf (.watch false 3 4) = false := by decide
theorem test_wf_array_pairs : Instr.wf (.mlds false 0 3) = false ∧ Instr.wf (.mstr false 0 2 3) = false ∧ Instr.wf (.mclr false 0 3 2) = false ∧ Instr.wf (.mhist false 1 3 2) = false := by decide
theorem test_wf_engine : Instr.wf (.engFork false 5 1 2) = false ∧ Instr.wf (.engKill false 5) = false ∧ Instr.wf (.engStat false 1 5) = false := by decide

/-! ## Words that the spec writes out (R32 to R46 and the examples of the instruction chapters) -/

theorem test_word_bnz : decodeTableWord 32 0x0217FFFB = some (.bnz false 5 0x1FFFB) := by decide
theorem test_word_bm : decodeTableWord 32 0x03200016 = some (.bm false 1 0x16) := by decide
theorem test_word_jset : decodeTableWord 32 0x04000018 = some (.jset false 0x18) := by decide
theorem test_word_rep : decodeTableWord 32 0x070F0000 = some (.rep false 3 true true false) := by decide
theorem test_word_yield : decodeTableWord 32 0x08000000 = some (.yield false) ∧ decodeTableWord 32 0x08000001 = some (.yieldSpin false) := by decide
theorem test_word_rte : decodeTableWord 32 0x0B000000 = some .rte := by decide
theorem test_word_srd_time : decodeTableWord 32 0x0C040000 = some (.srd false 2 .time) := by decide
theorem test_word_swr : decodeTableWord 32 0x0D000010 = some (.swr false .tstat 0) := by decide
theorem test_word_launch : decodeTableWord 32 0x0E082000 = some (.sysLaunch false 4 8) := by decide
theorem test_word_ctxdone : decodeTableWord 32 0x0E000003 = some (.sysCtxdone false) := by decide
theorem test_word_cmp : decodeTableWord 32 0x200E1838 = some (.cmp false .eq 7 6 7) := by decide
theorem test_word_movs_lane : decodeTableWord 32 0x2F080C01 = some (.movsLane false 4 3 0) := by decide
theorem test_word_vmov_sc : decodeTableWord 32 0x3E041401 = some (.vmovSc false 2 5) := by decide
theorem test_word_vdot4 : decodeTableWord 32 0x420E2049 = some (.vdot4 false true 7 8 9) := by decide
theorem test_word_vred : decodeTableWord 32 0x470C1400 = some (.vred false .iadd 6 5) := by decide
theorem test_word_lrefill : decodeTableWord 32 0x49181923 = some (.lrefill false 12 6 4 false 3) := by decide
theorem test_word_vtag : decodeTableWord 32 0x4C0E1400 = some (.vtag false 7 5) := by decide
theorem test_word_fadd_h2 : decodeTableWord 32 0x500C102A = some (.fadd false .h2 6 4 5) := by decide
theorem test_word_cvt : decodeTableWord 32 0x5E061011 = some (.cvt false .ftoi .rtz 3 4) := by decide
theorem test_word_cvtn : decodeTableWord 32 0x5F142048 = some (.cvtn false .e4m3 10 8 9) := by decide
theorem test_word_cord : decodeTableWord 32 0x61040CA0 = some (.cord false false .sin 20 2 3) := by decide
theorem test_word_pwpl : decodeTableWord 32 0x62001028 = some (.pwpl false 4 5) := by decide
theorem test_word_ldg_uw : decodeTableWord 32 0x680628BC = some (.ldg false 3 (.sc 10) 2 .uw .byp) := by decide
theorem test_word_stx : decodeTableWord 32 0x6F121CE5 = some (.stx false 9 (.vec 7) 3 .w 2) := by decide
theorem test_word_ldp : decodeTableWord 32 0x700C0823 = some (.ldp false 6 (.vec 2) 0 .w 3) := by decide
theorem test_word_red : decodeTableWord 64 0x2000001072120917 = some (.red false .fadd .f32 9 2 4 0x20000010) := by decide
theorem test_word_pref : decodeTableWord 64 0x2000100074000801 = some (.prefGr false 2 0x20001000) := by decide
theorem test_word_atoms : decodeTableWord 32 0x75142CA0 = some (.atoms false .add .w 10 11 2) := by decide
theorem test_word_arrive_r : decodeTableWord 32 0x780A103A = some (.arriveR false 5 4 7) := by decide
theorem test_word_wait_a : decodeTableWord 32 0x79000C01 = some (.waitA false 3 0) := by decide
theorem test_word_watch : decodeTableWord 32 0x7B002020 = some (.watch false 8 4) := by decide
theorem test_word_mhist : decodeTableWord 32 0x7C2858AE = some (.mhist false 20 22 21) := by decide
theorem test_word_eng_stat : decodeTableWord 32 0x7D0C0402 = some (.engStat false 6 1) := by decide
/-- The commands of the chain of R318: a copy with LAND and DSP, and an end. -/
theorem test_word_commands :
    decodeCmd 9 ⟨0xFFFF4201, 0x300, 0, 0⟩ = some (.copy 9 ⟨0x42, 0xFFFF, 0x300, 0, 0⟩) ∧ decodeCmd 9 ⟨0xFFFF001F, 0, 0, 0⟩ = some (.endCmd 9 ⟨0, 0xFFFF, 0, 0, 0⟩) ∧
    decodeCmd 9 ⟨0x08, 0, 0, 0⟩ = none := by decide

/-! ## A small state: tiller 70 of core 1, of workgroup 0 of sheaf 3, with a clause of three words under way -/

def tiller0 : Tiller := { Tiller.blank with
  live := true, sheaf := 3, ng := 128, depth := 0
  slotA := ⟨.ready, 0x100, 0xFFFFFFFF, 0x200, joinNone⟩, slotB := ⟨.empty, 0, 0, joinNone, joinNone⟩
  run := some ⟨0x100, 3, [0xF3, 0, 0, 0], 1, false, 3, false, false⟩ }

def launch0 : Launch := { Launch.blank with
  status := 1, wins := [⟨0x10000100, 20⟩]
  pkt := { Packet.zero with gx := 1, gy := 1, gz := 1, wg := 2, tillers := 1, trapv := [0x2000, 0x2010, 0x2020, 0x2030, 0x2041, 0x2050, 0x2060] } }

def s0 : State := { State.reset with
  cur := 70, tillers := [(70, tiller0)], launches := [(2, launch0)]
  sheaves := [(3, { Sheaf.blank with launch := 2, st := .resident, tids := [(0, 70)] })]
  wgs := [(12, { Wg.blank with spad := 4096, core := 1 }), (13, { Wg.blank with spad := 4096, core := 1 })]
  cores := [(1, { Core.reset with cycles := 55, tlb2 := [⟨0, 0x10000000, 0x200000, 0x40000000F⟩] })] }

/-- s0 with its tiller changed. -/
def on (f : Tiller → Tiller) : State := s0.setTl (f s0.tl)

/-- s0 with scalars written. -/
def withS (l : List (SReg × Word)) : State := on fun t => l.foldl (fun x e => x.ws e.1 e.2) t

/-- s0 with bytes in the allocation of its workgroup. -/
def withB (s : State) (o : Nat) (bs : List Nat) : State :=
  s.setWg 12 { s.wg 12 with bytes := writeBytes (s.wg 12).bytes o (bs.map (BitVec.ofNat 8)) }

/-- The clause of s0. -/
def run0 : Run := ⟨0x100, 3, [0xF3, 0, 0, 0], 1, false, 3, false, false⟩

/-- A tiller in handler mode. -/
def handler (t : Tiller) : Tiller := { t with hnd := true, run := some { run0 with handler := true } }

/-- One lane active. -/
def oneLane (t : Tiller) : Tiller := { t with slotA := { t.slotA with mask := 1 } }

/-! ## Witnesses: for each statement with hypotheses, a state and operands that meet them -/

theorem witness_ScalarResults :
    Says.scalarWrite (.add false 5 1 2) (withS [(1, 3), (2, 0xFFFFFFFF)]).tl = some (false, 5, 2) ∧
    Says.pairWrite (.sh64 true .sar 6 4 2) (withS [(5, 0x80000000), (2, 63)]).tl = some (true, 6, 0xFFFFFFFFFFFFFFFF) := by decide

theorem witness_MaskResults : (Says.maskWrite (.vcmp true .lt 3 1 2) s0.tl).isSome = true ∧ (Says.maskWrite (.mop true .andn 3 1 2) s0.tl).isSome = true := by decide

theorem witness_RegistersKeep :
    (6 : SReg).getLsbD 0 = false ∧ (Says.dests (.add false 5 1 2) s0).isSome = true ∧ (Says.dests (.fadd false .f64 6 2 4) s0).isSome = true ∧
    s0.tl.run = some run0 ∧ run0.idx + 2 ≤ run0.n ∧ s0.tl.gCount + 1 < s0.tl.ng ∧ (∃ s' : State, exec (.add false 5 1 2) s0 = .next s') :=
  ⟨by decide, by decide, by decide, by decide, by decide, by decide, _, rfl⟩

theorem witness_WordsAndClausesEnd_words :
    (on fun t => { t with run := some { run0 with rep := true }, repcnt := 2 }).tl.run = some { run0 with rep := true } ∧ 1 < (on fun t => { t with repcnt := 2 }).tl.repcnt ∧
    (on fun t => { t with run := some { run0 with rep := true }, repcnt := 1 }).tl.repcnt ≤ 1 ∧ s0.tl.run = some run0 := by decide

theorem witness_WordsAndClausesEnd_clauses :
    Says.onePath s0.tl run0 ∧ (0x300 : Word) ≠ (s0.tl.slot run0.slotB).join ∧ (on handler).tl.run = some { run0 with handler := true } ∧ (on handler).tl.hnd = true :=
  ⟨by unfold Says.onePath; decide, by decide, by decide, by decide⟩

/-- Two paths of the join point 0x200, the one that has come to it and the other not yet or already. -/
def paths (a : PathSt) (pcA pcB : Word) : Tiller := { tiller0 with slotA := ⟨a, pcA, 0xFFFF, 0x200, joinNone⟩, slotB := ⟨.ready, pcB, 0xFFFF0000, 0x200, joinNone⟩ }

theorem witness_WordsAndClausesEnd_rejoin :
    (paths .ready 0x200 0x180).slotA.pc = (paths .ready 0x200 0x180).slotA.join ∧ (paths .ready 0x200 0x180).slotB.pc ≠ (paths .ready 0x200 0x180).slotB.join ∧
    (paths .parked 0x200 0x200).slotA.st = .parked ∧ (paths .parked 0x200 0x200).slotB.pc = (paths .parked 0x200 0x200).slotB.join ∧
    (paths .parked 0x200 0x200).slotA.join ≠ joinNone ∧ (paths .parked 0x200 0x200).slotA.outr ≠ (paths .parked 0x200 0x200).slotA.join ∧
    (paths .parked 0x200 0x200).count = 0 ∧ (paths .parked 0x200 0x200).exited = false := by decide

theorem witness_Branches :
    s0.tl.run = some run0 ∧ Says.branchTo (.bz true 5 (-8)) s0.tl run0 = some (true, 0xE0) ∧ Says.branchTo (.bnz true 5 (-8)) s0.tl run0 = some (true, 0x110) ∧
    Says.branchTo (.jmpr false 4) (withS [(4, 0x444)]).tl run0 = some (false, 0x444) ∧ Says.branchTo (.braSpin false 4) s0.tl run0 = some (false, 0x110) := by decide

/-- A path with lanes 0 to 3 whose other slot is taken, with room in the list or not. -/
def fork (b : PathSt) (depth count : Nat) : State := on fun t => { (t.wm 3 0x3) with
  slotA := { t.slotA with mask := 0xF }, slotB := ⟨b, 0x180, 0xF0, 0x200, joinNone⟩, depth := depth, count := count, area := 0x10000000 }

theorem witness_DivergentPaths_one_side :
    Says.lanesTaken (.bm false 3 4) (fork .empty 0 0).tl run0 = some (false, 3, 0x110) ∧ Says.lanesTaken (.bm false 4 4) (fork .empty 0 0).tl run0 = some (false, 0, 0x110) ∧
    Says.lanesTaken (.bmn false 4 4) (fork .empty 0 0).tl run0 = some (false, 0xF, 0x110) := by decide

theorem witness_DivergentPaths_split :
    (fork .empty 0 0).tl.hnd = false ∧ (0xF &&& ~~~(3 : Word)) ≠ 0 ∧ ((fork .empty 0 0).tl.slot true).st = .empty ∧ ((fork .ready 8 1).tl.slot true).st ≠ .empty ∧
    (fork .ready 8 1).tl.count < (fork .ready 8 1).tl.depth ∧ (fork .ready 0 0).tl.depth ≤ (fork .ready 0 0).tl.count ∧ (fork .ready 8 8).tl.depth ≤ (fork .ready 8 8).tl.count := by decide

theorem witness_DivergentPaths_list :
    ∃ (w : Paths) (s1 s2 : State), (fork .ready 8 1).readPaths 70 = (.ok w, s1) ∧
      s1.putPaths 70 0 w.l { w with l := w.l ++ [⟨.ready, 0x110, 3, 0x200, joinNone⟩] } = .ok s2 := ⟨_, _, _, rfl, rfl⟩

theorem witness_DivergentPaths_join :
    (on fun t => { t with run := some { run0 with words := [0xF3, 0x04000010, 0, 0] } }).tl.hnd = false ∧ (0x100 + Says.w32 (4 * (0x40 : BitVec 20).toInt)) = s0.tl.slotA.join ∧
    (0x100 + Says.w32 (4 * (0x10 : BitVec 20).toInt)) ≠ s0.tl.slotA.join ∧ s0.tl.slotA.outr = joinNone ∧ run0.idx + 1 ≤ run0.n ∧ (fOp 0x04000010).toNat = 0x04 ∧
    (on fun t => { t with slotA := { t.slotA with outr := 0x300 } }).tl.slotA.outr ≠ joinNone := by decide

/-- A path whose list holds one ready entry, of the lanes 8 to 15. -/
def listed : State :=
  let s := on fun t => { t with slotA := { t.slotA with mask := 0xF }, depth := 8, count := 1, area := 0x10000000, lanes := 0xFFFF }
  { s with mem := writeNat (writeNat s.mem 0x400000 4 0x180) 0x400004 4 0xFF00 }

set_option maxRecDepth 16000 in
theorem witness_DivergentPaths_rotation :
    Says.rotates (.yield true) run0 = some (true, 0x110, false) ∧ Says.rotates (.braSpin true 0) run0 = some (true, 0x100, true) ∧ s0.tl.count = 0 ∧
    ∃ (e : Slot) (s1 s2 s3 : State), listed.readReady listed.cur 0 listed.tl.count = (.ok (some ([] ++ [e])), s1) ∧ e.mask &&& s1.tl.lanes ≠ 0 ∧
      s1.devPuts listed.cur .spillWr [(listed.tl.entryVa 1, ({ listed.tl.slotA with pc := 0x110 } : Slot).entryBytes)] = (.ok s2, s3) :=
  ⟨by decide, by decide, by decide, _, _, _, _, rfl, by decide, rfl⟩

theorem witness_TrapEntry :
    s0.tl.run = some run0 ∧ s0.tl.hnd = false ∧ s0.tl.count = 0 ∧ (s0.tl.slot run0.slotB).st ≠ .empty ∧ (Says.vector s0.tl s0 0x01).getLsbD 0 = false ∧
    (Says.vector s0.tl s0 0x0D).getLsbD 0 = false ∧ (on handler).tl.hnd = true := by decide

theorem witness_FatalFaults :
    ((withS [(4, 0x445)]).tl.rs 4).toNat % 4 ≠ 0 ∧ Says.notInHandler (.yield true) ∧ (on handler).tl.hnd = true ∧ s0.tl.hnd = false ∧ (Says.vector s0.tl s0 0x04).getLsbD 0 = true :=
  ⟨by decide, trivial, by decide, by decide, by decide⟩

theorem witness_ExitsAndReturns_exit :
    s0.tl.errs = [] ∧ (∀ e ∈ (s0.wg (wgOf s0.tl.sheaf s0.tl.rank)).marks, e.2.tiller ≠ s0.tl.num) ∧ Says.onePath s0.tl run0 ∧ (on handler).tl.hnd = true :=
  ⟨by decide, by decide, by unfold Says.onePath; decide, by decide⟩

theorem witness_ExitsAndReturns_return :
    let s := on fun t => { handler t with tpc := 0x104, widx := 1, cln := 3, tcause := 0x01 }
    s.tl.tcause.toNat % 256 ≠ 0x12 ∧ s.tl.count = 0 ∧ s.tl.exited = false ∧ s.tl.rslot = false ∧ s.tl.slotA.st = .ready ∧ s.tl.slotA.mask ≠ 0 ∧ s.tl.slotB = s.tl.slotB.vacate ∧
    normJoin s.tl.slotA.join = s.tl.slotA.join ∧ normJoin s.tl.slotA.outr = s.tl.slotA.outr ∧ s.tl.widx ≠ 0 ∧
    4 ≤ (s.tl.tpc - s.tl.slotA.pc).toNat ∧ (s.tl.tpc - s.tl.slotA.pc).toNat ≤ 4 * s.tl.cln ∧
    (on fun t => { handler t with tpc := 0x180 }).tl.widx = 0 ∧ (0x180 : Word) ≠ s.tl.slotA.join := by decide

/-- A tiller whose one general slot holds v9. -/
def full : State := on fun t => { t.wv 9 (.g (List.replicate 32 1)) with ng := 1 }

theorem witness_VectorResults :
    (Says.vecWrite (.vadd true 3 1 2) s0.tl).isSome = true ∧ s0.tl.gCount < s0.tl.ng ∧
    (Says.vecWrite (.vsel true 3 1 2 1) full.tl).isSome = true ∧ (full.tl.rv 3).tag ≠ 2 ∧ full.tl.gCount = full.tl.ng ∧ full.tl.v.Pairwise (fun e e' => e.1 < e'.1) := by decide

theorem witness_CrossLaneResults : s0.tl.gCount < s0.tl.ng ∧ s0.tl.gCount + 1 < s0.tl.ng := by decide

theorem witness_FloatResults :
    (Says.fpWrite (.ffma true .f64 6 2 4) s0).isSome = true ∧ (Says.fpWrite (.frcpe true 6 2) s0).isSome = true ∧ (Says.unitWrite (.cord true false .sin 20 6 2) s0.tl).isSome = true ∧
    s0.tl.gCount + 1 < s0.tl.ng := by decide

/-- FP32: 1, 2, −0, +0, ∞, −∞, NaN and −1. -/
theorem witness_FloatSpecialValues :
    fp32.num 0x7FC00001 = .nan ∧ fp32.num 0x7F800000 = .inf false ∧ fp32.num 0xFF800000 = .inf (!false) ∧ (∃ e, fp32.num 0 = .fin false 0 e) ∧ (∃ e, fp32.num 0x80000000 = .fin true 0 e) ∧
    (∃ m e, fp32.num 0x3F800000 = .fin false m e ∧ m ≠ 0) ∧ (∃ m e, fp32.num 0xBF800000 = .fin true m e ∧ m ≠ 0) :=
  ⟨by decide, by decide, by decide, ⟨_, rfl⟩, ⟨_, rfl⟩, ⟨_, _, rfl, by decide⟩, ⟨_, _, rfl, by decide⟩⟩

theorem witness_SumsAreNearest :
    (∃ na ma ea, fp16.num 0x3C01 = .fin na ma ea) ∧ (∃ nb mb eb, fp16.num 0x1001 = .fin nb mb eb) ∧ (∃ nc mc ec, fp16.num (fp16.add 0x3C01 0x1001).1 = .fin nc mc ec) ∧
    ∃ nz mz ez, fp16.num 0x3C02 = .fin nz mz ez := ⟨⟨_, _, _, rfl⟩, ⟨_, _, _, rfl⟩, ⟨_, _, _, rfl⟩, ⟨_, _, _, rfl⟩⟩

theorem witness_Divisions :
    let s : State := { s0 with flights := [(0, { Flight.blank with tid := 70, core := 1, kind := .result .divi, out := [.s 5 7], regs := [.s 5], left := 18 })] }
    (s.flight 0).kind = .result .divi ∧ (s.flight 0).left ≠ 0 ∧ ((s.flight 0).tick 3).left = 17 ∧ (s.flight 1).left = 0 := by decide

/-- An operation outstanding under the number 0. -/
def flying (f : Flight) : State := { s0 with flights := [(0, f)], fresh := 1 }

theorem witness_Landings : Says.landsRow (.cordLand 0) = some (0, .cord) ∧ ((flying { Flight.blank with kind := .result .cord }).flight 0).kind = .result .cord ∧
    ((flying { Flight.blank with kind := .result .cord }).flight 0).left = 0 ∧ ((flying { Flight.blank with kind := .result .cord, left := 26 }).flight 0).left ≠ 0 ∧
    (1 : Nat) ≠ ((flying { Flight.blank with ctr := some 3 }).flight 0).tid := by decide

theorem witness_SpecialRegisters :
    (s0.launch (s0.sheaf s0.tl.sheaf).launch).pkt.gx ≠ 0 ∧ (s0.launch (s0.sheaf s0.tl.sheaf).launch).pkt.gy ≠ 0 ∧ s0.tl.steward = false ∧
    (Says.written s0.tl .tctl 0xFF).isSome = true ∧ (Says.written (on handler).tl .spillp 0xFFFFFFFF).isSome = true ∧ (on handler).tl.hnd = true ∧ Says.written s0.tl .time 0 = none := by decide

theorem witness_SystemInstructions_notify :
    let s := on fun t => { (t.ws 4 2047).ws 5 2048 with steward := true }
    s0.tl.steward = false ∧ s.tl.steward = true ∧ (s.tl.rs 4).toNat < 2048 ∧ 2048 ≤ (s.tl.rs 5).toNat ∧ Says.released { s with flights := [] } 4 (s.release 70 4 false).1 :=
  ⟨by decide, by decide, by decide, by decide, Or.inr ⟨rfl, rfl⟩⟩

theorem witness_SystemInstructions_start :
    Says.sysOp (.sysLaunch true 6 8) = some (0, true, 6, 8) ∧ Says.sysOp (.sysGrun true 0 8) = some (1, true, 0, 8) ∧ Says.released s0 3 (s0.release 70 3 false).1 ∧
    Says.released (on fun t => { t with again := true }) 3 (on fun t => { t with again := true }) :=
  ⟨by decide, by decide, Or.inr ⟨rfl, rfl⟩, Or.inl ⟨rfl, rfl⟩⟩

theorem witness_SystemInstructions_land :
    let s := flying { Flight.blank with tid := 70, core := 1, kind := .sys 2 6 0x30000000 true, regs := [.s 6] }
    tfind s.flights 0 = some { Flight.blank with tid := 70, core := 1, kind := .sys 2 6 0x30000000 true, regs := [.s 6] } ∧
    (∃ st s1, s.sysStatus 70 2 0x30000001 = .done st s1) ∧ ∃ va mig, s.sysStatus 70 0 0x30000000 = .wait va mig :=
  ⟨rfl, ⟨_, _, rfl⟩, ⟨_, _, rfl⟩⟩

theorem witness_ScratchpadLoads :
    Says.spadLoad (.lds true 8 (.sc 4) 3 .q) s0.tl = some (true, 8, .sc 4, 3, .q, 0) ∧ Says.uniformOk (.sc 4) .q ∧ Says.uniformOk (.sc 4) .uw ∧ s0.tl.gCount + 4 ≤ s0.tl.ng ∧
    Says.inSpad (s0.wg (4 * s0.tl.sheaf + s0.tl.rank)).spad 16 (Says.onLanes s0.tl.act (Says.offset (withS [(4, 3584)]).tl (.sc 4) .q)) ∧
    Says.spadLoad (.ldx true 8 (.sc 4) 3 .w 1) s0.tl = some (true, 8, .sc 4, 3, .w, 1) ∧ 1 < (s0.launch (s0.sheaf s0.tl.sheaf).launch).pkt.wg ∧ 1 ≠ s0.tl.rank :=
  ⟨by decide, (fun h => nomatch h), fun _ => ⟨4, rfl⟩, by decide, by unfold Says.inSpad; decide, by decide, by decide, by decide⟩

theorem witness_ScratchpadStores :
    Says.spadStore (.sts true 8 (.sc 4) 3 .bz) s0.tl = some (true, 8, .sc 4, 3, .bz, 0) ∧ Says.spadStore (.stx true 8 (.sc 4) 3 .w 1) s0.tl = some (true, 8, .sc 4, 3, .w, 1) ∧
    Says.inSpad (s0.wg (4 * s0.tl.sheaf + s0.tl.rank)).spad 1 (Says.onLanes s0.tl.act (Says.offset (withS [(4, 4064)]).tl (.sc 4) .bz)) ∧
    Memory.wf (s0.wg 12).bytes = true ∧ 1 < (s0.launch (s0.sheaf s0.tl.sheaf).launch).pkt.wg :=
  ⟨by decide, by decide, by unfold Says.inSpad; decide, by decide, by decide⟩

/-- Misaligned in lane 0; beyond the allocation in lane 31 alone; an absent rank. -/
theorem witness_AccessFaults_scratchpad :
    s0.tl.act.getLsbD 31 = true ∧ Says.offset (withS [(4, 2)]).tl (.sc 4) .w 0 % 4 ≠ 0 ∧
    (∀ j, j < 31 → Says.offset (withS [(4, 3972)]).tl (.sc 4) .w j % 4 = 0 ∧ Says.offset (withS [(4, 3972)]).tl (.sc 4) .w j + 4 ≤ 4096 ∧ 0 < (s0.launch (s0.sheaf s0.tl.sheaf).launch).pkt.wg) ∧
    Says.offset (withS [(4, 3972)]).tl (.sc 4) .w 31 % 4 = 0 ∧ 4096 < Says.offset (withS [(4, 3972)]).tl (.sc 4) .w 31 + 4 ∧
    Says.spadLoad (.ldx true 8 (.sc 4) 3 .w 2) s0.tl = some (true, 8, .sc 4, 3, .w, 2) ∧ (s0.launch (s0.sheaf s0.tl.sheaf).launch).pkt.wg ≤ 2 :=
  ⟨by decide, by decide, by decide, by decide, by decide, by decide, by decide⟩

/-- One lane of an LDG at an address of which the test says what fails. -/
def ldgAt (lo hi : Word) : State := on fun t => oneLane ((t.ws 4 lo).ws 5 hi)

def ldgFails (s : State) : Option (AccFault × Nat × Nat) :=
  firstFail none (s.laneLines s.cur (Says.same 4) 4 .load true (Says.onLanes s.tl.act (Says.address s.tl (.sc 4) .w))).1

theorem witness_AccessFaults_global :
    Says.globalLoad (.ldg true 8 (.sc 4) 3 .w .normal) (ldgAt 0x10000042 0).tl = some (true, 8, .sc 4, 3, .w, .normal, Says.address (ldgAt 0x10000042 0).tl (.sc 4) .w) ∧
    ldgFails (ldgAt 0x10000042 0) = some (.misaligned, 0x10000042, 0) ∧ ldgFails (ldgAt 0 0x01000000) = some (.range, 0x100000000000000, 0) ∧
    ldgFails (ldgAt 0x20000000 0) = some (.replay false, 0x20000000, 0) := ⟨rfl, by decide, by decide, by decide⟩

theorem witness_RemoteAndWindowLandings :
    let part : Part := ⟨⟨0x400000, 0, 0⟩, 0x400000, 0x10000000, 0, 0, 0x200000, .read true false false, .done, List.replicate 64 0, false, false⟩
    let f : Flight := { Flight.blank with tid := 70, core := 1, mask := 1 }
    let a := flying { f with kind := .remote 8 .w 1 [(0, 16)] }
    let b := flying { f with kind := .ldp 8 .w true [(0, [some 0x10000100, none, none, none])], parts := [part] }
    let c := flying { f with kind := .spadStore 1 [(16, 5)] }
    let d := flying { f with kind := .store, parts := [part] }
    (a.flight 0).kind = .remote 8 .w 1 [(0, 16)] ∧ (∀ k, k < 32 → (a.flight 0).mask.getLsbD k = true → k = 0) ∧ (a.flight 0).left = 0 ∧ a.rankBefore 0 = false ∧
    (b.flight 0).kind = .ldp 8 .w true [(0, [some 0x10000100, none, none, none])] ∧ (∀ q ∈ (b.flight 0).parts, q.st = .done ∧ q.err = false ∧ q.held = false) ∧
    (c.flight 0).kind = .spadStore 1 [(16, 5)] ∧ c.rankBefore 0 = false ∧ (d.flight 0).kind = .store ∧ (∀ q ∈ (d.flight 0).parts, q.st = .done) := by decide

theorem witness_ScratchpadOperations_atomics :
    s0.tl.gCount + 2 ≤ s0.tl.ng ∧ Says.inSpad (s0.wg 12).spad 8 (Says.onLanes s0.tl.act fun k => (((s0.tl.wv 10 (.a 3840 8)).rv 10).lane k).toNat) :=
  ⟨by decide, by unfold Says.inSpad; decide⟩

theorem witness_ScratchpadOperations_tables :
    ((withS [(4, 2816), (5, 64)]).tl.rs 5).toNat = 64 ∧ ((withS [(4, 2816), (5, 64)]).tl.rs 4).toNat + 20 * 64 ≤ (s0.wg 12).spad ∧ ((withS [(5, 65)]).tl.rs 5).toNat = 65 ∧ (s0.tl.rs 5).toNat = 0 := by decide

/-- A queue object at 0x80 with two items of a ring of eight, its head about to wrap. -/
theorem witness_ScratchpadOperations_queue :
    let s := withB s0 0x80 [0xFF, 0xFF, 0xFF, 0xFF, 1, 0, 0, 0, 3, 0, 0, 0]
    readNat (s.wg 12).bytes 0x80 4 = 2 ^ 32 - 1 ∧ readNat (s.wg 12).bytes 0x84 4 = 1 ∧ readNat (s.wg 12).bytes 0x88 4 = 3 ∧
    (∀ j, j < 2 → 0x80 + 16 + (2 ^ 32 - 1 + j) % 2 ^ 32 % 8 * 8 + 8 ≤ (s.wg 12).spad) ∧ s.tl.gCount + 2 ≤ s.tl.ng := by decide

/-- A barrier object at 0x40: PHASE 7, EXPARR 2, ARRIVED as given. -/
def barrier (arrived : Nat) : State := withB s0 0x40 [7, 0, 0, 0, 2, 0, arrived, 0, 0, 0, 0, 0, 0, 0, 0, 0]

theorem witness_Arrivals :
    Says.barrier ((barrier 1).wg 12) 0x40 = (7, 2, 1, 0, 0) ∧ Says.barrier ((barrier 0).wg 12) 0x40 = (7, 2, 0, 0, 0) ∧ Says.barrier ((barrier 2).wg 12) 0x40 = (7, 2, 2, 0, 0) ∧
    Memory.wf ((barrier 1).wg 12).bytes = true ∧ Says.arriveOf (.arriveR true 5 4 7) (withS [(4, 0x40), (7, 1)]).tl = some (true, 5, 0x40, 1, 2, 0) ∧
    (((barrier 1).wg 12).arrive 0x40 1 0).isSome = true ∧ ((barrier 2).wg 12).arrive 0x40 1 0 = none ∧ Says.released (barrier 1) 1 ((barrier 1).release 70 1 false).1 ∧
    0x40 + 16 ≤ ((barrier 1).wg (4 * (barrier 1).tl.sheaf + (barrier 1).tl.rank)).spad ∧ 1 < ((barrier 1).launch ((barrier 1).sheaf (barrier 1).tl.sheaf).launch).pkt.wg :=
  ⟨by decide, by decide, by decide, by decide, by decide, by decide, by decide, Or.inr ⟨rfl, rfl⟩, by decide, by decide⟩

/-- A phase that has passed, one that is the current one, and one that is 2³¹ behind; an engine's mark; a counter at its bound and above it. -/
theorem witness_Waits :
    let past (v : Nat) := (readNat ((barrier 0).wg 12).bytes 0x40 4 + 2 ^ 32 - v) % 2 ^ 32
    (1 ≤ past 6 ∧ past 6 < 2 ^ 31) ∧ ¬(1 ≤ past 7 ∧ past 7 < 2 ^ 31) ∧ ¬(1 ≤ past 2147483655 ∧ past 2147483655 < 2 ^ 31) ∧
    tfind ({ s0.wg 12 with marks := [(4, ⟨0, 1, 0x11, 0, 0, 0x200⟩)] } : Wg).marks (0x40 / 16) = some ⟨0, 1, 0x11, 0, 0, 0x200⟩ ∧ tfind (s0.wg 12).marks 4 = none ∧
    s0.tl.ctr 3 ≤ 0 ∧ 0 < (s0.tl.incCtr 3).ctr 3 ∧
    ((on fun t => { t with block := .waitB 0x40 6 true (some 2) }).tiller 70).block = .waitB 0x40 6 true (some 2) ∧ (s0.tiller 70).halt = .running := by decide

theorem witness_Fences :
    Says.fenceOf (.fenceAr true .dv 5) = some (true, true, true, 3, 5) ∧ ((flying { Flight.blank with kind := .fence true 3 }).flight 0).kind = .fence true 3 ∧
    ((flying { Flight.blank with kind := .fence true 3 }).flight 0).waits = [] ∧ ((flying { Flight.blank with kind := .fence true 3, waits := [7] }).flight 0).waits ≠ [] ∧
    ((flying { Flight.blank with kind := .hold 3 }).flight 0).kind = .hold 3 := by decide

set_option maxRecDepth 16000 in
theorem witness_GlobalLoads_start :
    let s := ldgAt 0x10000040 0
    Says.globalLoad (.ldg true 8 (.sc 4) 3 .w .normal) s.tl = some (true, 8, .sc 4, 3, .w, .normal, Says.address s.tl (.sc 4) .w) ∧ s.tl.gCount + 4 ≤ s.tl.ng ∧
    Says.onLanes s.tl.act (Says.address s.tl (.sc 4) .w) = [(0, 0x10000040)] ∧ ∃ good s1, Says.reached s (Says.same 4) 4 .load true (Says.loadBeyond .normal 4) [(0, 0x10000040)] good s1 :=
  ⟨rfl, by decide, by decide, [(0, 0x10000040, _)], _, rfl, by decide⟩

/-- A line of an operation, with its bytes. -/
def part (data : List Byte) (err : Bool) : Part := ⟨⟨0x400040, 0, 0⟩, 0x400040, 0x10000040, 0, 0, 0x200000, .read true false false, .done, data, err, false⟩

def loadFlight (err : Bool) : Flight := { Flight.blank with
  tid := 70, core := 1, kind := .load 8 .w [⟨0, ⟨0x400040, 0, 0⟩, 60⟩], mask := 1, regs := [.v 8], parts := [part (List.replicate 64 7) err] }

theorem witness_GlobalLoads_land :
    let s := flying (loadFlight false)
    (s.flight 0).kind = .load 8 .w [⟨0, ⟨0x400040, 0, 0⟩, 60⟩] ∧ (s.flight 0).left = 0 ∧ (∀ q ∈ (s.flight 0).parts, q.st = .done ∧ q.err = false ∧ q.held = false) ∧
    (part (List.replicate 64 7) false).data.length = 64 ∧ 60 + Width.size .w ≤ 64 ∧ (s.flight 0).mask = 1 ∧
    part (List.replicate 64 7) true ∈ ((flying (loadFlight true)).flight 0).parts ∧ (part (List.replicate 64 7) true).err = true := by decide

set_option maxRecDepth 16000 in
theorem witness_GlobalStores :
    let s := ldgAt 0x10000040 0
    Says.globalStore (.stg true 8 (.sc 4) 3 .w .normal) s.tl = some (true, 8, 3, .w, .normal, Says.address s.tl (.sc 4) .w) ∧
    (∃ good s1, Says.reached s (Says.same 4) 4 .store true (Says.storeBeyond .normal) [(0, 0x10000040)] good s1) ∧
    ∃ r s1, Says.reached s (Says.same 4) 4 .store true (Says.storeBeyond .normal) [(0, 0x10000040)] [(0, 0x10000040, r)] s1 ∧ physKind r.pa ≠ .control ∧ r.attr ≠ 2 ∧ (s1.core 1).l1find r.key = none :=
  ⟨rfl, ⟨[(0, 0x10000040, _)], _, rfl, by decide⟩, ⟨_, _, ⟨rfl, by decide⟩, by decide, by decide, by decide⟩⟩

set_option maxRecDepth 16000 in
theorem witness_GlobalAtomics :
    let s := on fun t => (oneLane (t.ws 4 0x10000040)).wv 2 (.u 0)
    (Says.globalAtomic (.cas true true 8 2 3 0x10000000) s.tl).isSome = true ∧ s.tl.gCount + 2 ≤ s.tl.ng ∧ Says.onLanes s.tl.act (Says.addressX s.tl (.vec 2) .w 0x10000000) = [(0, 0x10000040)] ∧
    (∃ good s1, Says.reached s (Says.same 8) 8 .atomic false (fun _ _ _ => false) [(0, 0x10000040)] good s1) ∧
    ∃ f : Flight, (flying f).flight 0 = f ∧ f.kind = .atomic 8 true ∧ f.left = 0 ∧ ∀ q ∈ f.parts, q.st = .done ∧ q.err = false ∧ q.held = false :=
  ⟨by decide, by decide, by decide, ⟨[(0, 0x10000040, _)], _, rfl, by decide⟩, ⟨{ Flight.blank with kind := .atomic 8 true, parts := [part [] false] }, rfl, rfl, rfl, by decide⟩⟩

/-- A tiller whose VRST has read the word that names a tag. -/
def tagRead (w : Nat) (err : Bool) : State := (ldgAt 0x10000040 0).setTl { (ldgAt 0x10000040 0).tl with vtag := some (part ([BitVec.ofNat 8 w] ++ List.replicate 63 0) err, ⟨0, ⟨0x400040, 0, 0⟩, 0⟩) }

set_option maxRecDepth 16000 in
theorem witness_RegisterRecords_vsav :
    let s := ldgAt 0x10000040 0
    (s.tl.rv 8).tag = 0 ∧ ∃ good s1 good' s2, Says.reached s (Says.same 4) 4 .store true (Says.storeBeyond .normal) (Says.wordsAt (s.tl.rp 4).toNat 2) good s1 ∧
      Says.reached s1 (Says.same 4) 4 .store true (Says.storeBeyond .normal) ((List.range 2).map fun j => (j, ((s.tl.rp 4).toNat + 4 * j) % 2 ^ 64)) good' s2 ∧ ∀ e ∈ good', physKind e.2.2.pa ≠ .control :=
  ⟨by decide, [(0, 0x10000040, _), (0, 0x10000044, _)], _, [(0, 0x10000040, _), (1, 0x10000044, _)], _, ⟨rfl, by decide⟩, ⟨rfl, by decide⟩, by decide⟩

set_option maxRecDepth 16000 in
theorem witness_RegisterRecords_vrst :
    (ldgAt 0x10000040 0).tl.vtag = none ∧ (∃ e s1, Says.reached (ldgAt 0x10000040 0) (Says.same 4) 4 .load true (Says.loadBeyond .normal 4) (Says.wordsAt ((ldgAt 0x10000040 0).tl.rp 4).toNat 1) [e] s1) ∧
    (tagRead 1 false).tl.gCount + 1 ≤ (tagRead 1 false).tl.ng ∧
    (∃ good s1, Says.reached (tagRead 1 false) (Says.same 4) 4 .load true (Says.loadBeyond .normal 4) (Says.wordsAt (((tagRead 1 false).tl.rp 4).toNat + 4) (Says.recordLen 1 - 1)) good s1) ∧
    (part [] true).err = true ∧ (part [] true).st = .done :=
  ⟨by decide, ⟨(0, 0x10000040, _), _, rfl, by decide⟩, by decide, ⟨[(0, 0x10000044, _), (0, 0x10000048, _)], _, rfl, by decide⟩, by decide, by decide⟩

theorem witness_RegisterRecords_land :
    let f : Flight := { Flight.blank with tid := 70, kind := .vrst 8 1 [⟨0, ⟨0x400040, 0, 0⟩, 4⟩, ⟨0, ⟨0x400040, 0, 0⟩, 8⟩], parts := [part (List.replicate 64 0) false] }
    ((flying f).flight 0).left = 0 ∧ (∀ q ∈ ((flying f).flight 0).parts, q.st = .done ∧ q.err = false ∧ q.held = false) ∧ 2 + 1 = Says.recordLen (1 % 4) ∧
    ((flying { f with kind := .vtag ⟨0, ⟨0x400040, 0, 0⟩, 0⟩ }).flight 0).parts = [part (List.replicate 64 0) false] := by decide

set_option maxRecDepth 16000 in
/-- A window of 20 bytes: the word at 16 is its last, the one at 20 is beyond it. -/
theorem witness_ParametersAndHints_window :
    let s := on fun t => oneLane (t.wv 2 (.u 16))
    (lget ⟨0, 0⟩ (s.launch (s.sheaf s.tl.sheaf).launch).wins 0).size = 20 ∧ ¬(20 < ((s.tl.rv 2).lane 0).toNat + 4) ∧ 20 < (((s.tl.wv 2 (.u 20)).rv 2).lane 0).toNat + 4 ∧ s.tl.pwinTrap = false ∧
    ({ s.tl with pwinTrap := true } : Tiller).pwinTrap = true ∧
    ∃ good s1, Says.reached s (Says.same 4) 1 .load true (fun _ _ _ => true) (paramMisses (s.core 1) 2 [(0, [some 0x10000110, some 0x10000111, some 0x10000112, some 0x10000113])]) good s1 :=
  ⟨by decide, by decide, by decide, by decide, by decide, [(0, 0x10000110, _)], _, rfl, by decide⟩

set_option maxRecDepth 16000 in
theorem witness_ParametersAndHints_watch :
    let s := (ldgAt 0x10000040 0).setTl ((ldgAt 0x10000040 0).tl.ws 8 0xFF0)
    (s.tl.rs 8).toNat % 16 = 0 ∧ (s.tl.rs 8).toNat + 16 ≤ (s.wg (4 * s.tl.sheaf + s.tl.rank)).spad ∧ (s.tl.rp 4).toNat / 64 * 64 < 2 ^ 56 ∧
    ∃ r s1, s.translate 1 0 (s.tenantOf 70) (s.rootOf 70) 0x10000040 .load = (.ok r, s1) ∧ r.coded = false :=
  ⟨by decide, by decide, by decide, _, _, rfl, by decide⟩

/-! ### The array and the engines -/

/-- s0 whose workgroup owns 256 rows of the array and has 512 KiB of scratchpad. -/
def arr : State := s0.setWg 12 { s0.wg 12 with spad := 0x80000, accRows := 256 }

/-- arr with scalars written. -/
def arrS (l : List (SReg × Word)) : State := arr.setTl (l.foldl (fun x e => x.ws e.1 e.2) arr.tl)

theorem witness_ArrayOperationsEnter_cfg :
    Says.arrayUsable arr ∧ Says.cfgLegal 0x40 ∧ Says.cfgLegal 0x30 ∧ Says.cfgLegal 0x09 ∧ ¬Says.cfgLegal 0x0A ∧ ¬Says.cfgLegal 0x42 ∧ ¬Says.cfgLegal 0x11 ∧ ¬Says.cfgLegal 0x80 := by
  unfold Says.arrayUsable Says.cfgLegal; decide

/-- The last plane, the last rows and the largest counts that fit. -/
theorem witness_ArrayOperationsEnter_checks :
    (∀ e ∈ Says.tileChecks (.mlds true 3 10) (arrS [(10, 0x68000)]).tl (arr.wg 12), e.2.2 = false) ∧
    (∀ e ∈ Says.tileChecks (.mstr true 3 10 12) (arrS [(10, 0x100), (12, 8), (13, 248)]).tl (arr.wg 12), e.2.2 = false) ∧
    (∀ e ∈ Says.tileChecks (.mclr true 3 10 12) (arrS [(10, 0), (11, 256)]).tl (arr.wg 12), e.2.2 = false) ∧
    (∀ e ∈ Says.tileChecks (.mhist true 7 10 12) (arrS [(10, 255), (11, 1)]).tl (arr.wg 12), e.2.2 = false) ∧
    Says.evenPairs (.mstr true 3 10 12) ∧ (arr.array (arr.cur / 64)).queue.length < 16 ∧ (Says.arrayOp (.mlds true 3 10) (arrS [(10, 0x68000)]).tl (arr.wg 12)).isSome = true :=
  ⟨by decide, by decide, by decide, by decide, by simp [Says.evenPairs], by decide, by decide⟩

/-- A group table of one group, and a drain descriptor of one row. -/
theorem witness_ArrayOperationsEnter_tables :
    let w : Wg := { arr.wg 12 with bytes := writeBytes [] 0x100 ([0, 0x10, 0, 0, 0, 0, 0, 0, 4, 0, 0, 0, 1, 0, 0, 0, 4, 0, 0, 0, 0, 0, 0, 0, 0, 0, 0, 0].map (BitVec.ofNat 8)) }
    let d : Wg := { arr.wg 12 with bytes := writeBytes [] 0x106 ([1, 0, 0, 0, 16, 0, 0, 0x10].map (BitVec.ofNat 8)) }
    (∀ e ∈ Says.tileChecks (.mgrp true 4 10) (arrS [(10, 0x100)]).tl w, e.2.2 = false) ∧ ∀ e ∈ Says.tileChecks (.mdrn true 4 10) (arrS [(10, 0x100)]).tl d, e.2.2 = false := ⟨by decide, by decide⟩

/-- The first check of MSTR fails with M = 0, and its second with one row too many; an absent array and an inactive lane. -/
theorem witness_ArrayOperationsEnter_faults :
    (∃ r, Says.tileChecks (.mstr true 3 10 12) (arrS []).tl (arr.wg 12) = [] ++ (4, 0xFF, true) :: r) ∧
    (∃ r, Says.tileChecks (.mstr true 3 10 12) (arrS [(12, 8), (13, 249)]).tl (arr.wg 12) = [(4, 0xFF, false)] ++ (1, 0xFF, true) :: r) ∧
    (s0.wg (Says.own s0)).accRows = 0 ∧ (arr.wg (Says.own arr)).accRows ≠ 0 ∧ (arr.setTl (oneLane arr.tl)).tl.act ≠ 0xFFFFFFFF ∧ Says.isArray (.mswp true) = true :=
  ⟨⟨_, rfl⟩, ⟨_, rfl⟩, by decide, by decide, by decide, by decide⟩

/-- An operation in the queue of core 1. -/
def arrOp (k : ArrKind) : ArrOp := Says.entered1 k 0 (.tiller 70 (some 3) none) 12 []
def queued (l : List ArrOp) : State := arr.setArray 1 { arr.array 1 with queue := l }

theorem witness_ArrayOperationsStart :
    let s := queued [{ arrOp (.mstr 0x100 0 8 4) with started := true }, arrOp (.mlds 0 0)]
    ((queued [arrOp (.mstr 0x100 0 8 4)]).array 1).queue[0]? = some (arrOp (.mstr 0x100 0 8 4)) ∧ (arrOp (.mstr 0x100 0 8 4)).started = false ∧ (arrOp (.mstr 0x100 0 8 4)).kind.streamer = true ∧
    (s.array 1).queue[1]? = some (arrOp (.mlds 0 0)) ∧ (s.array 1).full = false ∧ (∀ x ∈ (s.array 1).queue, x.started = true → x.kind.streamer = true) ∧
    (∀ x ∈ (s.array 1).queue.take 1, x.kind.streamer = true ∧ x.kind ≠ .mdrn []) ∧ ((queued [arrOp .mswp]).array 1).queue[0]? = some (arrOp .mswp) := by decide

theorem witness_ArrayOperationsStart_swap :
    let o (g : Nat) : ArrOp := { arrOp (.mgrp 0 0 [(4, 0, 0), (2, 4, 4)]) with started := true, swap := true, grp := g }
    ((queued [o 0]).array 1).queue[0]? = some (o 0) ∧ (o 0).swap = true ∧ (o 0).grp + 1 < 2 ∧ ((queued [o 0]).array 1).full = false ∧ 2 ≤ (o 1).grp + 1 ∧
    ((queued [o 1]).setArray 1 { (queued [o 1]).array 1 with full := true }).array 1 = { (queued [o 1]).array 1 with full := true } ∧
    (∀ x ∈ ((queued [o 1]).array 1).queue, x.started = true → x.kind.streamer = true) := by decide

theorem witness_ArraySteps :
    let a : ArrOp := { arrOp (.mstr 0x100 0 8 4) with started := true, step := 7 }
    let b : ArrOp := { arrOp (.mclr 4 6 false 0) with started := true, step := 1 }
    let c : ArrOp := { Says.entered1 (.mhist 4 1 1024) 0 (.tiller 70 none (some 9)) 12 [] with started := true, step := 4 }
    ((queued [a]).array 1).queue = [a] ∧ a.step < 8 ∧ a.due = [] ∧ a.cfg.toNat % 128 < 64 ∧ (arr.wg 12).badUnits = [] ∧ (arr.wg 12).badRows = [] ∧
    ((queued [b]).array 1).queue = [b] ∧ b.due = [] ∧ (4 + 4 * b.step ≤ 9 ∧ 9 < 4 + 4 * (b.step + 1) ∧ 9 < 4 + 6) ∧ 4 + 6 ≤ 10 ∧
    ((queued [c]).array 1).queue = [c] ∧ c.step = 1 + 3 ∧ (9 : SReg) ≠ 0 := by decide

/-- A chain of unit 9, engine 1 of core 1, at 0x200. -/
def chain0 : Chain := ⟨0x200, 0x300, 70, 12, 2, 0, 0, 1, 0, 9, false, 9, none, false⟩

def chained (u : Nat) (c : Chain) : State := arr.setEngine u { Engine.reset with chain := some c }

theorem witness_EnginesAndChains_words :
    let s := withB arr 0x200 [2, 0, 0, 0, 1]
    (s.engine (engineUnit (s.cur / 64) 1)).waiting.length < 3 ∧ 0x200 + 16 ≤ (s.wg (Says.own s)).spad ∧ (readByte (s.wg (Says.own s)).bytes 0x204).toNat = 1 ∧ Memory.wf (s.wg (Says.own s)).bytes = true ∧
    s.tl.hnd = false ∧ ((chained 9 chain0).engine (engineUnit 1 1)).chain = some chain0 ∧ chain0.tid = (chained 9 chain0).cur ∧
    (∀ x ∈ ((chained 9 chain0).engine 9).waiting ++ ((chained 9 chain0).engine 9).saved, x.tid ≠ (chained 9 chain0).cur) := by decide

theorem witness_EnginesAndChains_start :
    let s (w0 : Nat) : State := (withB arr 0x200 [w0]).setEngine 9 { Engine.reset with waiting := [chain0] }
    ((s 4).engine 9).chain = none ∧ ((s 4).engine 9).waiting = [chain0] ∧ tfind (s 4).flights chain0.rel = none ∧ ((s 4).sheaf (chain0.wg / 4)).st = .resident ∧
    ((s 4).cluster ((s 4).sheaf (chain0.wg / 4)).cluster).held = false ∧ readNat ((s 4).wg 12).bytes 0x200 4 = 4 ∧ readNat ((s 5).wg 12).bytes 0x200 4 = 5 ∧
    ((chained 9 { chain0 with park := some 5 }).engine 9).chain = some { chain0 with park := some 5 } := by decide

/-- The command due in an engine's chain. -/
theorem witness_commandDue : Says.commandDue (chained 9 chain0) 9 chain0 True := by
  refine ⟨rfl, rfl, rfl, rfl, rfl, rfl, fun _ o h => ?_⟩; cases h

/-- A descriptor of 32 bytes at 0x400: 100 bytes from 0x110 to 0x404 of workgroup 1. -/
def withDesc (s : State) : State := withB s 0x400 [0x10, 1, 0, 0, 0, 0, 0, 0, 4, 4, 0, 0, 1, 0, 0, 0, 100, 0, 0, 0, 3, 0, 0, 0, 128, 0, 0, 0, 0, 1, 0, 0]

def copyCmd : Cmd := ⟨0x43, 0xFFFF, 0x400, 0, 0⟩

theorem witness_DataCommandsStart_ok :
    let s := withDesc (chained 9 chain0)
    Says.inOwn s chain0 0 0x400 32 16 ∧ (∀ f z u op size x, Says.dataCommand (.copy 9 copyCmd) s chain0 = some (u, x, op, size, z, f) → z ∧ f) ∧ chain0.done = 0 ∧
    ∀ e ∈ Says.dataRanges (.copy 9 copyCmd) chain0 (readBytes (s.wg 12).bytes 0x400 32), Says.rangeOk s chain0 e := by
  refine ⟨by unfold Says.inOwn; decide, ?_, rfl, ?_⟩
  · intro f z u op size x h
    cases h
    refine ⟨by decide, ?_⟩
    unfold Says.placeOk Says.field; decide
  · have h : Says.dataRanges (.copy 9 copyCmd) chain0 (readBytes ((withDesc (chained 9 chain0)).wg 12).bytes 0x400 32) = [(.s 0 0x110, 100), (.s 1 0x404, 100), (.s 0 chain0.bar, 16)] := by decide
    rw [h]
    simp only [List.forall_mem_cons]
    unfold Says.rangeOk
    exact ⟨by decide, by decide, by decide, by simp⟩

/-- A copy of no bytes; a descriptor off its alignment and one beyond the allocation. -/
theorem witness_DataCommandsStart_stops :
    Says.field arr chain0 0x400 16 4 = 0 ∧ Says.inOwn arr chain0 0 0x400 32 16 ∧ (0x401 % 16 ≠ 0) ∧ (0x7FFF0 % 16 = 0 ∧ (arr.wg 12).spad < 0x7FFF0 + 32) :=
  ⟨by unfold Says.field; decide, by unfold Says.inOwn; decide, by decide, by decide⟩

/-- A select of the ten greatest of 100 FP16 numbers in three segments. -/
theorem witness_DataCommandsStart_select :
    let s := withB (withB (chained 11 chain0) 0x410 [100, 0, 0, 0, 10, 0, 1, 3, 0, 7, 0, 0, 0, 9, 0, 0]) 0x700 [0, 0, 0, 0, 10, 0, 0, 0, 10, 0, 0, 0, 100, 0, 0, 0]
    let f := Says.field s chain0 0x400
    (f 16 4, f 20 2, f 22 1, f 23 1, f 24 4, f 28 4) = (100, 10, 1, 3, 0x700, 0x900) ∧ (∀ j, j ≤ 3 → Says.field s chain0 0x700 (4 * j) 4 ≤ 100) ∧
    (∀ j, j < 3 → Says.field s chain0 0x700 (4 * j) 4 ≤ Says.field s chain0 0x700 (4 * (j + 1)) 4) ∧ Says.rangeOk s chain0 (.s 0 0x700, 16) ∧ Says.rangeOk s chain0 (.s 0 0x900, 24) ∧
    Says.rangeOk s chain0 (.g 0, 200) ∧ Says.flagsWithin ⟨0x40, 0xFFFF, 0x400, 0, 0⟩ 0xCF := by
  refine ⟨by decide, by decide, by decide, ?_, ?_, ?_, ?_⟩
  · unfold Says.rangeOk; decide
  · unfold Says.rangeOk; decide
  · unfold Says.rangeOk; decide
  · unfold Says.flagsWithin; decide

/-- The edges of the control commands: a loop that ends and one that goes on, each test of IF, a phase passed and not, an arrival that completes and one too many, an end that arrives. -/
theorem witness_ControlCommands :
    Says.inOwn arr chain0 0 0x300 16 16 ∧ Says.inOwn arr chain0 1 0x300 16 16 ∧ Says.inOwn arr chain0 0 0x7FFFC 4 4 ∧ ((0 : BitVec 8) = 0) ∧ (3 : BitVec 8).toNat < 4 ∧
    ((arr.arriveAt 12 0x300 2).isNone = true) ∧ ((withB arr 0x304 [1]).arriveAt 12 0x300 2).isSome = true ∧
    (1 ≤ (1 + 2 ^ 32 - 0) % 2 ^ 32 ∧ (1 + 2 ^ 32 - 0) % 2 ^ 32 < 2 ^ 31) ∧ ¬(1 ≤ (0 + 2 ^ 32 - 0) % 2 ^ 32) :=
  ⟨by unfold Says.inOwn; decide, by unfold Says.inOwn; decide, by unfold Says.inOwn; decide, by decide, by decide, by decide, by decide, by decide, by decide⟩

theorem witness_ControlCommands_saved :
    let s := (chained 9 chain0).setSheaf 3 { (chained 9 chain0).sheaf 3 with st := .pending }
    (s.engine 9).chain = some chain0 ∧ (s.engine 9).work = none ∧ chain0.park = none ∧ (s.sheaf (chain0.wg / 4)).st = .pending ∧ (s.cluster (s.sheaf (chain0.wg / 4)).cluster).held = false ∧
    (s.array (9 / 8)).queue = [] ∧ Memory.wf (s.wg chain0.wg).bytes = true := by decide

theorem witness_ArrayCommands :
    let s := chained 8 chain0
    let x : Cmd := ⟨0x40, 0xFFFF, 0x1000, 0, 0⟩
    (Says.arrayCommand (.cmdMlds 8 x) (s.wg 12)).isSome = true ∧ (∃ k, (s.wg 12).mlds 0x1000 0 = .ok k) ∧ (∃ f, (s.wg 12).mlds 0x1008 0 = .error f) ∧ Says.flagsWithin x 0xC0 ∧ (s.wg 12).accRows ≠ 0 ∧
    (s0.wg 12).accRows = 0 ∧ (s.array (8 / 8)).queue.length < 16 ∧ Says.inOwn s chain0 0 chain0.bar 16 16 ∧ Says.inOwn s chain0 0 0x7FFFC 4 4 ∧
    16 ≤ ((queued (List.replicate 16 (arrOp .mswp))).array (8 / 8)).queue.length :=
  ⟨rfl, ⟨_, rfl⟩, ⟨_, rfl⟩, by unfold Says.flagsWithin; decide, by decide, by decide, by decide, by unfold Says.inOwn; decide, by unfold Says.inOwn; decide, by decide⟩

theorem witness_WalkerCommands :
    let s := withB (chained 4 chain0) 0x400 [0, 0, 0x40, 0, 0, 0, 0, 0, 0x80, 0, 0, 0, 0, 0, 0, 0]
    let f := Says.field s chain0 0x400
    f 0 8 = 0x400000 ∧ f 8 8 = 128 ∧ f 8 8 % 64 = 0 ∧ f 16 8 % 2 ^ 52 = 0 ∧ f 24 8 / 4 = 0 ∧ s.writesPending (fun k => k.within [(0x400000, 128)]) = false ∧ Says.inOwn s chain0 0 0x400 32 16 ∧
    Says.inOwn s chain0 0 0x600 16 16 ∧ (0x10000 % 65536 = 0 ∧ s.accessPending (fun k => k.within ((s.leavesOf 0 0x10000 0x20000 2).map fun l => leafSpan l.2.1 l.2.2)) = false) :=
  ⟨by decide, by decide, by decide, by decide, by decide, by decide, by unfold Says.inOwn; decide, by unfold Says.inOwn; decide, by decide⟩

/-! ### The rest of the device -/

theorem witness_Cycles :
    let s := s0.setCore 1 { s0.core 1 with openCls := some 3 }
    let r := s0.setCluster 0 { s0.cluster 0 with ret := true }
    (s.core 1).openCls = some 3 ∧ (s.core 1).tcyc.length = 4 ∧ (s0.core 1).openCls = none ∧ (s0.cluster 0).ret = false ∧ (s0.core 1).cont = [] ∧ (r.cluster (1 / 4)).ret = true := by decide

theorem witness_TimersAndAllowance :
    let s := on fun t => { t with elig := true, wait := 63, withheld := some 0 }
    let d := on fun t => { t with elig := false, released := false, defer := some 55 }
    (s.tiller 70).elig = true ∧ 64 ≤ (s.tiller 70).wait + 1 ∧ (s.tiller 70).withheld = some 0 ∧ 0 + 10000 ≤ ({ s with now := 10000 * ticksPerNs } : State).time ∧
    (70, d.tl) ∈ d.tillers ∧ d.tl.live = true ∧ d.tl.elig = false ∧ d.tl.defer = some 55 ∧ 55 + (d.cluster (1 / 4)).batchw ≤ (d.core 1).cycles := by decide

/-- A region with a run limit of 100 ns and a fault queue. -/
def region (s : State) : State := { s with rcbs := [(0, { Rcb.zero with ovr := 127, grant := 1, fmincap := 600, budget := 1, fdq := 0x5000, runlim := 100, stalllim := 50, zeroOk := true })] }

theorem witness_TimersAndAllowance_watchdog :
    let s := (region s0).setSheaf 3 { s0.sheaf 3 with run := 100, stall := 50 }
    (s.sheaf 3).st = .resident ∧ s.effRunlim 0 ≠ 0 ∧ s.effRunlim 0 ≤ (s.sheaf 3).run ∧ s.effStalllim 0 ≠ 0 ∧ s.effStalllim 0 ≤ (s.sheaf 3).stall ∧ s.malformed 0 = false ∧ s.effFdq 0 ≠ 0 := by decide

theorem witness_FrequencyAndRetention :
    let c := fun f => State.reset.setCluster 5 (f (State.reset.cluster 5))
    let late : State := { State.reset with now := 100000 * ticksPerNs }
    ((c fun x => { x with step := true, tgt := 1725 }).cluster 5).step = true ∧ ((c fun x => { x with step := true }).cluster 5).stepEnd ≤ State.reset.time ∧ Says.ctlServes State.reset ∧
    (State.reset.cluster 5).step = false ∧ (late.cluster 5).ret = false ∧ (late.cluster 5).retIdle ≠ 0 ∧ late.clusterIdle 5 = true ∧ (late.cluster 5).idleSince + 1000 * (late.cluster 5).retIdle ≤ late.time ∧
    ((c fun x => { x with ret := true }).cluster 5).ret = true ∧ ((c fun x => { x with held := true }).cluster 5).held = true ∧ Says.rising State.reset.sheaves :=
  ⟨by decide, by decide, rfl, by decide, by decide, by decide, by decide, by decide, by decide, by decide, by unfold Says.rising; decide⟩

theorem witness_FrequencyAndRetention_boost :
    let b := fun f (n : Nat) => ({ State.reset with pkg := f Pkg.reset, now := n * ticksPerNs } : State)
    (b (fun p => { p with boostReq := true }) 0).pkg.boostAt = 0 ∧ (b (fun p => { p with boostReq := true, boostAt := 1 }) 8000000001).pkg.boostAt + 8000000000 ≤ (b id 8000000001).time ∧
    (b id 8000000000).time < 1 + 8000000000 ∧ (b (fun p => { p with boostOpen := true }) 2000000000).pkg.boostAt + 2000000000 ≤ (b id 2000000000).time := by decide

/-- A request for the line at 0x400000. -/
def req (op : ReqOp) : Req := ⟨9, 1, 70, none, ⟨0x400000, 0, 0⟩, 0x400000, op, 0, 0⟩

theorem witness_HomesAndCodec_homes :
    let r := req (.read true false false)
    let s : State := { s0 with transit := [r] }
    ((s0.setSlice 7 { s0.slice 7 with queue := [r] }).slice 7).queue ≠ [] ∧ s.transit = [r] ∧ r.src = 1 ∧ s.heldRange r.pa = false ∧ (s.slice (s.home r.pa)).queue = [] ∧
    s0.populated 0x400000 = true ∧ Memory.wf s0.mem = true ∧ s0.bad 0x400000 = false ∧ s0.aftbase % 2 = 0 ∧ [(0, (1 : Byte)), (63, 2)].Pairwise (fun a b => a.1 ≠ b.1) := by decide

/-- A line of the granary under a pinned contract, and a load that waits for it. -/
theorem witness_HomesAndCodec_granary :
    let s : State := { s0 with resid := [(3, { ResEntry.reset with valid := true, kind := 1, place := 3, base := 0x20000000000, size := 0x10000 })] }
    physKind 0x20000000040 = .granary ∧ s.populated 0x20000000040 = true := by decide

theorem witness_HomesAndCodec_waits :
    let q : Part := { part [] false with st := .sent }
    Says.waitsFor (flying { Flight.blank with kind := .load 8 .w [], parts := [q] }) 0 ⟨0x400040, 0, 0⟩ .sent q :=
  ⟨⟨8, .w, [], rfl⟩, rfl, by decide, rfl, rfl⟩

theorem witness_HomesAndCodec_deadline :
    let l : L1Line := ⟨⟨0x400000, 0, 0⟩, 0, List.replicate 63 (.clean 3) ++ [.dirty 7], 0, 0, 70, 0, 0⟩
    let s : State := { s0.setCore 1 { s0.core 1 with l1 := [l] } with now := 10000 * ticksPerNs }
    (s.core 1).l1[0]? = some l ∧ l.since + 10000 * ticksPerNs ≤ s.now ∧ l.dirtyBytes ≠ [] ∧ l.key.rate = 0 := by decide

theorem witness_HomesAndCodec_codec :
    let j (k : CodecKind) : CodecJob := ⟨k, 0x400000, 2, 0, 0, 0, 0, true, none, 0xFF, 0⟩
    let s (k : CodecKind) : State := s0.setCore 1 { s0.core 1 with jobs := [j k] }
    ((s .busy).core 1).jobs = [j .busy] ∧ (j .busy).started = true ∧ (j .busy).left = 0 ∧ (s .busy).blockHeld 0x400000 = false ∧ (s .busy).blockBad 0x400000 2 = false ∧
    ((s (.decode [0] true)).core 1).jobs = [j (.decode [0] true)] ∧ ((s (.write 8 none [(3, 1)] 70)).core 1).jobs = [j (.write 8 none [(3, 1)] 70)] := by decide

/-- Requests of sources 3 and 7 wait at a bank with one before them. -/
def bank0 : Bank := { Bank.reset with waiting := [⟨0x400000, true, 3, none⟩, ⟨0x400000, true, 7, none⟩], queue := [⟨0x400000, true, 1, none⟩], last := 5, ctrs := [⟨7, 3, 0⟩] }

theorem witness_BanksAndScrubs :
    bank0.waiting ≠ [] ∧ bank0.queue.length < 16 ∧ 16 ≤ ({ bank0 with queue := List.replicate 16 ⟨0x400000, true, 2, none⟩ } : Bank).queue.length ∧
    ((State.reset.setBank 2053 bank0).bank (2048 * 1 + 5)).queue = [⟨0x400000, true, 1, none⟩] ∧ (State.reset.die 1).en = true ∧ (∀ c ∈ bank0.ctrs, c.row ≠ 33) ∧ 2 ≤ (State.reset.die 1).thresh ∧
    bank0.retry = false ∧ ({ bank0 with retry := true, retrySince := 1 } : Bank).retrySince + 60000000000 ≤ ({ State.reset with now := 60000000001 * ticksPerNs } : State).time ∧
    physKind (64 * 0x10000) = .hbm 0 := by decide

/-- The tables of a region: 2 MiB at 0x10000000, and below 0x10200000 a table of 64 KiB pages. -/
def withTables (s : State) : State := { s with mem := ([(0x10000, 0x11 * 2 ^ 24 + 1), (0x11000, 0x12 * 2 ^ 24 + 1), (0x12000, 0x13 * 2 ^ 24 + 1), (0x13000 + 8 * 128, 0x400 * 2 ^ 24 + 0xF),
  (0x13000 + 8 * 129, 0x14 * 2 ^ 24 + 1), (0x14000, 0x800 * 2 ^ 24 + 0x3), (0x14000 + 24, 0x830 * 2 ^ 24 + 0x7)] : List (Nat × Nat)).foldl (fun m e => writeNat m e.1 8 e.2) s.mem }

/-- A leaf of either size, an absent entry, and a store to a page that does not allow it. -/
theorem witness_Translation_walk :
    let s := withTables s0
    s.walk 0x10000 0x10001234 .load = .leaf 0x40000000F 0x200000 ∧ s.walk 0x10000 0x10231234 .store = .leaf 0x830000007 0x10000 ∧ s.walk 0x10000 0x10400000 .load = .notPresent ∧
    s.walk 0x10000 0x10210000 .load = .notPresent ∧ s.walk 0x10000 0x10200000 .store = .protection := by decide

theorem witness_Translation_entries :
    let s := withTables s0
    let e := Says.entryAt s
    Says.readable s (0x10000 + 8 * (0x10231234 / 2 ^ 47 % 2 ^ 9)) ∧ Says.pointsTo (e 0x10000 0x10231234 47 9) 0x11000 ∧ Says.pointsTo (e 0x11000 0x10231234 38 9) 0x12000 ∧
    Says.pointsTo (e 0x12000 0x10231234 29 9) 0x13000 ∧ Says.pointsTo (e 0x13000 0x10231234 21 8) 0x14000 ∧ e 0x14000 0x10231234 16 5 % 4 = 3 ∧ e 0x13000 0x10001234 21 8 % 4 = 3 :=
  ⟨by unfold Says.readable; decide, by unfold Says.pointsTo; decide, by unfold Says.pointsTo; decide, by unfold Says.pointsTo; decide, by unfold Says.pointsTo; decide, by decide, by decide⟩

theorem witness_Translation_tlb :
    let s := withTables (s0.setCore 1 { s0.core 1 with tlb2 := [] })
    let f (again : Bool) := (on fun t => { t with block := .fault 0x1000 .load false again }).setCore 1 { s0.core 1 with faultBuf := [70] }
    (s.core 1).tlbFind 2 0x10000 0x10001234 = none ∧ s.pkg.tlbGo = false ∧ Says.covered { s.pkg with tlbVpn := 0x1000, tlbCount := 1 } 0x10000 0x1000 ∧
    ((f false).tiller 70).block = .fault 0x1000 .load false false ∧ ((f false).tiller 70).live = true ∧ ((f true).tiller 70).step = none :=
  ⟨by decide, by decide, by unfold Says.covered; decide, by decide, by decide, by decide⟩

/-- An entry for 64 KiB at 4 MiB. -/
def entry0 : ResEntry := { ResEntry.reset with base := 0x400000, size := 0x10000 }

def mapped (e : ResEntry) : State := { s0 with resid := [(3, e)] }

set_option maxRecDepth 16000 in
/-- A range of host memory commits; kind 3 does not; a pinned entry is on its way in. -/
theorem witness_ResidencyMap :
    let w (v : Nat) := Says.fieldsOf ((mapped entry0).res 3) v
    (entry0.change = 0 ∧ entry0.valid = false ∧ entry0.base < 2 ^ 64 ∧ entry0.size < 2 ^ 64) ∧ (mapped entry0).commitErr 3 (w 1) = 0 ∧ (mapped entry0).commitErr 3 (w 7) ≠ 0 ∧
    (let e := { entry0 with valid := true }; Says.fieldsOf ((mapped e).res 3) 0 = (mapped e).res 3 ∧ e.policy = 0) ∧
    (let e := { entry0 with valid := true, kind := 1, change := 1 }; (mapped e).queuedIn e = false) := by decide

/-- A launch of two sheaves of one tiller, none placed. -/
def waiting0 : State := { State.reset with
  launches := [(4, { Launch.blank with status := 1, pkt := { Packet.zero with gx := 2, gy := 1, gz := 1, wg := 1, tillers := 1, ng := 4, spadg := 1, region := 0x1000, cmask := 0xFFFFFFFFFFFFFFFF, minFreq := 600, maxPower := 1, trapv := [1, 1, 1, 1, 1, 1, 1] } })],
  rcbs := [(0x1000, { Rcb.zero with id := 9, runlim := 100, stalllim := 50, fdq := 0x5000, ovr := 127, zeroOk := true, grant := 10, fmincap := 600, budget := 1, prio := 3, preempt := true })] }

theorem witness_Placement_decide :
    ∃ (s1 : State) (c : Cand) (cl : Nat) (cores : List (Nat × Nat)), waiting0.candidates (waiting0.launches.map (·.1)) = ([c], s1) ∧ c.sheaf = none ∧
      ({ s1 with served := s1.served.filter fun e => s1.candRegion c == e.1 } : State).findFit c = some (cl, cores) ∧ Says.rising s1.sheaves :=
  ⟨_, _, _, _, rfl, rfl, rfl, by unfold Says.rising; decide⟩

theorem witness_Placement_none : ∃ s1 : State, State.reset.candidates (State.reset.launches.map (·.1)) = ([], s1) := ⟨_, rfl⟩

/-- A sheaf whose one tiller has exited, before and after its closing release, with a frame set and without. -/
def ended (closing : Bool) (fs : Option Nat) : State :=
  let s := on fun t => { t with exited := true, run := none }
  s.setSheaf 3 { s.sheaf 3 with closing := closing, frameSet := fs }

theorem witness_Placement_retire : Says.mayEnd (ended false none) 3 ∧ Says.mayEnd (ended true none) 3 ∧ Says.mayEnd (ended true (some 2)) 3 ∧ Says.rising (ended true none).sheaves := by
  unfold Says.mayEnd Says.isResident Says.rising; decide

theorem witness_Placement_graphs :
    let g (running : Bool) : State := { s0 with graphs := [(5, ⟨0x10000000, 0, 70, 1, [], running, []⟩)] }
    (∀ l ∈ ([] : List Nat), 2 ≤ ((g true).launch l).status) ∧ (((g false).instances 0x10000000 0).head?.map (·.1)) = some 5 := by decide

/-- A sheaf to be pre-empted: its tiller halted, its frame set at 0x10000000. -/
def halted (h : HaltSt) (st : SheafSt) (closing : Bool) : State :=
  let s := withTables (on fun t => { t with halt := h, run := none })
  let s := s.setSheaf 3 { s.sheaf 3 with st := st, frameSet := some 0, closing := closing }
  let s := s.setLaunch 2 { s.launch 2 with pkt := { (s.launch 2).pkt with wg := 1, nframes := 1, frameBase := 0x10000000, region := 0x1000 } }
  { s with rcbs := [(0x1000, { Rcb.zero with ptroot := 0x10000, ovr := 127, zeroOk := true })], wgs := [(12, { Wg.blank with spad := 64, core := 1 })], cores := [(1, { Core.reset with tlb2 := [⟨0x10000, 0x10000000, 0x200000, 0x40000000F⟩] })] }

theorem witness_Preemption_saves :
    let s := halted .halted .pending true
    (s.sheaf 3).frameSet = some 0 ∧ (s.cluster (s.sheaf 3).cluster).held = false ∧ (s.tiller 70).halt = .halted ∧ (s.tiller 70).exited = false ∧ s.sheafQuiet 3 = true ∧ s.saveReady 3 0 = true ∧
    (halted .halted .pending false).sheafQuiet 3 = true := by decide

theorem witness_Preemption_frame :
    let s := halted .halted .pending true
    ∃ rs s1, s.devLines 70 .store (pieces ((s.launch (s.sheaf 3).launch).pkt.tillerFrame 0 (s.tiller 70).rank (s.tiller 70).num) 22) = (.ok rs, s1) := ⟨_, _, rfl⟩

theorem witness_Preemption_resumes :
    let s := halted .waiting .resuming true
    (s.tiller 70).halt = .waiting ∧ (s.restoreWgs 3 0 (List.range (s.launch (s.sheaf 3).launch).pkt.wg)).isSome = true := by decide

/-- CTXDONE as a clause's next word, in the pre-empt handler and in another. -/
theorem witness_Preemption_ctxdone :
    let s (c : Word) := on fun t => { t with hnd := true, tcause := c, run := some { run0 with words := [0xF3, 0x0E000003, 0, 0], handler := true } }
    (s 0x11).tl.hnd = true ∧ (s 0x11).tl.tcause.toNat % 256 = 0x11 ∧ (∀ k, k < 16 → (s 0x11).tl.ctr k = 0) ∧ (s 0x11).tl.pend = [] ∧ ((s 0x11).array ((s 0x11).cur / 64)).queue = [] ∧
    ((s 0x11).sheaf (s 0x11).tl.sheaf).st ≠ .saving ∧ (fOp (lget 0 [0xF3, 0x0E000003, 0, 0] 1)).toNat = 0x0E ∧ (s 0x12).tl.tcause.toNat % 256 ≠ 0x11 := by decide

theorem witness_HostRegisters :
    Says.ctlServes State.reset ∧ (0x100000003 : DWord).toNat.testBit 32 = true ∧ ¬(2 = 4 ∨ 2 = 8) ∧ 0x1004 % 8 ≠ 0 ∧ Memory.wf State.reset.pkg.telem = true ∧ (5 : BitVec 8) ≠ 0 ∧ (1 : BitVec 4).toNat < 2 :=
  ⟨rfl, by decide, by decide, by decide, by decide, by decide, by decide⟩

/-- A line of host memory, sent over the link, and a load that waits for it. -/
def linkedPart : Part := ⟨⟨0x1000000000040, 0, 0⟩, 0x1000000000040, 0x10000040, 0, 0, 0x200000, .read true false false, .sent, [], false, false⟩

def linked : State :=
  let k : LKey := ⟨0x1000000000040, 0, 0⟩
  { flying { Flight.blank with kind := .load 8 .w [], parts := [linkedPart] } with links := [⟨⟨9, 1, 70, some 0, k, k.base, .read true false false, 0, 0⟩, false⟩], pkg := { Pkg.reset with hostUp := true, peerUp := [(2, true)], masked := [3], msgPending := [3] } }

theorem witness_HostTraffic :
    (0 < 100 ∧ 0x400010 + 100 ≤ 0x21000000000) ∧ linked.pkg.hostUp = true ∧ tget false linked.pkg.peerUp 2 = true ∧ tget false linked.pkg.peerUp 3 = false ∧ physKind 0x1000000000040 = .host ∧
    linked.bad 0x1000000000040 = false ∧ linked.pkg.hostUp = true ∧ 3 ∈ linked.pkg.msgPending ∧ 4 ∉ linked.pkg.masked := by decide

theorem witness_HostTraffic_waits :
    ∃ q, Says.waitsFor linked 0 ⟨0x1000000000040, 0, 0⟩ .sent q :=
  ⟨linkedPart, ⟨8, .w, [], rfl⟩, rfl, by decide, rfl, rfl⟩

/-- The second word of a clause is due, ADD S5, S1, S2, and may issue: its registers free, its debit not yet paid or paid. -/
theorem witness_StepRunsDecoded_word :
    let s : State := { (on fun t => { t with run := some { run0 with words := [0xF3, 0x100A0410, 0, 0] } }) with turns := [.tiller 70] }
    (s.tiller 70).errs = [] ∧ (s.tiller 70).again = false ∧
    (∀ x ∈ Instr.uses (.add false 5 1 2), x ∉ (s.tiller 70).pend) ∧ Instr.counter (.add false 5 1 2) = none ∧ ({ s with turns := [], cur := 70 } : State).noRoom (.add false 5 1 2) = false ∧
    (∃ x ∈ Instr.uses (.add false 5 1 2), x ∈ [PReg.s 1]) ∧ (Instr.counter (.atom true .add .w 7 2 3 0)).isSome = true := by decide

theorem witness_StepRunsDecoded_decode : decode (bytesOf 0x100A0410 ++ bytesOf 0) = .ok (.add false 5 1 2, bytesOf 0) ∧ decodeWord false 0x100A0410 0 = .ok (.add false 5 1 2) := ⟨rfl, rfl⟩

/-- A command that stands at its chain's index. -/
theorem witness_StepRunsDecoded_command :
    let s := chained 9 chain0
    (s.engine 9).chain = some chain0 ∧ (s.engine 9).work = none ∧ chain0.park = none ∧ (s.sheaf (chain0.wg / 4)).st = .resident ∧ (s.cluster (s.sheaf (chain0.wg / 4)).cluster).held = false ∧
    chain0.off + 16 + 16 * chain0.cidx + 16 ≤ (s.wg chain0.wg).spad ∧ (decodeCmd 9 ⟨0xFFFF4301, 0, 0, 0⟩).isSome = true := by decide

theorem witness_RoundTrip : Instr.isWord (.add false 5 1 2) = true ∧ Instr.wf (.add false 5 1 2) = true ∧ decode (encodeBytes (.add false 5 1 2) ++ [9]) = .ok (.add false 5 1 2, [9]) := ⟨by decide, by decide, rfl⟩

theorem witness_StepKeepsMemory : State.reset.memOk ∧ ∃ s' : State, step State.reset = .next s' := ⟨by unfold State.memOk; decide, _, rfl⟩

theorem witness_WordsHaveOneMeaning : decode [0x10, 0x04, 0x0A, 0x10, 9] = .ok (.add false 5 1 2, [9]) ∧ decode [0x0A, 0x00, 0x00, 0x50, 0x78] = .ok (.fadd false .h2 0 0 1, [0x78]) := ⟨rfl, rfl⟩

/-! ### More forms of the same statements -/

/-- A state whose 2 MiB at 0x10000000 stand under a leaf: at an address, with its bits 8 and up. -/
def under (pa bits : Nat) (s : State) : State := s.setCore 1 { s.core 1 with tlb2 := [⟨0, 0x10000000, 0x200000, BitVec.ofNat 64 (pa / 4096 * 2 ^ 24 + 0x100 * bits + 0xF)⟩] }

set_option maxRecDepth 16000 in
/-- A lane of a load, and the line of a watch, behind a link that is down. -/
theorem witness_AccessFaults_link :
    let s := under 0x880000000000 0 (ldgAt 0x10000040 0)
    ∃ x r s1, Says.accessOf (.ldg true 8 (.sc 4) 3 .w .normal) s = some x ∧ s.tl.gCount + 4 ≤ s.tl.ng ∧ s.laneLines s.cur x.w x.al x.acc x.coded x.lanes = ([⟨0, 0x10000040, .ok r⟩], s1) ∧
      s1.linkDown r.pa = true ∧ r.coded = false ∧ s.translate 1 0 (s.tenantOf 70) (s.rootOf 70) 0x10000040 .load = (.ok r, s1) :=
  ⟨_, _, _, rfl, by decide, rfl, by decide, by decide, rfl⟩

set_option maxRecDepth 16000 in
/-- A store past the cache to a block that its home holds. -/
theorem witness_AccessFaults_held :
    let s0 := under 0x400000 1 (ldgAt 0x10000040 0)
    let s := s0.setSlice (s0.home 0x400000) { s0.slice (s0.home 0x400000) with held := [0x400000] }
    ∃ x r s1, Says.accessOf (.stg true 8 (.sc 4) 3 .w .byp) s = some x ∧ s.laneLines s.cur x.w x.al x.acc x.coded x.lanes = ([⟨0, 0x10000040, .ok r⟩], s1) ∧
      r.coded = true ∧ s1.blockHeld r.key.base = true ∧ x.out s1 [(0, 0x10000040, r)] r = true := ⟨_, _, _, rfl, rfl, by decide, by decide, by decide⟩

set_option maxRecDepth 16000 in
/-- An atomic of the steward on KVEPOCH. -/
theorem witness_GlobalAtomics_control :
    let s := under 0x40000000000 0 (on fun t => { oneLane (t.ws 4 0x10001010) with steward := true })
    ∃ r s1, Says.reached s (Says.same 4) 4 .atomic false (fun _ _ _ => false) [(0, 0x10001010)] [(0, 0x10001010, r)] s1 ∧ r.pa % 2 ^ 32 + 0x10001010 % 64 = 0x1010 ∧ physKind r.pa = .control ∧ s1.pkg.err = 0 :=
  ⟨_, _, ⟨rfl, by decide⟩, by decide, by decide, by decide⟩

/-- A WAIT.b whose phase has passed, of a tiller with a load out and of one without; an ARRIVE.r that names a rank above 3. -/
theorem witness_Waits_out :
    let s := { barrier 0 with flights := [(0, loadFlight false)] }
    (∃ e ∈ s.flights, e.2.tid = 70 ∧ e.2.kind.covered = true ∧ e.2.kind.returns = true) ∧ s.tl.run = some run0 ∧ (¬∃ e ∈ (barrier 0).flights, e.2.tid = 70 ∧ e.2.kind.covered = true) ∧
    Says.arriveOf (.arriveR true 5 4 7) (withS [(4, 0x40), (7, 6)]).tl = some (true, 5, 0x40, 6, 2, 0) :=
  ⟨⟨(0, loadFlight false), by decide⟩, by decide, by decide, by decide⟩

/-- Lanes of a uniform load, all at one place; lanes of a load from another rank, by rising lanes. -/
theorem witness_GlobalLoads_uniform :
    let refs : List LaneRef := [⟨0, ⟨0x400040, 0, 0⟩, 60⟩, ⟨3, ⟨0x400040, 0, 0⟩, 60⟩]
    (∀ r ∈ refs, ∀ r' ∈ refs, r.key = r'.key ∧ r.off = r'.off) ∧ refs.Pairwise (fun r r' => r.lane < r'.lane) ∧ (∀ k, k < 32 → (9 : Word).getLsbD k = true → ∃ r ∈ refs, r.lane = k) ∧
    [(0, 16), (3, 16)].Pairwise (fun (e e' : Nat × Nat) => e.1 < e'.1) := by decide

/-- A full queue holds an array word back, and not MCFG. -/
theorem witness_ArrayOperationsEnter_full :
    let s := queued (List.replicate 16 (arrOp .mswp))
    Says.arrayUsable s ∧ 16 ≤ (s.array (s.cur / 64)).queue.length ∧ (∀ p a, Instr.mswp true ≠ .mcfg p a) ∧ (∃ a b c, s.tl.deferred ⟨a, 3, [], 1, b, c, false, false⟩ (.mswp true) = none) :=
  ⟨by unfold Says.arrayUsable; decide, by decide, fun _ _ h => (nomatch h), 0, false, 0, rfl⟩

/-- The operations whose steps ArrayDataMoves gives, each alone in the queue, begun, on bytes and rows without error: a load half done, a group of no rows and one of four, a row that is due, a fill, and a drain to each kind of format. -/
theorem witness_ArraySteps_data :
    let o (k : ArrKind) : ArrOp := { arrOp k with started := true }
    let due : ArrOp := { o (.mstr 0x100 0 8 4) with step := 3, due := [(3, .row 5 [7])] }
    let desc (fmt : Nat) : List Byte := [fmt, 0, 0, 0, 1, 0, 4, 0, 0, 0, 48, 0, 0, 0x10, 0, 0, 0x40, 0].map (BitVec.ofNat 8) ++ List.replicate 30 0
    Says.sound (queued [o (.mlds 0x1000 0)]) (o (.mlds 0x1000 0)) ∧ 0 < (24576 + 2047) / 2048 ∧ ((queued [o (.mlds 0x1000 0)]).array 1).shadow = ⟨[], []⟩ ∧
    (o (.mgrp 0 0 [(0, 0, 0), (4, 0, 0)])).swap = false ∧ ([(0, 0, 0), (4, 0, 0)] : List (Nat × Nat × Nat))[1]? = some (4, 0, 0) ∧
    due.due = [(due.step, .row 5 [7])] ∧ due.who = .tiller 70 (some 3) none ∧ (o (.mclr 4 6 true 0x1000)).due = [] ∧
    (∀ k, k ≤ 6 → natOfBytes ((desc k).take 4) % 16 = k) ∧ natOfBytes (((desc 4).drop 10).take 2) % 48 = 0 ∧ 0 < natOfBytes (((desc 4).drop 6).take 2) := by
  unfold Says.sound; decide

/-- An engine full of waiting chains of the tiller and of another; a chain parked, another saved. -/
theorem witness_EnginesAndChains_kill :
    let other : Chain := { chain0 with tid := 71 }
    let s := (chained 9 chain0).setEngine 9 { (chained 9 chain0).engine 9 with waiting := [other, chain0, other], saved := [{ chain0 with code := 4 }] }
    3 ≤ (s.engine (engineUnit (s.cur / 64) 1)).waiting.length ∧ (s.engine 9).work = none ∧ Says.noPiece s 9 ∧ (s.engine 9).chain = some chain0 ∧
    chain0 ∈ (s.engine 9).waiting ∧ chain0.tid = s.cur ∧ s.tl.steward = false ∧ tfind s.flights chain0.rel = none := by
  refine ⟨by decide, by decide, ?_, by decide, by decide, by decide, by decide, by decide⟩
  intro j h; cases h

theorem witness_EnginesAndChains_replay :
    let c : Chain := { chain0 with park := some 5, cidx := 2, done := 0 }
    let s := (withB arr 0x200 [2, 0, 0, 0, 3, 0, 0, 0, 2]).setEngine 9 { Engine.reset with chain := some c, work := some ⟨3, ⟨3, 0xFFFF, 0x300, 0, 0⟩, [], 40, some (1, 7), none⟩ }
    (s.engine 9).chain = some c ∧ c.park = some 5 ∧ readNat (s.wg c.wg).bytes c.off 4 = 2 ∧ readNat (s.wg c.wg).bytes (c.off + 8) 2 = c.cidx ∧ readNat (s.wg c.wg).bytes (c.off + 12) 4 = 0 ∧
    readNat ((withB arr 0x200 [7]).wg c.wg).bytes c.off 4 = 7 := by decide

/-- A piece of work, its descriptor's fields given in turn, each with its size. -/
def workOf (op fl y pos : Nat) (desc : List (Nat × Nat)) : Work :=
  ⟨op, ⟨BitVec.ofNat 8 fl, 0xFFFF, 0x300, BitVec.ofNat 32 y, 0⟩, desc.flatMap fun e => bytesOfNat e.1 e.2, pos, none, none⟩

/-- An entry for the page at 0x10000000, and the core of s0 with it in its TLBs. -/
def entryOf (leaf : DWord) : TlbEntry := ⟨0, 0x10000000, 0x200000, leaf⟩
def leafCore (leaf : DWord) : Core := { s0.core 1 with tlb1 := [(0, [entryOf leaf])], tlb2 := [entryOf leaf] }
def core0 : Core := leafCore 0x40000000F

/-- Engine 9 in the middle of its work, with 3 and all ones at 0x500 of workgroup 0, the page at 0x10000000 under a leaf. -/
def workingOn (leaf : DWord) (w : Work) : State :=
  { withB arr 0x500 [3, 0, 0, 0, 0xFF, 0xFF, 0xFF, 0xFF] with cores := [(1, leafCore leaf)], engines := [(9, { Engine.reset with chain := some chain0, work := some w })] }
def working (w : Work) : State := workingOn 0x40000000F w

theorem tget_of_all {α : Type} {P : α → Prop} {d : α} (hd : P d) : ∀ {t : Table α}, (∀ e ∈ t, P e.2) → ∀ k, P (tget d t k)
  | [], _, _ => hd
  | e :: t, h, k => by
    rw [tget]; split
    · exact h e (.head _)
    · exact tget_of_all hd (fun x hx => h x (.tail _ hx)) k

theorem working_atWork (leaf : DWord) (w : Work) : Says.atWork (workingOn leaf w) 9 chain0 w :=
  ⟨rfl, rfl, rfl, rfl, rfl, fun _ h => (nomatch h),
    tget_of_all (P := fun g : Wg => Memory.wf g.bytes = true) (by decide) (by change ∀ e ∈ (withB arr 0x500 [3, 0, 0, 0, 0xFF, 0xFF, 0xFF, 0xFF]).wgs, _; decide),
    by change Memory.wf (withB arr 0x500 [3, 0, 0, 0, 0xFF, 0xFF, 0xFF, 0xFF]).mem = true; decide⟩

/-- The line of each 64 bytes of addresses of that page. -/
def pageRef (n : Nat) : LineRef := ⟨⟨0x400000 + (64 * n - 0x10000000), 0, 0⟩, 0x400000 + (64 * n - 0x10000000), 0, false, 0, 64 * n, 0x200000⟩

/-- With no copy of an RCB every effective field is 0. -/
theorem eff_none {s : State} (h : s.rcbs = []) (a b : Nat) : s.eff a b = Rcb.zero := by
  have hp : s.rcbPath a 16 = [Rcb.zero] := by simp [State.rcbPath, State.rcb, h, tget, Rcb.zero]
  unfold State.eff
  rw [hp, List.find?_cons]
  cases Rcb.zero.ovr.testBit b <;> rfl

/-- Where a translated line stands depends on the residency map alone. -/
theorem lineOf_congr {s t : State} (h : s.resid = t.resid) (e : DWord) (size va : Nat) : s.lineOf e size va = t.lineOf e size va := by
  have hc (pa : Nat) : s.contract pa = t.contract pa := by unfold State.contract; rw [h]
  have hp (pa : Nat) : s.populated pa = t.populated pa := by unfold State.populated; rw [hc]
  have ho : s.codedOk e size = t.codedOk e size := by unfold State.codedOk; simp only [hc]
  simp only [State.lineOf, ho, hp]

/-- The line of each 64 bytes of addresses of that page where it is coded at a rate of 16. -/
def codedRef (n : Nat) : LineRef := ⟨⟨0x400000 + (n - 0x400000) / 2 * 32, n % 2, 16⟩, 0x400000 + (n - 0x400000) / 2 * 32, 0, true, 0, 64 * n, 0x200000⟩

/-- A core translates the addresses of the line at 0x10000040 for an access, and is left as it was. -/
def lineKnown (leaf : DWord) (acc : Access) (ref : Nat → LineRef) : Prop :=
  (leafCore leaf).tlbFill 0 (entryOf leaf) = leafCore leaf ∧ leafAllows leaf acc = true ∧ ∀ k, k < 64 →
    (leafCore leaf).tlbFind 0 0 (0x10000040 + k) = some (entryOf leaf) ∧ (s0.lineOf leaf 0x200000 (0x10000040 + k)).toOption = some (ref 0x400001)

/-- A line of that page is mapped. -/
theorem working_mapped (leaf : DWord) (acc : Access) (ref : Nat → LineRef) (w : Work) (l : List (Nat × Access)) (hk : lineKnown leaf acc ref) (hs : Says.soundLine (workingOn leaf w) true (ref 0x400001))
    (h : ∀ e ∈ l, e.1 / 64 = 0x400001 ∧ e.2 = acc) : Says.mapped (workingOn leaf w) chain0 ref [] l := by
  let vary (x : State) : State := { workingOn leaf w with slices := x.slices, banks := x.banks, clusters := x.clusters, engines := x.engines, waits := x.waits }
  have hr (y : State) : (vary y).rootOf 70 = 0 := congrArg Rcb.ptroot (eff_none (s := vary y) rfl _ _)
  have ht (y : State) : (vary y).tenantOf 70 = 0 := congrArg Rcb.tenant (eff_none (s := vary y) rfl _ _)
  have one (y : State) (k : Nat) (hl : k < 64) : (vary y).translate 1 0 0 0 (0x10000040 + k) acc = (.ok (ref 0x400001), vary y) := by
    have hf : (vary y).lookup 1 0 0 0 (0x10000040 + k) acc = (.leaf leaf 0x200000, vary y) := by
      unfold State.lookup
      rw [show (vary y).core 1 = leafCore leaf from rfl]
      simp only [(hk.2.2 k hl).1, hk.1, show (entryOf leaf).leaf = leaf from rfl, hk.2.1]
      rfl
    have hp := (hk.2.2 k hl).2
    unfold State.translate
    rw [hf]
    dsimp only
    rw [lineOf_congr (s := vary y) (t := s0) rfl]
    revert hp
    cases s0.lineOf leaf 0x200000 (0x10000040 + k) <;> intro hp <;> cases hp; rfl
  refine ⟨fun _ hx => (nomatch hx), fun e he => by rw [(h e he).1]; exact hs, fun st => ∃ x, st = vary x, ⟨workingOn leaf w, rfl⟩, ?_, ?_⟩
  · rintro _ x ⟨y, rfl⟩; exact ⟨x, rfl⟩
  · rintro _ ⟨y, rfl⟩ e he va hva
    rw [(h e he).1] at hva
    have hv : va = 0x10000040 + (va - 0x10000040) ∧ va - 0x10000040 < 64 := by omega
    rw [hva, (h e he).2, show chain0.tid = 70 from rfl, hr, ht, hv.1, one y _ hv.2]
    exact ⟨rfl, y, rfl⟩

theorem known_plain : lineKnown 0x40000000F .atomic pageRef := by unfold lineKnown; decide
theorem known_coded : lineKnown 0x40000010F .engWr codedRef := by unfold lineKnown; decide

theorem working_plain (w : Work) (l : List (Nat × Access)) (h : ∀ e ∈ l, e.1 / 64 = 0x400001 ∧ e.2 = .atomic) : Says.mapped (working w) chain0 pageRef [] l :=
  working_mapped _ _ _ w l known_plain ⟨.inl ⟨0, by decide⟩, by rw [if_neg (by decide)]; exact ⟨by decide, rfl, rfl⟩⟩ h

/-- Bytes 4 to 15 of the first row of a gather, index 3 of the list at 0x500; its second row reads as zeros. -/
theorem witness_PiecesMove_gather :
    let w := workOf 3 3 0x500 4 [(0x100, 8), (0x1000, 8), (16, 4), (2, 4), (64, 4), (64, 4)]
    let sh := Says.rowShape w 0 0 3
    Says.atWork (working w) 9 chain0 w ∧ w.cmd.flags.getLsbD 6 = false ∧ sh.1 = 2 ∧ sh.2.1 = 16 ∧ Says.rowWordIs (working w) chain0 w pageRef 0 3 [] ∧ Says.rowWordIs (working w) chain0 w pageRef 1 0xFFFFFFFF [] ∧
    Says.rangeOk (working w) chain0 (.s 0 0x1C0, 16) ∧ sh.2.2.2 0 = some (.s 0 0x1C0) ∧ sh.2.2.1 0 = [.s 0 0x1000] ∧
    ((List.range 12).flatMap fun j => sh.2.2.1 (4 + j)).all (fun p => match p with | .s .. => true | .g _ => false) = true ∧ Says.mapped (working w) chain0 pageRef [] [] :=
  ⟨working_atWork _ _, by decide, by decide, by decide, ⟨.inr ⟨fun _ h => (nomatch h), by decide⟩, rfl⟩, ⟨.inr ⟨fun _ h => (nomatch h), by decide⟩, rfl⟩,
    by unfold Says.rangeOk; decide, rfl, rfl, by decide, working_plain _ _ fun _ h => (nomatch h)⟩

/-- Two words of a copy with RED from 0x500 to the page. -/
theorem witness_PiecesMove_reduction :
    let w := workOf 1 0x11 0 0 [(0x500, 8), (0x10000040, 8), (8, 4), (0, 4), (0, 8)]
    let sh := Says.rowShape w 0 0 0
    Says.atWork (working w) 9 chain0 w ∧ Says.sizeField w.cmd = 1 ∧ sh.2.1 = 8 ∧ (working w).aftbase % 2 = 0 ∧
    (∀ j, j < 8 → sh.2.2.1 j = [.g (0x10000040 + j)] ∧ sh.2.2.2 j = some (.s 0 (0x500 + j))) ∧
    Says.globals .atomic ((List.range 8).flatMap fun j => sh.2.2.1 j) = (List.range 8).map (fun j => (0x10000040 + j, .atomic)) ∧
    Says.mapped (working w) chain0 pageRef [] ((List.range 8).map fun j => (0x10000040 + j, .atomic)) :=
  ⟨working_atWork _ _, by decide, by decide, by decide, by decide, by decide, working_plain _ _ (by decide)⟩

/-- Eight bytes of a copy from 0x500 into a coded page, with LAND: its one piece goes to the codec's queue, and performs when the codec has done with it. -/
theorem witness_PiecesMove_coded :
    let w := workOf 1 0x41 0 0 [(0x500, 8), (0x10000040, 8), (8, 4), (0, 4), (0, 8)]
    let s := workingOn 0x40000010F w
    let sh := Says.rowShape w 0 0 0
    Says.atWork s 9 chain0 w ∧ w.cmd.flags.getLsbD 6 = true ∧ Says.blockOf codedRef (.g 0x10000040) = some (codedRef 0x400001) ∧ Says.noPiece s 9 ∧ s.crtbase % 2 = 0 ∧
    (∀ j, j < 8 → sh.2.2.1 j = [.g (0x10000040 + j)] ∧ sh.2.2.2 j = some (.s 0 (0x500 + j))) ∧ Says.landings chain0 w codedRef (sh.2.2.1 0) 8 = [(0, 8)] ∧
    8 = min (128 - 0x10000040 % 128) (8 - 0) ∧ Says.mapped s chain0 codedRef [] ((List.range 8).map fun j => (0x10000040 + j, .engWr)) :=
  ⟨working_atWork _ _, by decide, by decide, fun _ h => (nomatch h), by decide, by decide, by decide, by decide,
    working_mapped _ _ _ _ _ known_coded ⟨.inl ⟨0, by decide⟩, by rw [if_pos (by decide)]; exact ⟨rfl, by decide, by decide, by decide, by decide, by decide⟩⟩ (by decide)⟩

/-- A select of two of four FP16 scores at 0x500. -/
theorem witness_PiecesMove_select :
    let w := workOf 7 3 0 0 [(0x500, 8), (0x900, 8), (4, 4), (2, 2), (1, 1), (0, 1), (0, 4), (0xA00, 4)]
    Says.atWork (working w) 9 chain0 w ∧ w.cmd.flags.getLsbD 6 = false ∧ Says.mapped (working w) chain0 pageRef [] [] ∧
    (∀ i, i < 16 → Says.further (Says.placeOf 0x900 true) i = .s 0 (0x900 + i)) ∧ natOfBytes ((w.desc.drop 20).take 2) = 2 ∧ natOfBytes ((w.desc.drop 28).take 4) = 0xA00 :=
  ⟨working_atWork _ _, by decide, working_plain _ _ fun _ h => (nomatch h), by decide, by decide, by decide⟩

/-- waiting0, its launch for cluster 0 alone, which a pre-emptible sheaf of a child region holds. -/
def contest : State :=
  let big (p : Packet) : Packet := { p with cmask := 1, wg := 4, spadg := 100 }
  let l := waiting0.launch 4
  let low : Packet := { big l.pkt with gx := 1, wg := 1, region := 0x2000, nframes := 1, trapv := [1, 1, 0x2000, 1, 1, 1, 1] }
  { waiting0 with
    launches := [(4, { l with pkt := big l.pkt }), (5, { l with pkt := low, next := 1, placed := 1, free := [0] })]
    rcbs := waiting0.rcbs ++ [(0x2000, { waiting0.rcb 0x1000 with parent := 0x1000, id := 10, ovr := 1, prio := 1 })]
    sheaves := [(0, { Sheaf.blank with launch := 5, st := .resident, tids := [(0, 0)] })]
    tillers := [(0, { Tiller.blank with live := true })], wgs := [(0, { Wg.blank with spad := 400000 })] }

theorem witness_Placement_victims :
    ∃ (s1 : State) (c : Cand), contest.candidates (contest.launches.map (·.1)) = ([c], s1) ∧ c.sheaf = none ∧
      let s2 : State := { s1 with served := s1.served.filter fun e => s1.candRegion c == e.1 }
      s2.findFit c = none ∧ s2.victims c = some (0, [0]) ∧ s2.sheaves.map (·.1) = List.range s2.sheaves.length :=
  ⟨_, _, rfl, rfl, by decide, by decide, by decide⟩

/-- A saved sheaf that fits, whose frame can be read. -/
def savedSheaf : State :=
  let s := halted .halted .saved true
  { s.setSheaf 3 { s.sheaf 3 with tids := [], kept := [(0, s.tiller 70)] } with tillers := [], wgs := [] }

theorem witness_Preemption_placed :
    let q := savedSheaf.candidates (savedSheaf.launches.map (·.1))
    let s : State := { q.2 with served := q.2.served.filter fun e => q.2.candRegion ⟨2, 0, some 3⟩ == e.1 }
    q.1 = [⟨2, 0, some 3⟩] ∧ s.findFit ⟨2, 0, some 3⟩ = some (0, [(0, 0)]) ∧ (s.sheaf 3).st = .saved ∧ (s.sheaf 3).tids = [] ∧ (s.sheaf 3).launch = 2 ∧ (s.launch 2).pkt.tillers = 1 ∧
    (tget Tiller.blank (s.sheaf 3).kept 0).exited = false ∧ (s.frameHead (s.launch 2).pkt 0 0 0).isSome = true := by decide

/-- CTXDONE in a sheaf that is being saved: with the others done, and with one that is not. -/
theorem witness_Preemption_last :
    let s := halted .saving .saving true
    let t := (s.setTiller 71 { tiller0 with halt := .saving }).setSheaf 3 { s.sheaf 3 with tids := [(0, 70), (1, 71)] }
    (s.sheaf 3).st = .saving ∧ Says.live s 3 = [70] ∧ (∀ e ∈ s.tl.a, e.1 < 16 → e.2 = 0) ∧ s.tl.pend = [] ∧ (s.array (70 / 64)).queue = [] ∧ Says.live t 3 = [70, 71] ∧ (t.tiller 71).halt ≠ .ctxdone := by decide

/-- The frame and the image of a workgroup of 64 bytes can be read. -/
theorem witness_Preemption_workgroup :
    let s := halted .waiting .resuming true
    let p := (s.launch (s.sheaf 3).launch).pkt
    p.wg = 1 ∧ (s.vread (s.effRoot p.region) (p.wgFrame 0 0) (0x800 + 64 / 4) (64 / 256 + 34)).isSome = true ∧ (s.vread (s.effRoot p.region) (p.wgFrame 0 0 + 0x30800) 64 (64 / 64 + 2)).isSome = true := by decide

/-- A firmware image accepted, and one for each code that is not. -/
theorem witness_HostRegisters_boot :
    Says.accepted ⟨true, true, true, 5⟩ 5 ∧ Says.bootCode ⟨true, false, true, 9⟩ 5 1 ∧ Says.bootCode ⟨true, true, false, 9⟩ 5 2 ∧ Says.bootCode ⟨true, false, false, 0⟩ 5 3 ∧ Says.bootCode ⟨false, true, true, 4⟩ 5 4 ∧
    Says.bootCode ⟨false, true, true, 5⟩ 5 5 := by
  simp [Says.accepted, Says.bootCode]

/-- A read answered by a peer, a call-back of a write answered by the host, and lines of the package and of a hole read from outside. -/
theorem witness_HostTraffic_answers :
    let r : Req := { req (.read true false false) with pa := 0x880000000000, key := ⟨0x880000000000, 0, 0⟩ }
    let w : Req := req (.write [(3, 7)] false)
    let x : Req := { req (.read false false false) with src := 256, tid := 0 }
    physKind r.pa = .peer 2 ∧ w.op = .write [(3, 7)] false ∧ s0.populated x.pa = true ∧ (∀ e ∈ s0.cores, (s0.core e.1).l1find ⟨0x400000, 0, 0⟩ = none) ∧ (s0.pkg.snoops.filter fun e => decide (e.part = s0.partOf x.pa)).length < 16384 ∧
    s0.populated 0x30000000000 = false ∧ s0.homeContract 0x30000000000 = none ∧ linked.links.length = 1 := by decide

/-- A line of HOST attribute with a dirty byte. -/
theorem witness_HostTraffic_snoop :
    let l : L1Line := ⟨⟨0x1000000000040, 0, 0⟩, 0, .dirty 7 :: List.replicate 63 .invalid, 3, 0, 70, 0, 0⟩
    let s := s0.setCore 1 { s0.core 1 with l1 := [l] }
    (s.core 1).l1find ⟨0x1000000000040, 0, 0⟩ = some l ∧ l.attr = 3 ∧ l.dirtyBytes ≠ [] := by decide

/-- A step that has to wait, and words that an engine keeps from a command's first reading. -/
theorem witness_StepRunsDecoded_waits :
    let g : Engine := { Engine.reset with chain := some chain0, read := some (chain0.cidx, [0xFFFF4301, 0, 0, 0]) }
    ({ s0 with waits := true } : State).waits = true ∧ ({ s0 with waits := true } : State).calls = [] ∧ ((arr.setEngine 9 g).engine 9).read = some (chain0.cidx, [0xFFFF4301, 0, 0, 0]) ∧
    (decodeCmd 9 ⟨0xFFFF4301, 0, 0, 0⟩).isSome = true := by decide

/-- A clause whose words stand in a line of code that is in the TLBs. -/
theorem witness_StepRunsDecoded_code :
    let s : State := { s0 with cores := [(1, core0)], mem := writeNat [] 0x400000 4 3 }
    (s.fetchClause 70 0x10000000).1.toOption = some [3, 0, 0, 0] ∧ ∀ k, k ≤ 16 → (s.codeLine 70 (0x10000000 + BitVec.ofNat 32 (4 * k))).2 = s :=
  by decide

/-- An operation of a chain that waits with its checks made, behind a full queue and with room. -/
theorem witness_ArrayCommands_ready :
    let g : Engine := { Engine.reset with chain := some chain0, ready := some (.mlds 0x1000 0) }
    let s := (chained 8 chain0).setEngine 8 g
    (s.engine 8).ready = some (.mlds 0x1000 0) ∧ (s.array (8 / 8)).queue.length < 16 ∧ Says.commandDue (s.setEngine 8 { g with ready := none }) 8 chain0 True :=
  ⟨by decide, by decide, rfl, rfl, rfl, rfl, rfl, rfl, fun _ _ h => (nomatch h)⟩

/-- A core's line at 0x400000 with a dirty byte, within the range of a flush. -/
theorem witness_WalkerCommands_flush :
    let l : L1Line := ⟨⟨0x400000, 0, 0⟩, 0, .dirty 7 :: List.replicate 63 .invalid, 0, 0, 70, 0, 0⟩
    let s := s0.setCore 1 { s0.core 1 with l1 := [l] }
    s.cores.Pairwise (fun a b => a.1 < b.1) ∧ Memory.wf s.mem = true ∧
    (∀ e ∈ s.cores, ∀ x ∈ e.2.l1, LKey.within x.key [(0x400000, 128)] = true ∧ x.key.rate = 0 ∧ x.key.h = 0 ∧ x.key.base % 64 = 0 ∧ x.cells.length = 64 ∧ ∀ y ∈ e.2.l1, y.key = x.key → y = x) ∧
    (∃ e ∈ s.cores, ∃ x ∈ e.2.l1, (0x400000 - x.key.base, 7) ∈ x.dirtyBytes) ∧ s.writesPending (fun k => k.within [(0x400000, 128)]) = false := by decide

/-- A load of a page whose attribute is to change is out. -/
theorem witness_WalkerCommands_waits : ({ flying (loadFlight false) with flights := [(0, { loadFlight false with parts := [{ part [] false with st := .sent }] })] } : State).accessPending
    (fun k => k.within [(0x400000, 0x10000)]) = true := by decide

/-- A core with two tillers that have clauses to issue, the first oldest, the second late; none is to be pre-empted. -/
theorem witness_Cycles_picks :
    let s := (s0.setTiller 65 { tiller0 with wait := 2 }).setTiller 66 { tiller0 with wait := 7, late := true }
    let o (tid : Nat) : Offer := ⟨tid, false, 0x100, 2, false⟩
    [o 65, o 66] ≠ [] ∧ ((s.core 1).rrOf 0) < 16 ∧ (s.tiller 66).late = true ∧ (∀ e ∈ s.tillers, (s.sheaf e.2.sheaf).st ≠ .pending) ∧ s.deferralDue 1 = false ∧ (s.core 1).openCls = none ∧
    (s.cluster (1 / 4)).ret = false := by decide

/-- A request that the host is called back for waits in its slice's queue, behind it one that may be served; another of the same line is stopped on its way. -/
theorem witness_HomesAndCodec_detained :
    let r := req (.read true false false)
    let s : State := { s0.setSlice 7 { s0.slice 7 with queue := [r, { r with id := 10, pa := 0x400080 }] } with links := [⟨r, true⟩] }
    let free (r : Req) : Prop := ∀ l ∈ s.links, l.snoop = true → l.req.key.base / 64 ≠ r.pa / 64 ∧ l.req.pa / 64 ≠ r.pa / 64
    (∃ q ∈ (s.slice 7).queue, free q) ∧ ¬free r ∧ (({ s with transit := [r] } : State).transit.find? fun q => decide (q.src = 1 ∧ s.home q.pa = s.home r.pa)) = some r := by decide

/-- Two lanes of an atomic of an ATOM that waits for it. -/
theorem witness_HomesAndCodec_atomic :
    let e := Says.applied .add .w false s0.mem [⟨0, 0x400000, 5, 0⟩, ⟨3, 0x400000, 2, 0⟩]
    (e.2.map (·.1)).Nodup ∧ e.2 = [(0, 0), (3, 5)] ∧ (∃ d wide, ({ Flight.blank with kind := .atomic 8 false } : Flight).kind = .atomic d wide) ∧ s0.aftbase % 2 = 0 ∧ s0.bad 0x400000 = false :=
  ⟨by decide, by decide, ⟨8, false, rfl⟩, by decide, by decide⟩

/-- A decoded line and the other of its block, both dirty. -/
theorem witness_HomesAndCodec_block :
    let l (h : Nat) : L1Line := ⟨⟨0x400000, h, 32⟩, 0, .dirty 7 :: List.replicate 63 (.clean 0), 0, 0, 70, 0, 0⟩
    let s : State := { s0.setCore 1 { s0.core 1 with l1 := [l 0, l 1] } with now := 10000 * ticksPerNs }
    (s.core 1).l1find (l 0).key = some (l 0) ∧ (l 0).since + 10000 * ticksPerNs ≤ s.now ∧ (l 0).dirtyBytes ≠ [] ∧ (l 0).key.rate ≠ 0 ∧ (s.core 1).l1find { (l 0).key with h := 1 - (l 0).key.h } = some (l 1) := by decide

/-- A write-back of a store, its block neither held nor under an error. -/
theorem witness_HomesAndCodec_writeBack :
    let j : CodecJob := ⟨.write 8 (some 0) [(3, 1)] 70, 0x400000, 32, 0, 0, 0, 0, true, none, 0xFF, 0⟩
    let s := (flying { Flight.blank with kind := .store, parts := [{ part [] false with key := ⟨0x400000, 0, 32⟩, st := .codec }] }).setCore 1 { s0.core 1 with jobs := [j] }
    Says.jobDone s 1 j [] ∧ s.blockHeld j.base = false ∧ s.blockBad j.base j.rate = false ∧ s.crtbase % 2 = 0 ∧ (∃ g q, tfind s.flights 0 = some g ∧ g.kind = .store ∧ q ∈ g.parts ∧ q.key.base = j.base ∧ q.key.rate = j.rate) :=
  ⟨⟨rfl, rfl, rfl⟩, by decide, by decide, by decide, _, _, rfl, rfl, List.mem_cons_self, rfl, rfl⟩

/-- A read that an HBM bank holds, and a row whose count reaches the threshold. -/
theorem witness_BanksAndScrubs_service :
    let s := (flying { Flight.blank with kind := .load 8 .w [], parts := [{ part [] false with st := .bank }] }).setBank 2053 { bank0 with queue := [⟨0x400040, true, 1, none⟩], ctrs := [⟨33, 1023, 3⟩] }
    (s.bank (2048 * 1 + 5)).queue = [⟨0x400040, true, 1, none⟩] ∧ (∃ q, Says.waitsFor s 0 q.key .bank q ∧ q.pa / 64 * 64 = 0x400040) ∧ (s.die 1).thresh ≤ 1023 + 1 ∧ (s.die 1).swapn = (3 + 1) % 8 ∧
    (s.bank 2053).errs.length < 7 :=
  ⟨by decide, ⟨_, ⟨⟨8, .w, [], rfl⟩, rfl, List.mem_cons_self, rfl, rfl⟩, by decide⟩, by decide, by decide, by decide⟩

/-- The root region, whose fault domain has a queue. -/
theorem witness_BanksAndScrubs_record : (region s0).rootRegion = some 0 ∧ (region s0).malformed 0 = false ∧ (region s0).effFdq 0 ≠ 0 := by decide

/-- An access outstanding through a page of 2 MiB, of which an invalidation covers one page of 64 KiB. -/
theorem witness_Translation_waits :
    let q : Part := { part [] false with st := .sent }
    let f : Flight := { loadFlight false with parts := [q] }
    let s := { flying f with pkg := { s0.pkg with tlbVpn := 0x101F, tlbCount := 1, tlbRoot := 0 } }
    (0, f) ∈ s.flights ∧ q ∈ f.parts ∧ q.st ≠ .done ∧ Says.covered s.pkg (s.rootOf f.tid) 0x101F ∧ q.va / Nat.max 65536 q.page * Nat.max 65536 q.page / 65536 ≤ 0x101F ∧
    0x101F < (q.va / Nat.max 65536 q.page * Nat.max 65536 q.page + Nat.max 65536 q.page + 65535) / 65536 ∧ (∃ m ∈ [((0 : Nat), (0x10000000 : Nat), (0x10000 : Nat))], m.1 = 0 ∧ m.2.1 ≤ q.va ∧ q.va < m.2.1 + m.2.2) :=
  ⟨List.mem_cons_self, List.mem_cons_self, by decide, by unfold Says.covered; decide, by decide, by decide, by decide⟩

set_option maxRecDepth 16000 in
/-- Entries that each check of a commit rejects, a change that waits for an access at the old home, a quota that does not fit and one that does. -/
theorem witness_ResidencyMap_rejects :
    let s := { mapped { entry0 with change := 1 } with slices := [(5, { Slice.reset with queue := [req (.read true false false)] })] }
    Says.rejects s 3 { entry0 with kind := 3 } 1 ∧ Says.rejects s 3 { entry0 with base := 0x400040 } 2 ∧ Says.rejects s 3 { entry0 with kind := 1 } 3 ∧ Says.rejects s 3 { entry0 with kind := 2, metabase := 8 } 6 ∧
    (∃ x ∈ s.slices, ∃ r ∈ x.2.queue, entry0.base ≤ r.pa ∧ r.pa < entry0.base + entry0.size) := by
  refine ⟨.inl ⟨rfl, by decide⟩, .inr (.inl ⟨rfl, by decide⟩), .inr (.inr (.inl ⟨rfl, by rw [if_pos rfl]; decide⟩)), .inr (.inr (.inr (.inr (.inr ⟨rfl, rfl, .inl (by decide)⟩)))), by decide⟩

set_option maxRecDepth 16000 in
/-- An entry that no check rejects. -/
theorem witness_ResidencyMap_commits : ∀ code, ¬Says.rejects (mapped entry0) 3 (Says.fieldsOf entry0 1) code := by
  have hf : Says.fit (Says.fieldsOf entry0 1 :: Says.others (mapped entry0) 3) := by
    intro die vault _ _
    rw [show Says.fieldsOf entry0 1 :: Says.others (mapped entry0) 3 = [Says.fieldsOf entry0 1] by decide, List.filter_cons, List.filter_nil]
    split <;> decide
  rintro code (⟨_, h⟩ | ⟨_, h⟩ | ⟨_, h⟩ | ⟨_, o, h, _⟩ | ⟨_, h⟩ | ⟨_, h, _⟩)
  · revert h; decide
  · revert h; decide
  · rw [if_neg (by decide)] at h; exact h ⟨0, by decide, by decide⟩
  · rw [show Says.others (mapped entry0) 3 = [] by decide] at h; cases h
  · exact h hf
  · revert h; decide

theorem witness_ResidencyMap_claims :
    let e (q : Nat) : ResEntry := { entry0 with valid := true, quota := q, place := 2 }
    Says.claimOf (e 0x100000) = 0x10000000 / 4 * 4 ∧ ¬(Says.claimOf (e 0x100000) ≤ 4194304) ∧ Says.claimOf (e 64) ≤ 4194304 := by decide

/-! ### Forms at the edges of the same statements -/

/-- The last word of a clause, a result that overflows the general slots, and one whose register is general already. -/
theorem witness_RegistersKeep_ends :
    let last := on fun t => { t with run := some { run0 with idx := 3 } }
    last.tl.run = some { run0 with idx := 3 } ∧ ¬(({ run0 with idx := 3 } : Run).idx + 2 ≤ run0.n) ∧ last.tl.count = 0 ∧ (Says.dests (.vadd false 3 1 2) last).isSome = true ∧
    full.tl.ng < full.tl.gCount + 1 ∧ full.tl.count = 0 ∧ (full.tl.rv 9).tag = 2 ∧ (Says.dests (.vadd false 9 1 2) full).isSome = true := by decide

/-- An RTE with two paths, neither at its join point; with an entry in the list; and after a resume, with the frame's registers read. -/
theorem witness_ExitsAndReturns_paths :
    let s := on fun t => { handler (paths .ready 0x180 0x190) with ng := t.ng, tpc := 0x180, widx := 0, tcause := 0x01, lanes := 0xFFFFFFFF }
    let l := on fun t => { handler t with tpc := 0x180, widx := 0, tcause := 0x01, depth := 8, count := 1, area := 0x10000000 }
    let g := Says.goesOnAt (Says.outOfHandler (Says.clauseEnd s s.tl { run0 with handler := true } s.tl.parkP false))
    s.tl.run = some { run0 with handler := true } ∧ s.tl.hnd = true ∧ s.tl.tcause.toNat % 256 ≠ 0x12 ∧ s.tl.count = 0 ∧ s.tl.exited = false ∧ g.1.slotA.st = .ready ∧ g.1.slotB.st = .ready ∧
    g.1.slotA.pc ≠ g.1.slotA.join ∧ g.1.slotB.pc ≠ g.1.slotB.join ∧ l.tl.count = 1 := by decide

set_option maxRecDepth 16000 in
theorem witness_ExitsAndReturns_resume :
    let s := on fun t => { handler t with frame := 0x10000000, tpc := 0x104, widx := 1, cln := 3, tcause := 0x12 }
    s.tl.tcause.toNat % 256 = 0x12 ∧ ∃ bs s1, s.devRead s.cur .load (s.tl.frame + 0x40) 18 = (.ok bs, s1) ∧ s1.tl = s.tl ∧ s1.cur = s.cur :=
  ⟨by decide, _, _, rfl, by decide, rfl⟩

/-- A register that is general already, in a tiller whose general slots are all taken. -/
theorem witness_VectorResults_fits : Says.fits full.tl [(9, .g (List.replicate 32 2))] ∧ ¬(full.tl.gCount < full.tl.ng) ∧ (full.tl.rv 9).tag = 2 :=
  ⟨.inr (by decide), by decide, by decide⟩

/-- s0, its region's pages under tables, the page at 0x10000000 at an address with its bits 8 and up. -/
def sysAt (pa bits : Nat) : State :=
  let s := withTables s0
  { s with mem := writeNat s.mem (0x13000 + 8 * 128) 8 (pa / 4096 * 2 ^ 24 + 0x100 * bits + 0xF), rcbs := [(0, { Rcb.zero with ptroot := 0x10000, ovr := 127, zeroOk := true })] }

set_option maxRecDepth 16000 in
/-- A structure behind a link that is down, one in a held block, one under an error, and one that can be read. -/
theorem witness_SystemInstructions_errors :
    let plain := sysAt 0x400000 0
    let coded := sysAt 0x400000 1
    let held := coded.setSlice (coded.home 0x400000) { coded.slice (coded.home 0x400000) with held := [0x400000] }
    let bad : State := { plain with badLines := [0x400000 / 64] }
    (∀ s ∈ [plain, sysAt 0x1000000000000 0, held, bad], s.sysWaits (s.rootOf 70) 0x10000000 2 = none) ∧ (sysAt 0x1000000000000 0).sysBad 0x10000 0x10000000 2 = some (.data 0x10000000 false) ∧
    held.sysBad 0x10000 0x10000000 2 = some (.data 0x10000000 true) ∧ (∃ r, bad.sysBad 0x10000 0x10000000 2 = some (.bad r)) ∧ plain.sysBad 0x10000 0x10000000 2 = none ∧
    (plain.vread 0x10000 0x10000000 128 2).isSome = true ∧ plain.sysBad 0x10000 0x10000000 1 = none :=
  ⟨by decide, rfl, rfl, ⟨_, rfl⟩, by decide, by decide, by decide⟩

set_option maxRecDepth 16000 in
/-- A store that its hint sends past the cache, one that streams past it, and one that the cache keeps. -/
theorem witness_GlobalStores_hints :
    let s := ldgAt 0x10000040 0
    ∃ r s1, Says.reached s (Says.same 4) 4 .store true (Says.storeBeyond .byp) [(0, 0x10000040)] [(0, 0x10000040, r)] s1 ∧ physKind r.pa ≠ .control ∧ (s1.core (s.cur / 64)).l1find r.key = none ∧
      Says.storeBeyond .byp s1 [(0, 0x10000040, r)] r = true ∧ Says.storeBeyond .strm s1 [(0, 0x10000040, r)] r = true ∧ Says.storeBeyond .normal s1 [(0, 0x10000040, r)] r = false :=
  ⟨_, _, ⟨rfl, by decide⟩, by decide, by decide, by decide, by decide, by decide⟩

set_option maxRecDepth 16000 in
/-- A watch of a line of the control space, by the steward and by another. -/
theorem witness_ParametersAndHints_control :
    let t := under 0x40000000000 0 (on fun t => { t.ws 4 0x10001000 with steward := true })
    let s := under 0x40000000000 0 (on fun t => t.ws 4 0x10001000)
    (∃ r s1, t.translate 1 0 (t.tenantOf 70) (t.rootOf 70) 0x10001000 .load = (.ok r, s1) ∧ r.coded = false ∧ physKind r.pa = .control ∧ s1.tl.steward = true) ∧
    ∃ r s1, s.translate 1 0 (s.tenantOf 70) (s.rootOf 70) 0x10001000 .load = (.ok r, s1) ∧ physKind r.pa = .control ∧ s1.tl.steward = false :=
  ⟨⟨_, _, rfl, by decide, by decide, by decide⟩, _, _, rfl, by decide, by decide⟩

set_option maxRecDepth 200000 in
/-- Both sides of the copy engine's trackers. -/
theorem witness_DataCommandsStart_trackers :
    let j : CodecJob := CodecJob.of (.engine 9 ((List.range 16).map fun k => (0x400000 + 0x4000 * k, 8192)) [] []) 0 0 0 0 0
    let s (n : Nat) : State := (chained 9 chain0).setCore 1 { (chained 9 chain0).core 1 with jobs := List.replicate n j }
    (s 0).copyTrackers (9 / 8) ≤ 3840 ∧ 3840 < (s 1).copyTrackers (9 / 8) := by decide

/-! ### The device at the edges -/

/-- A core whose cache holds a dirty line, as a chain of another scope finds it. -/
def dirtyLine : L1Line := ⟨⟨0x400000, 0, 0⟩, 0, .dirty 7 :: List.replicate 63 .invalid, 0, 0, 70, 0, 0⟩

def dirty (u : Nat) (c : Chain) : State := (chained u c).setCore 1 { (chained u c).core 1 with l1 := [dirtyLine] }

/-- An arrival within its workgroup, one that has nothing to send, one that must send a line first, one that waits for it, and one whose line has performed. -/
theorem witness_ControlCommands_release :
    let c : Chain := { chain0 with scope := 2 }
    let g : Engine := { Engine.reset with chain := some c, read := some (c.cidx, [0, 0, 0, 0]) }
    (∀ e, ((chained 9 chain0).engine 9).read = some e → e.1 ≠ chain0.cidx) ∧
    ((chained 9 c).writeBackAll (c.tid / 64) (some c.tid) (fun _ => true)).pendingWrites (c.tid / 64) 2 = [] ∧
    ((dirty 9 c).writeBackAll (c.tid / 64) (some c.tid) (fun _ => true)).pendingWrites (c.tid / 64) 2 ≠ [] ∧
    tfind ({ chained 9 c with flights := [(9, Flight.blank)] } : State).flights c.rel ≠ none ∧ tfind (chained 9 c).flights c.rel = none ∧ g.read = some (c.cidx, [0, 0, 0, 0]) := by
  refine ⟨?_, by decide, by decide, by decide, by decide, by decide⟩
  intro e h; cases h

/-- A dirty line in the range of a flush, in the one core; nothing of it is on its way. A flush that waits for that line's write-back. -/
theorem witness_WalkerCommands_steps :
    let s := dirty 4 chain0
    let p (k : LKey) : Bool := k.within [(0x400000, 128)]
    let b : Req := ⟨5, 1, 70, none, ⟨0x400000, 0, 0⟩, 0x400000, .write [(0, 7)] false, 0, 0⟩
    s.flushWaits p (Says.walked s 4) = false ∧ s.coresFrom (Says.walked s 4).core = [] ++ 1 :: [] ∧ (s.core 1).dirtyLines p ≠ [] ∧ (∀ l ∈ (s.core 1).l1, ∀ l' ∈ (s.core 1).l1, l.key = l'.key → l = l') ∧
    Says.cleanIn (chained 4 chain0) p 1 ∧ ({ s with transit := [b] } : State).flushWaits p ⟨2, 1, [], [], [5]⟩ = true := by
  unfold Says.cleanIn; decide

/-- What comes before a cycle: nothing at reset; two refills and the end of a step after two nanoseconds. -/
theorem witness_Cycles_due :
    let late := (s0.setCore 1 { s0.core 1 with clock := 2 * ticksPerNs }).setCluster 0 { s0.cluster 0 with step := true, stepEnd := 2 }
    (s0.atCycle 1).clusterDue (1 / 4) = [] ∧ (late.core 1).openCls = none ∧ (late.atCycle 1).clusterDue (1 / 4) ≠ [] := by decide

theorem witness_TimersAndAllowance_limits :
    let s := (region s0).setSheaf 3 { s0.sheaf 3 with run := 100000, stall := 49999 }
    1000 * s.effRunlim 0 ≤ (s.sheaf 3).run ∧ (s.sheaf 3).stall < 1000 * s.effStalllim 0 ∧ s.effStalllim 0 ≠ 0 := by decide

/-- A table comes at boot, and again a day later. -/
theorem witness_FrequencyAndRetention_plans :
    (State.reset.cluster 5).plans ≤ State.reset.time / 86400000000000 ∧ State.reset.time / 86400000000000 < ({ State.reset.cluster 5 with plans := 1 } : Cluster).plans ∧
    1 ≤ ({ State.reset with now := 86400000000000 * ticksPerNs } : State).time / 86400000000000 := by decide

/-- A write-back behind an earlier one of its core that waits for the host; a load that no other request of its core meets. -/
theorem witness_HomesAndCodec_order :
    let w (id pa : Nat) : Req := ⟨id, 1, 70, none, ⟨pa, 0, 0⟩, pa, .write [(0, 7)] false, 0, 0⟩
    let s : State := { s0 with links := [⟨w 3 0x400000, true⟩] }
    Says.waitsItsTurn s (s.home 0x400000) (w 4 0x480000) ∧ ¬Says.waitsItsTurn s0 7 (w 4 0x480000) := by
  refine ⟨⟨⟨by decide, rfl, rfl⟩, ⟨3, 1, 70, none, ⟨0x400000, 0, 0⟩, 0x400000, .write [(0, 7)] false, 0, 0⟩, ⟨by decide, rfl, rfl⟩, rfl, by decide, .inr ⟨_, List.mem_singleton_self _, rfl, rfl, rfl⟩⟩, ?_⟩
  rintro ⟨_, q, _, _, _, h | ⟨l, h, _⟩⟩ <;> cases h

/-- A read of a line for one operation alone; a line that stands under an error. -/
theorem witness_BanksAndScrubs_alone :
    let q : Part := { part [] false with st := .bank }
    let s := (flying { Flight.blank with kind := .load 8 .w [], parts := [q] }).setBank 2053 { bank0 with queue := [⟨0x400040, true, 1, some 0⟩] }
    (s.bank 2053).queue = [⟨0x400040, true, 1, some 0⟩] ∧ s.ownBusy 0x400080 0 = false ∧ (∀ q' ∈ (s.flight 0).parts, q'.key = q.key → q' = q) ∧ ({ s0 with badLines := [5] } : State).bad (64 * 5) = true ∧ s0.bad (64 * 5) = false := by decide

/-- A tiller that waits for a page as its word stands to issue again, one that has halted there, and a change that waits for a codec. -/
theorem witness_Translation_halts :
    let f (h : HaltSt) := (on fun t => { t with block := .fault 0x1000 .load false true, halt := h })
    ((f .running).tiller 70).halt = .running ∧ ((f .running).tiller 70).step = none ∧ ((f .halted).tiller 70).halt ≠ .running ∧ Says.ctlServes s0 :=
  ⟨by decide, by decide, by decide, rfl⟩

theorem witness_ResidencyMap_codec :
    let j : CodecJob := { CodecJob.of (.decode [0] true) 0x400000 32 0 0 0 with touched := some 0 }
    let s : State := (mapped { entry0 with change := 1 }).setCore 1 { s0.core 1 with jobs := [j] }
    (∃ x ∈ s.cores, ∃ j ∈ x.2.jobs, j.arrivedIn (s.res 3) = true) := by decide

/-- A line that the host reads, with nothing of it on its way, at its home or over a link. -/
theorem witness_HostTraffic_quiet : ∀ q, q ∈ s0.transit ∨ q ∈ (s0.slice (s0.home 0x400000)).queue ∨ (∃ l ∈ s0.links, l.req = q) → q.pa / 64 ≠ 0x400000 / 64 := by
  rintro q (h | h | ⟨l, h, _⟩) <;> cases h

/-- A tiller whose word may issue, and one that has exited; no codec has come to a step. -/
theorem witness_StepRunsDecoded_free :
    let s : State := { s0 with turns := [.tiller 70] }
    s.grant = none ∧ s.blocked 70 = false ∧ s.turnHeld (.tiller 70) = false ∧ (ended true none).blocked 70 = true ∧ ¬(s.waits = true ∨ s.calls ≠ []) := by decide

/-- A piece whose coded block the codec has come to, and one that writes no coded block. -/
theorem witness_PiecesMove_turn :
    let j : CodecJob := { CodecJob.of (.engine 9 [] [(0x400000, 32)] []) 0 0 0 0 0 with started := true }
    let s : State := (chained 9 chain0).setCore 1 { (chained 9 chain0).core 1 with jobs := [j] }
    Says.turnOf s 9 True (.codecWriteBack 1 false) ∧ Says.noPiece (chained 9 chain0) 9 ∧ Says.turnOf (chained 9 chain0) 9 False (.pieceWrite 9) :=
  ⟨.inr ⟨_, [], _, _, _, rfl, rfl, rfl, rfl, .inr ⟨by decide, rfl⟩⟩, fun _ h => (nomatch h), .inl ⟨id, fun _ h => (nomatch h), rfl⟩⟩

set_option maxRecDepth 16000 in
/-- A LAUNCH whose packet stands in a coded block: its status needs the codec. -/
theorem witness_StepRunsDecoded_codec :
    let s : State := { flying { Flight.blank with tid := 70, core := 1, kind := .sys 0 6 0x10000000 true, regs := [.s 6] } with mem := (sysAt 0x400000 1).mem, rcbs := (sysAt 0x400000 1).rcbs, turns := [.ev (.sysStatusLand 0)] }
    s.grant = none ∧ ∃ t, exec (.sysStatusLand 0) { s with turns := [] } = .next t ∧ t.waits = true ∧ t.calls = [] ∧ t.needs = [⟨1, 0x400000, 16, false, 2, 0⟩] :=
  ⟨by decide, _, rfl, by decide, by decide, by decide⟩

/-! ## Results that the spec writes out (the examples of its chapters) -/

/-- The state an instruction leads to. -/
def aft (i : Instr) (s : State) : Tiller := match exec i s with
  | .next t => t.tl
  | _ => Tiller.blank

/-- s0 with vector registers written. -/
def withV (l : List (VNum × VReg)) : State := on fun t => l.foldl (fun x e => x.wv e.1 e.2) t

/-- R61: E4M3 bytes as FP32. -/
theorem test_e4m3_values : (e4m3.num 0x5A).cmp (.fin false 20 0) = some .eq ∧ (e4m3.num 0x03).cmp (.fin false 3 (-9)) = some .eq := by decide

/-- R72: conversions of 17.0, 500.0 (saturating and not) and −0.0 to E4M3, with their flags; of 5.0 to E2M1; of −128.5 and 200.0 to INT8. -/
theorem test_cvtn_results :
    cvtnOne .e4m3 0x41880000 0x7F = (0x58, flagNX) ∧ cvtnOne .e4m3 0x43FA0000 0x7F = (0x7E, flagOF ||| flagNX) ∧ cvtnOne .e4m3n 0x43FA0000 0x7F = (0x7F, flagOF ||| flagNX) ∧
    cvtnOne .e4m3 0x80000000 0x7F = (0x80, 0) ∧ cvtnOne .e2m1 0x40A00000 0x7F = (6, flagNX) ∧ cvtnOne .i8 0xC3008000 0x7F = (0x80, flagNX) ∧ cvtnOne .i8 0x43480000 0x7F = (0x7F, flagNV) := by decide

/-- R82: the tree of a VRED fadd over 2²⁴ and thirty-one times 1.0. -/
theorem test_vred_tree : vreduce .fadd 0xFFFFFFFF (.g (0x4B800000 :: List.replicate 31 0x3F800000)) = (0x4B80000F, flagNX) := by decide

/-- R88: the table of two segments at 2.0, −0.5 and −3.0. -/
theorem test_pwpe_table :
    let tab : List Segment := [⟨0xBF800000, 0, 0, 0, 0⟩, ⟨0, 0x3F000000, 0x3E800000, 0, 0xBC800000⟩]
    pwpEval tab 0x40000000 = (0x3F600000, 0) ∧ pwpEval tab 0xBF000000 = (0, 0) ∧ pwpEval tab 0xC0400000 = (0, 0) := by decide

/-- R91 to R96: the block of 6.0 and 2.0 at rate 16, as it is stored. -/
theorem test_codec_encode :
    encodeBlock 16 ((List.range 16).map fun i => if i % 2 = 0 then 0x4018000000000000 else 0x4000000000000000) = ([0x02, 0xF8, 0x02, 0x00, 0x04, 0xFC, 0x03] ++ List.replicate 25 0 : List Byte) := by decide

/-- R97: what it reads as: 6 + 3·2⁻¹³ and 2 + 2⁻¹³ at positions 0 to 11, then 6 + 2⁻¹¹ and 2. -/
theorem test_codec_decode :
    decodeBlock 16 ([0x02, 0xF8, 0x02, 0x00, 0x04, 0xFC, 0x03] ++ List.replicate 25 0) =
      (List.range 16).map fun i => if i % 2 = 0 then (if i < 12 then 0x4018006000000000 else 0x4018008000000000) else if i < 12 then 0x4000004000000000 else 0x4000000000000000 := by decide

/-- R148: FADD.h2 of 65,504 + 16 and 1.0 + 2⁻¹⁰. -/
theorem test_fadd_h2 :
    let t := aft (.fadd false .h2 6 4 5) (withV [(4, .u 0x3C007BFF), (5, .u 0x14004C00)])
    (t.rv 6).lane 0 = 0x3C017C00 ∧ t.flags = flagOF ||| flagNX := by decide

/-- R167: both forms of VDOT4. -/
theorem test_vdot4 :
    let s := withV [(8, .u 0x010203FF), (9, .u 0x01010101), (7, .u 10)]
    ((aft (.vdot4 false true 7 8 9) s).rv 7).lane 0 = 15 ∧ ((aft (.vdot4 false false 7 8 9) s).rv 7).lane 0 = 271 := by decide

/-- R120: the lane numbers shifted left by 3, and 0x1000 added: A(0x1000, 8), with no register G; VTAG reads 0x0004_0001. -/
theorem test_affine :
    let s := withV [(1, .a 0 1), (2, .u 0x1000), (4, .u 3)]
    let t := aft (.vshl false 3 1 4) s
    let u := aft (.vadd false 5 3 2) (s.setTl t)
    t.rv 3 = .a 0 8 ∧ u.rv 5 = .a 0x1000 8 ∧ (u.rv 5).lane 31 = 0x10F8 ∧ u.gCount = 0 := by decide

theorem test_vtag : ((aft (.vtag false 7 5) ((withV [(5, .a 0x1000 8)]).setTl { (withV [(5, .a 0x1000 8)]).tl with ng := 4 })).rs 7) = 0x00040001 := by decide

/-- R123: with half the mask, the fifth register to become G faults, and v5 stays. -/
theorem test_gslot :
    let s := withV [(1, .g (List.replicate 32 0)), (2, .g (List.replicate 32 0)), (3, .g (List.replicate 32 0)), (4, .g (List.replicate 32 0)), (5, .u 7)]
    let t := aft (.vadd false 5 3 2) (s.setTl { s.tl with ng := 4, slotA := { s.tl.slotA with mask := 0xFFFF } })
    t.hnd = true ∧ t.tinfo0 = 0x00040405 ∧ t.rv 5 = .u 7 := by decide

/-- R192: FREQ at nominal. -/
theorem test_freq : (aft (.srd false 6 .freq) s0).rs 6 = 0x006A46A4 := by decide

/-- R132: a pair's sign shifted right arithmetically by 63. -/
theorem test_sar64 : let t := aft (.sh64 true .sar 6 4 2) (withS [(5, 0x80000000), (2, 63)]); t.rs 6 = 0xFFFFFFFF ∧ t.rs 7 = 0xFFFFFFFF := by decide

end Sys2Proof.Tests
end

section
/-! SUPPORT. What a table holds after its entries have been changed one by one, and after a filter. -/

namespace Sys2Proof.Machine

/-- A change of every entry that keeps its number, and that leaves the default as it is. -/
theorem tget_map {α : Type} (d : α) (t : Table α) (f : Nat × α → Nat × α) (hkey : ∀ e, (f e).1 = e.1) (hd : ∀ k, (f (k, d)).2 = d) (k : Nat) :
    tget d (t.map f) k = (f (k, tget d t k)).2 := by
  induction t with
  | nil => exact (hd k).symm
  | cons e rest ih =>
    obtain ⟨j, x⟩ := e
    have hj : (f (j, x)).1 = j := hkey (j, x)
    by_cases h : j = k
    · subst h; simp [tget, hj]
    · simp [tget, hj, h, ih]

end Sys2Proof.Machine
end

section
/-! SUPPORT. Records sent (R349): they are listed among the turns, behind the records that lead them. -/

namespace Sys2Proof.Machine

/-- Whether a turn sends a record. -/
def Turn.isRecord : Turn → Bool
  | .record .. => true
  | .ev _ | .tiller _ | .engine _ => false

theorem Turn.isRecord_iff (t : Turn) : t.isRecord = true ↔ ∃ q bs, t = .record q bs := by
  cases t <;> simp [Turn.isRecord]

theorem addRecord_eq (t : Turn) (ts : List Turn) : addRecord t ts = ts.takeWhile Turn.isRecord ++ t :: ts.dropWhile Turn.isRecord := by
  induction ts with
  | nil => rfl
  | cons u rest ih => cases u <;> simp [addRecord, List.takeWhile_cons, List.dropWhile_cons, Turn.isRecord, ih]

/-- A state with records listed behind those that lead its turns. -/
def State.withRecords (s : State) (rs : List Turn) : State :=
  { s with turns := s.turns.takeWhile Turn.isRecord ++ rs ++ s.turns.dropWhile Turn.isRecord }

@[simp] theorem State.withRecords_nil (s : State) : s.withRecords [] = s := by
  simp [State.withRecords]

theorem isRecord_of_mem_takeWhile {ts : List Turn} {t : Turn} (h : t ∈ ts.takeWhile Turn.isRecord) : t.isRecord = true :=
  List.all_eq_true.mp List.all_takeWhile t h

/-- Behind the records that lead a list of turns stands no further one. -/
theorem takeWhile_dropWhile_isRecord (ts : List Turn) : (ts.dropWhile Turn.isRecord).takeWhile Turn.isRecord = [] := by
  induction ts with
  | nil => rfl
  | cons t rest ih =>
    by_cases h : t.isRecord = true
    · rw [List.dropWhile_cons_of_pos h, ih]
    · rw [List.dropWhile_cons_of_neg h, List.takeWhile_cons_of_neg h]

theorem dropWhile_dropWhile_isRecord (ts : List Turn) : (ts.dropWhile Turn.isRecord).dropWhile Turn.isRecord = ts.dropWhile Turn.isRecord := by
  induction ts with
  | nil => rfl
  | cons t rest ih =>
    by_cases h : t.isRecord = true
    · rw [List.dropWhile_cons_of_pos h, ih]
    · rw [List.dropWhile_cons_of_neg h, List.dropWhile_cons_of_neg h]

theorem State.withRecords_withRecords (s : State) (as bs : List Turn) (h : ∀ t ∈ as, t.isRecord = true) :
    (s.withRecords as).withRecords bs = s.withRecords (as ++ bs) := by
  have hlead : ∀ t ∈ s.turns.takeWhile Turn.isRecord ++ as, t.isRecord = true := by
    intro t ht
    rcases List.mem_append.mp ht with ht | ht
    · exact isRecord_of_mem_takeWhile ht
    · exact h t ht
  unfold State.withRecords
  rw [List.takeWhile_append_of_pos hlead, List.dropWhile_append_of_pos hlead, takeWhile_dropWhile_isRecord, dropWhile_dropWhile_isRecord]
  simp only [List.append_nil, List.append_assoc]

/-- The record that a region's queue takes, where it takes one (R346, R347). -/
def State.recordFor (s : State) (region : Nat) (r : Rec) : List Turn :=
  if s.malformed region || s.effFdq region == 0 then [] else [.record (s.effFdq region) r.bytes]

theorem State.post_eq (s : State) (region : Nat) (r : Rec) : s.post region r = s.withRecords (s.recordFor region r) := by
  unfold State.post State.recordFor
  split
  · simp
  · simp [State.withRecords, addRecord_eq]

theorem State.isRecord_of_mem_recordFor {s : State} {region : Nat} {r : Rec} {t : Turn} (h : t ∈ s.recordFor region r) : t.isRecord = true := by
  unfold State.recordFor at h
  split at h
  · cases h
  · rw [List.mem_singleton.mp h]; rfl

theorem State.record_mem_recordFor {s : State} {region : Nat} (r : Rec) (hm : s.malformed region = false) (hq : s.effFdq region ≠ 0) :
    .record (s.effFdq region) r.bytes ∈ s.recordFor region r := by
  simp [State.recordFor, hm, hq]

/-- Records about several tillers, one after another. -/
theorem State.exists_records_of_postTillers (kind b2 : Nat) (va : State → Nat → Nat) (ts : List Nat) (s : State) :
    ∃ rs, (∀ t ∈ rs, t.isRecord = true) ∧ ts.foldl (fun st t => st.postTiller t kind b2 (va st t)) s = s.withRecords rs := by
  induction ts generalizing s with
  | nil => exact ⟨[], by simp⟩
  | cons t rest ih =>
    obtain ⟨rs, hrs, heq⟩ := ih (s.postTiller t kind b2 (va s t))
    have hfirst := s.post_eq (s.regionOf t) (s.recOf t kind b2 (va s t) s.time)
    refine ⟨_, ?_, by rw [List.foldl_cons, heq, State.postTiller, hfirst, s.withRecords_withRecords _ _ fun _ => State.isRecord_of_mem_recordFor]⟩
    intro u hu
    rcases List.mem_append.mp hu with hu | hu
    · exact State.isRecord_of_mem_recordFor hu
    · exact hrs u hu

end Sys2Proof.Machine
end

section
/-! O44: timers and the power allowance (R17, R188, R189, R194, R196, R197, R199). -/

namespace Sys2Proof.Machine

theorem State.deferralDue_of_mem {s : State} {core : Nat} {e : Nat × Tiller} {d : Nat} (hmem : e ∈ s.tillers) (hlive : e.2.live = true) (hcore : e.1 / 64 = core)
    (helig : e.2.elig = false) (hrel : e.2.released = false) (hdefer : e.2.defer = some d) (hdue : d + (s.cluster (core / 4)).batchw ≤ (s.core core).cycles) :
    s.deferralDue core = true := by
  refine List.any_eq_true.mpr ⟨e, hmem, ?_⟩
  simp [hlive, hcore, helig, hrel, hdefer, coreOf, clusterOf, Nat.ble_eq, hdue]

/-- Every deferred tiller of the core, and no other, is released (R188). -/
theorem State.releaseDeferred_tiller {s : State} {core : Nat} (h : s.deferralDue core = true) (t : Nat) :
    (s.releaseDeferred core).tiller t = if t / 64 = core ∧ (s.tiller t).defer.isSome then { s.tiller t with released := true } else s.tiller t := by
  have hmap := tget_map Tiller.blank s.tillers (fun e => if coreOf e.1 == core then (e.1, e.2.release) else e)
    (fun e => by split <;> rfl) (fun k => by split <;> rfl) t
  rw [State.releaseDeferred, if_pos h]
  refine hmap.trans ?_
  simp only [coreOf, Tiller.release, beq_iff_eq, State.tiller]
  by_cases hc : t / 64 = core
  · simp [hc]
  · simp [hc]

theorem Sheaf.resident_iff (h : Sheaf) : h.resident = true ↔ Says.isResident h := by
  unfold Sheaf.resident Says.isResident
  cases h.st <;> simp

theorem State.hangs_iff (s : State) (i : Nat) (run : Bool) :
    s.hangs i run = true ↔ Says.isResident (s.sheaf i) ∧ (s.watchdog i run).2 ≠ 0 ∧ 1000 * (s.watchdog i run).2 ≤ (s.watchdog i run).1 := by
  simp [State.hangs, Sheaf.resident_iff, and_assoc]

/-- WATCHDOG_HANG of a watchdog that has reached its limit (R199, R372): the sheaf's record, then those of its tillers, and its count again from 0. -/
theorem exists_records_of_watchdogHang {s : State} {i : Nat} {run : Bool} (h : s.hangs i run = true) :
    ∃ (r : Rec) (rs : List Turn), (∀ t ∈ rs, t.isRecord = true) ∧
      exec (.watchdogHang i run) s = .next ((s.withRecords (s.recordFor (s.launch (s.sheaf i).launch).pkt.region r ++ rs)).setSheaf i
        (if run then { s.sheaf i with run := 0 } else { s.sheaf i with stall := 0 })) := by
  let region := (s.launch (s.sheaf i).launch).pkt.region
  let r : Rec := ⟨0x0005, b2n (!run), 0xFF, coreOf ((s.sheaf i).positions.headD 0), 0, 0, (s.rcb region).id, (s.sheaf i).index, (s.watchdog i run).1, s.time⟩
  obtain ⟨rs, hrs, heq⟩ := State.exists_records_of_postTillers 0x0006 0 (fun st t => (st.tiller t).tpc.toNat) (s.sheaf i).positions (s.post region r)
  refine ⟨r, rs, hrs, ?_⟩
  rw [← s.withRecords_withRecords _ _ fun _ => State.isRecord_of_mem_recordFor, ← State.post_eq, ← heq]
  simp [exec, execWatchdogHang, h, region, r]

theorem watchdogHang_of_not_hangs {s : State} {i : Nat} {run : Bool} (h : s.hangs i run = false) : exec (.watchdogHang i run) s = .next s := by
  simp [exec, execWatchdogHang, h]

end Sys2Proof.Machine

open Sys2Proof Sys2Proof.Machine

/-- Settles O44. -/
theorem timersAndAllowance : Obligations.TimersAndAllowance := by
  refine ⟨⟨?late, ?overdue, ?deferral⟩, ?watchdog, ?allowance⟩
  case late =>
    intro tid s helig hwait
    simp [exec, execClauseLate, helig, hwait]
  case overdue =>
    intro tid w s hw htime
    simp [exec, execTillerOverdue, hw, htime]
  case deferral =>
    intro core s e d hmem hlive hcore helig hrel hdefer hdue
    exact ⟨_, rfl, State.releaseDeferred_tiller (State.deferralDue_of_mem hmem hlive hcore helig hrel hdefer hdue)⟩
  case watchdog =>
    intro i run s h r
    obtain ⟨n, lim, hw⟩ : ∃ n lim, s.watchdog i run = (n, lim) := ⟨_, _, rfl⟩
    have hpair : (if run = true then (h.run, s.effRunlim r) else (h.stall, s.effStalllim r)) = (n, lim) := hw
    have hiff := s.hangs_iff i run
    rw [hpair]
    intro hst hlim
    rw [hw] at hiff
    refine ⟨fun hn => watchdogHang_of_not_hangs (Bool.eq_false_iff.mpr fun hh => ?_), fun hn => ?_⟩
    · exact absurd (hiff.mp hh).2.2 (by simpa using hn)
    · obtain ⟨q, rs, hrs, heq⟩ := exists_records_of_watchdogHang (hiff.mpr ⟨hst, hlim, hn⟩)
      refine ⟨_, _, _, _, heq, State.setSheaf_sheaf _ _ _, rfl, rfl, List.takeWhile_append_dropWhile.symm, rfl, ?_, ?_⟩
      · intro t ht
        rw [← Turn.isRecord_iff]
        rcases List.mem_append.mp ht with ht | ht
        · exact isRecord_of_mem_takeWhile ht
        · rcases List.mem_append.mp ht with ht | ht
          · exact State.isRecord_of_mem_recordFor ht
          · exact hrs t ht
      · intro hm hq
        exact ⟨q.bytes, List.mem_append_left _ (State.record_mem_recordFor q hm hq)⟩
  case allowance =>
    intro cl s c g a
    simp [exec, execAllowanceRefill, State.refill, c, g, a]
end

section
/-! O60: no instruction stops the machine (R16, R19, R329). -/

open Sys2Proof Sys2Proof.Machine

/-- Settles O60, by cases on the instruction: the arm of each calls a meaning that answers with a next state, on every path of its body (an exception of the spec is entered as a next state too, R329). -/
theorem nothingStops : Obligations.NothingStops := by
  intro i s
  cases i <;> exact ⟨_, rfl⟩

end

section
/-! SUPPORT. Bytes read from memory as a list, and the fields of a descriptor among them. -/

namespace Sys2Proof.Machine

theorem readBytes_eq_map (m : List Host.Cell) (a n : Nat) : readBytes m a n = (List.range n).map fun k => readByte m (a + k) := by
  induction n generalizing a with
  | zero => rfl
  | succ n ih => simp [readBytes, List.range_succ_eq_map, ih, Nat.add_assoc, Nat.add_comm 1]

theorem take_drop_readBytes (m : List Host.Cell) (a n o k : Nat) (h : o + k ≤ n) : ((readBytes m a n).drop o).take k = readBytes m (a + o) k := by
  apply List.ext_getElem
  · simp [readBytes_eq_map]; omega
  · intro j _ _; simp [readBytes_eq_map, Nat.add_assoc]

/-- A field of a descriptor that has been copied from memory. -/
theorem descNat_readBytes (m : List Host.Cell) (a n o k : Nat) (h : o + k ≤ n) : descNat (readBytes m a n) o k = readNat m (a + o) k := by
  rw [descNat, take_drop_readBytes m a n o k h, readNat]

theorem natOfBytes_lt (bs : List Byte) : natOfBytes bs < 256 ^ bs.length := by
  induction bs with
  | nil => simp [natOfBytes]
  | cons b rest ih =>
    have hb := b.isLt
    simp only [natOfBytes, List.foldr_cons, List.length_cons, Nat.pow_succ] at ih ⊢
    omega

theorem readNat_lt (m : List Host.Cell) (a n : Nat) : readNat m a n < 256 ^ n := by
  have h := natOfBytes_lt (readBytes m a n)
  rwa [readBytes_eq_map, List.length_map, List.length_range, ← readBytes_eq_map] at h

end Sys2Proof.Machine
end

section
/-! SUPPORT. The fields of CFG (R231) as numbers. -/

namespace Sys2Proof.Machine

theorem cfgMode_eq (v : Word) : cfgMode v = v.toNat % 16 := by simp [cfgMode]

theorem getLsbD_eq_decide (v : Word) (i : Nat) : v.getLsbD i = decide (v.toNat / 2 ^ i % 2 = 1) := by
  rw [← BitVec.testBit_toNat, Nat.testBit_eq_decide_div_mod_eq]

theorem testBit_top (v : Word) : v.toNat.testBit 31 = decide (2 ^ 31 ≤ v.toNat) := by
  rw [BitVec.testBit_toNat, getLsbD_eq_decide]
  have := v.isLt
  exact decide_eq_decide.mpr (by omega)

theorem cfgScale_eq (v : Word) : cfgScale v = decide (v.toNat / 64 % 2 = 1) := getLsbD_eq_decide v 6

theorem cfgOk_iff (v : Word) : cfgOk v = true ↔ Says.cfgLegal v := by
  have hhigh : v.extractLsb' 7 25 = 0 ↔ v.toNat < 128 := by
    rw [← BitVec.toNat_inj]
    have := v.isLt
    simp [Nat.shiftRight_eq_div_pow]
    omega
  simp only [cfgOk, Says.cfgLegal, cfgMode_eq, cfgScale_eq, cfgAf, cfgWf, getLsbD_eq_decide, Bool.and_eq_true, Bool.or_eq_true, Bool.not_eq_true',
    Bool.or_eq_false_iff, decide_eq_false_iff_not, beq_iff_eq, Nat.ble_eq, hhigh]
  omega

end Sys2Proof.Machine
end

section
/-! SUPPORT. The operand checks of the array's instructions are those of the spec, one after another (R238, R242 to R248). -/

namespace Sys2Proof.Machine

/-- Checks made in order, each a KIND, an ENTRY and whether it fails: the first that fails, or the operation (R238). -/
def firstFault (k : ArrKind) : List (Nat × Nat × Bool) → ArrCheck
  | [] => .ok k
  | (kind, entry, fails) :: rest => if fails then .error ⟨kind, entry⟩ else firstFault k rest

@[simp] theorem firstFault_nil (k : ArrKind) : firstFault k [] = .ok k := rfl
@[simp] theorem firstFault_cons (k : ArrKind) (kind entry : Nat) (fails : Prop) {inst : Decidable fails} [Decidable fails] (rest : List (Nat × Nat × Bool)) :
    firstFault k ((kind, entry, @decide fails inst) :: rest) = if fails then .error ⟨kind, entry⟩ else firstFault k rest := by
  simp [firstFault]

theorem firstFault_append (k : ArrKind) (l r : List (Nat × Nat × Bool)) (h : ∀ e ∈ l, e.2.2 = false) : firstFault k (l ++ r) = firstFault k r := by
  induction l with
  | nil => rfl
  | cons e rest ih =>
    obtain ⟨kind, entry, fails⟩ := e
    have hf : fails = false := h _ List.mem_cons_self
    simp [firstFault, hf, ih fun e he => h e (List.mem_cons_of_mem _ he)]

theorem firstFault_of_none (k : ArrKind) (l : List (Nat × Nat × Bool)) (h : ∀ e ∈ l, e.2.2 = false) : firstFault k l = .ok k := by
  simpa using firstFault_append k l [] h

theorem Wg.mlds_eq (w : Wg) (p : Bool) (c : Ctr) (a : SReg) (t : Tiller) :
    w.mlds (t.two a).1 (t.two a).2 = firstFault (.mlds (t.two a).1 (t.two a).2) (Says.tileChecks (.mlds p c a) t w) := by
  simp only [Wg.mlds, Says.tileChecks, Says.tileSizes, firstFault_cons, firstFault_nil, tile, Tiller.two, pairHi, cfgMode_eq, cfgScale_eq, decide_eq_true_eq, ArrMode.plane, ArrMode.scales, ArrMode.groups]

theorem Wg.mstr_eq (w : Wg) (p : Bool) (c : Ctr) (a b : SReg) (t : Tiller) :
    w.mstr (t.two a).1 (t.two a).2 (t.two b).1 (t.two b).2 =
      firstFault (.mstr (t.two a).1 (t.two a).2 (t.two b).1 (t.two b).2) (Says.tileChecks (.mstr p c a b) t w) := by
  simp only [Wg.mstr, Says.tileChecks, Says.tileSizes, firstFault_cons, firstFault_nil, tile, Tiller.two, pairHi, cfgMode_eq, cfgScale_eq, decide_eq_true_eq, ArrMode.groups]

theorem Wg.mclr_eq (w : Wg) (p : Bool) (c : Ctr) (a b : SReg) (t : Tiller) :
    w.mclr (t.two a).1 (t.two a).2 (t.rs b).toNat =
      firstFault (.mclr (t.two a).1 ((t.two a).2 % 8192) (decide (2 ^ 31 ≤ (t.two a).2)) (t.rs b).toNat) (Says.tileChecks (.mclr p c a b) t w) := by
  simp only [Wg.mclr, Says.tileChecks, firstFault_cons, firstFault_nil, tile, Tiller.two, pairHi, bits, testBit_top, decide_eq_true_eq, Nat.pow_zero, Nat.div_one]
  rfl

theorem Wg.mhist_eq (w : Wg) (p : Bool) (d a b : SReg) (t : Tiller) :
    w.mhist (t.two a).1 (t.two a).2 (t.rs b).toNat =
      firstFault (.mhist (t.two a).1 (t.two a).2 ((t.rs b).toNat % 2048)) (Says.tileChecks (.mhist p d a b) t w) := by
  simp only [Wg.mhist, Says.tileChecks, firstFault_cons, firstFault_nil, tile, Tiller.two, pairHi]
  rfl

/-! ### MGRP (R245) -/

/-- An entry of a group table (R245): ROWS, AROW and ACCROW. -/
def groupEntry (m : List Host.Cell) (o e : Nat) : Nat × Nat × Nat := (readNat m (o + 16 * e) 4, readNat m (o + 16 * e + 4) 4, readNat m (o + 16 * e + 8) 4)

theorem groupEntries_eq (m : List Host.Cell) (o n : Nat) : groupEntries m o n = (List.range n).map (groupEntry m o) := by
  induction n generalizing o with
  | zero => rfl
  | succ n ih =>
    have hnext (e : Nat) : groupEntry m o (e + 1) = groupEntry m (o + 16) e := by simp [groupEntry, show o + 16 * (e + 1) = o + 16 + 16 * e by omega]
    rw [groupEntries, ih, List.range_succ_eq_map, List.map_cons, List.map_map]
    congr 1
    exact List.map_congr_left fun e _ => (hnext e).symm

/-- The checks of an entry of a group table. -/
def entryChecks (trows acc e : Nat) (x : Nat × Nat × Nat) : List (Nat × Nat × Bool) :=
  [(4, e, decide (4096 < x.1)), (5, e, decide (trows < x.2.1 + x.1)), (1, e, decide (acc < x.2.2 + x.1))]

theorem firstFault_entryChecks (k : ArrKind) (trows acc : Nat) (f : Nat → Nat × Nat × Nat) (rest : List (Nat × Nat × Bool)) (n e : Nat) :
    firstFault k (((List.range' e n).flatMap fun j => entryChecks trows acc j (f j)) ++ rest) =
      match entryFault trows acc e ((List.range' e n).map f) with
      | some x => .error x
      | none => firstFault k rest := by
  induction n generalizing e with
  | zero => simp [entryFault]
  | succ n ih =>
    simp only [List.range'_succ, List.flatMap_cons, List.map_cons, entryChecks, entryFault, List.cons_append, List.nil_append, firstFault_cons] at ih ⊢
    split
    · rfl
    · split
      · rfl
      · split
        · rfl
        · exact ih (e + 1)

theorem foldl_rows_eq_sum (es : List (Nat × Nat × Nat)) (n : Nat) : es.foldl (fun k e => k + e.1) n = n + (es.map (·.1)).sum := by
  induction es generalizing n with
  | nil => simp
  | cons e rest ih => simp [ih, Nat.add_assoc]

/-- The operation of an MGRP whose table stands at an offset. -/
def grouped (m : List Host.Cell) (o : Nat) : ArrKind := .mgrp (readNat m o 4) (readNat m (o + 4) 4) ((List.range (readNat m (o + 12) 4)).map (groupEntry m (o + 16)))

/-- The checks of a group table as a whole. -/
def tableChecks (trows acc : Nat) (es : List (Nat × Nat × Nat)) : List (Nat × Nat × Bool) :=
  [(5, 0xFF, decide (trows < (es.map (·.1)).sum)), (1, 0xFF, decide (acc < (es.map (·.1)).sum))]

/-- The checks of an MGRP's entries, then of its table as a whole. -/
theorem firstFault_table (w : Wg) (o : Nat) :
    let trows := readNat w.bytes (o + 8) 4
    let count := readNat w.bytes (o + 12) 4
    let es := (List.range count).map (groupEntry w.bytes (o + 16))
    firstFault (grouped w.bytes o) (((List.range count).flatMap fun e => entryChecks trows w.accRows e (groupEntry w.bytes (o + 16) e)) ++ tableChecks trows w.accRows es) =
      match entryFault trows w.accRows 0 es with
      | some f => .error f
      | none => if trows < (es.map (·.1)).sum then tile 5 else if w.accRows < (es.map (·.1)).sum then tile 1 else .ok (grouped w.bytes o) := by
  intro trows count es
  rw [List.range_eq_range', firstFault_entryChecks, ← List.range_eq_range']
  simp only [tableChecks, firstFault_cons, firstFault_nil, tile]
  rfl

theorem Wg.mgrp_eq (w : Wg) (p : Bool) (c : Ctr) (a : SReg) (t : Tiller) :
    w.mgrp (t.rs a).toNat = firstFault (grouped w.bytes (t.rs a).toNat) (Says.tileChecks (.mgrp p c a) t w) := by
  have htable := firstFault_table w (t.rs a).toNat
  simp only [entryChecks, tableChecks, groupEntry, List.map_map, Function.comp_def, tile] at htable
  simp only [Wg.mgrp, Says.tileChecks, Says.tileSizes, firstFault_cons, List.cons_append, List.nil_append, tile, cfgMode_eq, cfgScale_eq, decide_eq_true_eq, ArrMode.groups,
    groupEntries_eq, groupEntry, foldl_rows_eq_sum, List.map_map, Function.comp_def, Nat.mul_zero, Nat.add_zero, Nat.zero_add, Nat.mul_one, Nat.reduceMul]
  iterate 6 refine ite_congr rfl (fun _ => rfl) fun _ => ?_
  exact htable.symm

/-! ### MDRN (R248) -/

theorem drainOf_readBytes (m : List Host.Cell) (o : Nat) :
    drainOf (readBytes m o 48) =
      { fmt := readNat m o 4 % 16, bias := decide (readNat m o 4 / 16 % 2 = 1), act := (readNat m o 4).testBit 5, usehist := (readNat m o 4).testBit 6
        zeros := decide (¬(readNat m o 4 / 128 % 2 = 1 ∨ readNat m o 4 / 65536 ≠ 0)), clip := bits (readNat m o 4) 8 8
        row0 := readNat m (o + 4) 2, rows := readNat m (o + 6) 2, col0 := readNat m (o + 8) 2, ncols := readNat m (o + 10) 2
        dst := readNat m (o + 12) 4, dstride := readNat m (o + 16) 4, sdst := readNat m (o + 20) 4, sstride := readNat m (o + 24) 4
        biasoff := readNat m (o + 28) 4, scale := readNat m (o + 32) 4 } := by
  have hzeros : (!(readNat m o 4).testBit 7 && bits (readNat m o 4) 16 16 == 0) = decide (¬(readNat m o 4 / 128 % 2 = 1 ∨ readNat m o 4 / 65536 ≠ 0)) := by
    have hlt := readNat_lt m o 4
    have hhigh : readNat m o 4 / 2 ^ 16 % 2 ^ 16 = readNat m o 4 / 65536 := Nat.mod_eq_of_lt (by omega)
    rw [bits, hhigh, Nat.testBit_eq_decide_div_mod_eq, Bool.eq_iff_iff]
    simp only [Bool.and_eq_true, Bool.not_eq_true', decide_eq_false_iff_not, beq_iff_eq, decide_eq_true_eq, not_or, Classical.not_not]
  have hfield (k n : Nat) (h : k + n ≤ 48) : descNat (readBytes m o 48) k n = readNat m (o + k) n := descNat_readBytes m o 48 k n h
  have h0 := hfield 0 4 (by omega)
  rw [Nat.add_zero] at h0
  simp only [drainOf, h0, hzeros, hfield 4 2 (by omega), hfield 6 2 (by omega), hfield 8 2 (by omega), hfield 10 2 (by omega), hfield 12 4 (by omega),
    hfield 16 4 (by omega), hfield 20 4 (by omega), hfield 24 4 (by omega), hfield 28 4 (by omega), hfield 32 4 (by omega)]
  simp [bits, Nat.testBit_eq_decide_div_mod_eq]

theorem Drain.rowBytes_eq (d : Drain) :
    d.rowBytes = if d.fmt = 6 then d.ncols / 2 else d.ncols * (if d.fmt ≤ 1 then 4 else if d.fmt ≤ 3 then 2 else 1) := by
  unfold Drain.rowBytes Drain.ebits
  split
  case h_6 h0 h1 h2 h3 h6 =>
    change d.fmt ≠ 0 at h0
    change d.fmt ≠ 1 at h1
    change d.fmt ≠ 2 at h2
    change d.fmt ≠ 3 at h3
    have hbyte : 3 < d.fmt := by omega
    rw [if_neg h6, if_neg (by omega), if_neg (by omega)]
    omega
  all_goals simp [*]; omega

/-- The fault of a check that fails, or the operation. -/
def faultOr (k : ArrKind) : Option TileFault → ArrCheck
  | some f => .error f
  | none => .ok k

theorem faultOr_ite (k : ArrKind) (p : Prop) [Decidable p] (f : TileFault) (o : Option TileFault) :
    faultOr k (if p then some f else o) = if p then .error f else faultOr k o := by
  split <;> rfl

theorem Wg.mdrn_eq_faultOr (w : Wg) (o : Nat) :
    w.mdrn o = if o % 16 ≠ 0 then tile 3 else if w.spad < o + 48 then tile 2
      else faultOr (.mdrn (readBytes w.bytes o 48)) ((drainOf (readBytes w.bytes o 48)).check w.spad w.accRows) := by
  unfold Wg.mdrn faultOr
  rfl

theorem Wg.mdrn_eq (w : Wg) (p : Bool) (c : Ctr) (a : SReg) (t : Tiller) :
    w.mdrn (t.rs a).toNat = firstFault (.mdrn ((List.range 48).map fun k => readByte w.bytes ((t.rs a).toNat + k))) (Says.tileChecks (.mdrn p c a) t w) := by
  simp only [Wg.mdrn_eq_faultOr, drainOf_readBytes, Drain.check, Drain.rowBytes_eq, faultOr_ite, Says.tileChecks, tile, firstFault_cons, firstFault_nil, ← readBytes_eq_map,
    Bool.not_eq_true', decide_eq_false_iff_not, decide_eq_true_eq, Classical.not_not, or_assoc, Nat.ble_eq, Nat.add_zero]
  iterate 8 refine ite_congr rfl (fun _ => rfl) fun _ => ?_
  rfl

/-! ### The instructions that enter the queue -/

/-- What an array instruction that enters the queue does: its checks are those of the spec in their order, and its operation is the spec's (R239, R242 to R248). -/
theorem exec_arrayOp (i : Instr) (s : State) (harr : Says.isArray i = true) (hcfg : ∀ p a, i ≠ .mcfg p a) (w : Wg) :
    ∃ (chk : Wg → ArrCheck) (c : Option Ctr) (d : Option SReg) (p : Bool) (k : ArrKind), exec i s = .next (s.mx chk c d p) ∧
      Says.arrayOp i s.tl w = some (p, c.map BitVec.toNat, d, k) ∧ chk w = firstFault k (Says.tileChecks i s.tl w) := by
  cases i
  case mcfg p a => exact absurd rfl (hcfg p a)
  case mlds p c a => exact ⟨_, some c, none, p, _, rfl, rfl, w.mlds_eq p c a s.tl⟩
  case mswp p => exact ⟨_, none, none, p, _, rfl, rfl, rfl⟩
  case mstr p c a b => exact ⟨_, some c, none, p, _, rfl, rfl, w.mstr_eq p c a b s.tl⟩
  case mgrp p c a => exact ⟨_, some c, none, p, _, rfl, rfl, w.mgrp_eq p c a s.tl⟩
  case mclr p c a b => exact ⟨_, some c, none, p, _, rfl, rfl, w.mclr_eq p c a b s.tl⟩
  case mhist p d a b => exact ⟨_, none, some d, p, _, rfl, rfl, w.mhist_eq p d a b s.tl⟩
  case mdrn p c a => exact ⟨_, some c, none, p, _, rfl, rfl, w.mdrn_eq p c a s.tl⟩
  all_goals cases harr

theorem isArray_of_arrayOp {i : Instr} {t : Tiller} {w : Wg} {x : Bool × Option Nat × Option SReg × ArrKind} (h : Says.arrayOp i t w = some x) :
    Says.isArray i = true ∧ ∀ p a, i ≠ .mcfg p a := by
  cases i <;> simp [Says.arrayOp] at h <;> simp [Says.isArray]

end Sys2Proof.Machine
end

section
/-! O34: array instructions enter the queue, or fault (R15, R33, R126, R231, R233, R238, R239, R241 to R248). -/

namespace Sys2Proof.Machine

/-! ### The checks that come first -/

theorem State.ownsArray_eq (s : State) : s.ownsArray = ((s.wg (Says.own s)).accRows != 0) := rfl

/-- Every array instruction asks for the ownership, then for the mask (R238). -/
theorem exec_array_mxChecked (i : Instr) (s : State) (harr : Says.isArray i = true) : ∃ k, exec i s = .next (s.mxChecked k) := by
  by_cases hcfg : ∃ p a, i = .mcfg p a
  · obtain ⟨p, a, rfl⟩ := hcfg
    exact ⟨_, rfl⟩
  · obtain ⟨chk, c, d, p, _, hexec, _⟩ := exec_arrayOp i s harr (fun p a h => hcfg ⟨p, a, h⟩) (s.wg (Says.own s))
    exact ⟨_, hexec⟩

theorem State.mxChecked_of_unowned {s : State} (h : (s.wg (Says.own s)).accRows = 0) (k : State) : s.mxChecked k = Says.illegalHere s 0x0A := by
  simp [State.mxChecked, State.ownsArray_eq, h]
  rfl

theorem State.mxChecked_of_inactive {s : State} (hown : (s.wg (Says.own s)).accRows ≠ 0) (hact : s.tl.act ≠ 0xFFFFFFFF) (k : State) :
    s.mxChecked k = Says.illegalHere s 0x0B := by
  have hfull : isFull s.tl.act = false := beq_eq_false_iff_ne.mpr hact
  simp [State.mxChecked, State.ownsArray_eq, hown, hfull]
  rfl

theorem State.mxChecked_of_usable {s : State} (h : Says.arrayUsable s) (k : State) : s.mxChecked k = k := by
  simp [State.mxChecked, State.ownsArray_eq, isFull, h.1, h.2]

/-! ### Entering the queue -/

/-- The issuing tiller with its counter raised and its destination pending (R239). -/
def Tiller.entering (t : Tiller) (c : Option Ctr) (d : Option SReg) : Tiller :=
  let t1 := match c with
    | some n => t.incCtr n.toNat
    | none => t
  match d with
  | some r => t1.addPend (us r)
  | none => t1

theorem mem_us {r : PReg} {x : SReg} : r ∈ us x ↔ x ≠ 0 ∧ r = .s x.toNat := by
  unfold us
  split
  · simp [*]
  · next h => simpa using fun _ => h

theorem Tiller.mem_addPend {t : Tiller} {rs : List PReg} {r : PReg} : r ∈ (t.addPend rs).pend ↔ r ∈ t.pend ∨ r ∈ rs := by
  by_cases h : r ∈ t.pend <;> simp [Tiller.addPend, h]

theorem Tiller.entering_ctr (t : Tiller) (c : Option Ctr) (d : Option SReg) (n : Nat) :
    (t.entering c d).ctr n = t.ctr n + if c.map BitVec.toNat = some n then 1 else 0 := by
  have hctr : (t.entering c d).ctr n = (t.entering c none).ctr n := by cases d <;> rfl
  rw [hctr]
  cases c with
  | none => rfl
  | some k =>
    show tget 0 (tput t.a k.toNat _) n = _
    rw [tget_tput]
    by_cases h : n = k.toNat
    · subst h; simp
    · simp [h, Ne.symm h, Tiller.ctr]

theorem Tiller.mem_entering_pend {t : Tiller} {c : Option Ctr} {d : Option SReg} {r : PReg} :
    r ∈ (t.entering c d).pend ↔ r ∈ t.pend ∨ ∃ x, d = some x ∧ x ≠ 0 ∧ r = .s x.toNat := by
  have hpend : (t.entering c none).pend = t.pend := by cases c <;> rfl
  cases d with
  | none => simp [hpend]
  | some x =>
    show r ∈ ((t.entering c none).addPend (us x)).pend ↔ _
    simp [Tiller.mem_addPend, mem_us, hpend]

theorem Tiller.entering_keeps (t : Tiller) (c : Option Ctr) (d : Option SReg) :
    (t.entering c d).s = t.s ∧ (t.entering c d).v = t.v ∧ (t.entering c d).m = t.m ∧ (t.entering c d).flags = t.flags := by
  cases c <;> cases d <;> exact ⟨rfl, rfl, rfl, rfl⟩

/-- The accesses to other allocations that an array operation comes after (R235). -/
theorem State.spadPending_eq (s : State) : s.spadPending s.cur = Says.elsewhere s := by
  unfold State.spadPending Says.elsewhere
  induction s.flights with
  | nil => rfl
  | cons e rest ih =>
    rw [List.filterMap_cons, List.filter_cons, ih]
    cases e.2.kind <;> by_cases ht : e.2.tid = s.cur <;> simp [ht]

theorem ArrKind.usesSpad_eq (k : ArrKind) : k.usesSpad = Says.usesBytes k := by cases k <;> rfl

section
variable {s : State} (chk : Wg → ArrCheck) (c : Option Ctr) (d : Option SReg) (p : Bool) (husable : Says.arrayUsable s)
include husable

theorem State.mx_of_full (hfull : 16 ≤ (s.array (s.cur / 64)).queue.length) : s.mx chk c d p = s := by
  simp [State.mx, State.mxChecked_of_usable husable, coreOf, Nat.ble_eq, hfull]

theorem State.mx_of_room (hroom : (s.array (s.cur / 64)).queue.length < 16) :
    s.mx chk c d p = match chk (s.wg (Says.own s)) with
      | .error f => s.tileTrap f
      | .ok k => ((s.setTl (s.tl.entering c d)).enqueue (s.cur / 64) (Says.own s) k (.tiller s.cur (c.map BitVec.toNat) d)).finish p := by
  have hble : Nat.ble 16 (s.array (coreOf s.cur)).queue.length = false := by
    rw [← Bool.not_eq_true, Nat.ble_eq]
    exact Nat.not_le.mpr hroom
  simp only [State.mx, State.mxChecked_of_usable husable, hble]
  rfl

end

theorem State.noRoom_of_full {s : State} {i : Instr} (harr : Says.isArray i = true) (hcfg : ∀ p a, i ≠ .mcfg p a) (husable : Says.arrayUsable s)
    (hfull : 16 ≤ (s.array (s.cur / 64)).queue.length) : s.noRoom i = true := by
  have hroom : (s.ownsArray && isFull s.tl.act && Nat.ble 16 (s.array (s.cur / 64)).queue.length) = true := by
    simp [State.ownsArray_eq, isFull, husable.1, husable.2, hfull]
  cases i
  case mcfg p a => exact absurd rfl (hcfg p a)
  case mlds | mswp | mstr | mgrp | mclr | mhist | mdrn => exact hroom
  all_goals cases harr

/-- A word that finds no room stays as it is, to issue again (R16, R233). -/
theorem State.issue_of_noRoom {s : State} {r : Run} {i : Instr} (hnext : s.tl.nextInstr r = .ok i) (hdef : s.tl.deferred r i = none) (hroom : s.noRoom i = true) :
    s.issue r = .stay s := by
  simp [State.issue, hnext, hdef, hroom]

/-- The queue after an operation has entered it (R233, R235). -/
theorem State.enqueue_array (s : State) (t : Tiller) (k : ArrKind) (c : Option Nat) (d : Option SReg) :
    ((s.setTl t).enqueue (s.cur / 64) (Says.own s) k (.tiller s.cur c d)).array (s.cur / 64) =
      { s.array (s.cur / 64) with queue := (s.array (s.cur / 64)).queue ++
        [Says.entered1 k (s.wg (Says.own s)).cfg (.tiller s.cur c d) (Says.own s) (if Says.usesBytes k then Says.elsewhere s else [])] } := by
  unfold State.enqueue
  rw [State.setArray_array, ← ArrKind.usesSpad_eq, ← State.spadPending_eq]
  rfl

end Sys2Proof.Machine

open Sys2Proof Sys2Proof.Machine

/-- Settles O34: each array instruction is an `mx` whose operand checks are the spec's (exec_arrayOp), and MCFG makes the same first checks. -/
theorem arrayOperationsEnter : Obligations.ArrayOperationsEnter := by
  refine ⟨⟨?mcfg, ?enters⟩, ?faults⟩
  case mcfg =>
    intro p a s husable hlegal
    simp only [exec, execMcfg, State.mxChecked_of_usable husable, (cfgOk_iff _).mpr hlegal, if_true]
    rfl
  case enters =>
    intro i s p c d k _ hop husable hroom hchecks
    obtain ⟨harr, hcfg⟩ := isArray_of_arrayOp hop
    obtain ⟨chk, c', d', p', k', hexec, hop', hchk⟩ := exec_arrayOp i s harr hcfg (s.wg (Says.own s))
    obtain ⟨rfl, rfl, rfl, rfl⟩ : p = p' ∧ c = c'.map BitVec.toNat ∧ d = d' ∧ k = k' := by simpa using hop.symm.trans hop'
    rw [firstFault_of_none _ _ hchecks] at hchk
    rw [hexec, State.mx_of_room _ _ _ _ husable hroom, hchk]
    have htl : ((s.setTl (s.tl.entering c' d)).enqueue (s.cur / 64) (Says.own s) k (.tiller s.cur (c'.map BitVec.toNat) d)).tl = s.tl.entering c' d := State.setTl_tl _ _
    obtain ⟨hs, hv, hm, hf⟩ := s.tl.entering_keeps c' d
    refine ⟨_, rfl, rfl, s.enqueue_array _ k _ d, ?_, ?_, ?_, ?_, ?_, ?_, rfl, rfl⟩
    · intro n; rw [htl, Tiller.entering_ctr]
    · intro r; rw [htl, Tiller.mem_entering_pend]
    all_goals rw [htl]; assumption
  case faults =>
    intro i s harr _ full
    obtain ⟨k, hfirst⟩ := exec_array_mxChecked i s harr
    refine ⟨?unowned, ?inactive, ?full, ?bounds, ?cfg⟩
    case unowned =>
      intro hown
      rw [hfirst, State.mxChecked_of_unowned hown]
    case inactive =>
      intro hown hact
      rw [hfirst, State.mxChecked_of_inactive hown hact]
    case full =>
      rintro husable ⟨hcfg, hqueue⟩
      obtain ⟨chk, c, d, p, _, hexec, _⟩ := exec_arrayOp i s harr hcfg (s.wg (Says.own s))
      have hroom := State.noRoom_of_full harr hcfg husable hqueue
      exact ⟨by rw [hexec, State.mx_of_full _ _ _ _ husable hqueue], hroom, fun r hnext hdef => State.issue_of_noRoom hnext hdef hroom⟩
    case bounds =>
      intro husable hfull l r kind entry hchecks hl
      have hcfg : ∀ p a, i ≠ .mcfg p a := by
        rintro p a rfl
        simp [Says.tileChecks] at hchecks
      obtain ⟨chk, c, d, p, k', hexec, _, hchk⟩ := exec_arrayOp i s harr hcfg (s.wg (Says.own s))
      have hqueue : (s.array (s.cur / 64)).queue.length < 16 := Nat.not_le.mp fun h => hfull ⟨hcfg, h⟩
      have hfault : chk (s.wg (Says.own s)) = .error ⟨kind, entry⟩ := by rw [hchk, hchecks, firstFault_append _ _ _ hl]; rfl
      rw [hexec, State.mx_of_room _ _ _ _ husable hqueue, hfault]
      rfl
    case cfg =>
      rintro husable p a rfl hlegal
      simp only [exec, execMcfg, State.mxChecked_of_usable husable, if_neg (mt (cfgOk_iff _).mp hlegal)]
      rfl
end

section
/-! SUPPORT. Tables: what is listed, and tables whose numbers rise. -/

namespace Sys2Proof.Machine

theorem tget_eq_getD {α : Type} (d : α) (t : Table α) (k : Nat) : tget d t k = (tfind t k).getD d := by
  induction t with
  | nil => rfl
  | cons e rest ih =>
    obtain ⟨j, x⟩ := e
    by_cases h : j = k <;> simp [tget, tfind, h, ih]

theorem tfind_tput {α : Type} (t : Table α) (k u : Nat) (x : α) : tfind (tput t k x) u = if u = k then some x else tfind t u := by
  induction t with
  | nil => simp [tput, tfind, eq_comm]
  | cons e rest ih =>
    obtain ⟨j, y⟩ := e
    unfold tput
    split
    · simp [tfind, eq_comm]
    · split
      · next h => subst h; by_cases hu : u = j <;> simp [tfind, hu, eq_comm (a := j)]
      · next h =>
        by_cases hj : j = u
        · subst hj; simp [tfind, h]
        · simp [tfind, hj, ih]

theorem tfind_filter_none {α : Type} (t : Table α) (p : Nat × α → Bool) (k : Nat) (h : ∀ x, p (k, x) = false) : tfind (t.filter p) k = none := by
  induction t with
  | nil => rfl
  | cons e rest ih =>
    obtain ⟨j, x⟩ := e
    rw [List.filter_cons]
    split
    · next hp =>
      have hj : j ≠ k := by rintro rfl; simp [h x] at hp
      simp [tfind, hj, ih]
    · exact ih

theorem mem_tput {α : Type} {t : Table α} {k : Nat} {x : α} {e : Nat × α} (h : e ∈ tput t k x) : e = (k, x) ∨ e ∈ t := by
  induction t with
  | nil => exact .inl (List.mem_singleton.mp h)
  | cons f rest ih =>
    obtain ⟨j, y⟩ := f
    unfold tput at h
    split at h
    · exact List.mem_cons.mp h
    · split at h
      · exact (List.mem_cons.mp h).imp id (List.mem_cons_of_mem _)
      · rcases List.mem_cons.mp h with rfl | h
        · exact .inr List.mem_cons_self
        · exact (ih h).imp id (List.mem_cons_of_mem _)

theorem rising_tput {α : Type} {t : Table α} (h : Says.rising t) (k : Nat) (x : α) : Says.rising (tput t k x) := by
  induction t with
  | nil => exact List.pairwise_singleton _ _
  | cons f rest ih =>
    obtain ⟨j, y⟩ := f
    obtain ⟨hhead, hrest⟩ := List.pairwise_cons.mp h
    unfold tput
    split
    · next hk =>
      refine List.pairwise_cons.mpr ⟨fun e he => ?_, h⟩
      rcases List.mem_cons.mp he with rfl | he
      · exact hk
      · exact Nat.lt_trans hk (hhead e he)
    · split
      · next hj => subst hj; exact List.pairwise_cons.mpr ⟨hhead, hrest⟩
      · refine List.pairwise_cons.mpr ⟨fun e he => ?_, ih hrest⟩
        rcases mem_tput he with rfl | he
        · show j < k; omega
        · exact hhead e he

/-- A table whose numbers rise holds at a number the entry that it lists. -/
theorem tget_of_mem {α : Type} {t : Table α} (h : Says.rising t) {e : Nat × α} (he : e ∈ t) (d : α) : tget d t e.1 = e.2 := by
  induction t with
  | nil => cases he
  | cons f rest ih =>
    obtain ⟨hhead, hrest⟩ := List.pairwise_cons.mp h
    rcases List.mem_cons.mp he with rfl | he
    · simp [tget]
    · simp [tget, Nat.ne_of_lt (hhead e he), ih hrest he]

end Sys2Proof.Machine
end

section
/-! SUPPORT. An access at a home slice changes the slices and the banks, and nothing else (R254, R260 to R262, R264, R286). -/

namespace Sys2Proof.Machine

/-- Two states that differ in their slices and banks alone. -/
def SlicesOnly (s s' : State) : Prop := ∃ slices banks, s' = { s with slices := slices, banks := banks }

namespace SlicesOnly

theorem refl (s : State) : SlicesOnly s s := ⟨_, _, rfl⟩

theorem trans {s t u : State} (h : SlicesOnly s t) (h' : SlicesOnly t u) : SlicesOnly s u := by
  obtain ⟨a, b, rfl⟩ := h
  obtain ⟨c, d, rfl⟩ := h'
  exact ⟨c, d, rfl⟩

theorem ite {s a b : State} {p : Prop} [Decidable p] (ha : SlicesOnly s a) (hb : SlicesOnly s b) : SlicesOnly s (if p then a else b) := by
  split
  · exact ha
  · exact hb

theorem foldl {α : Type} {f : State → α → State} (h : ∀ s x, SlicesOnly s (f s x)) (s : State) (l : List α) : SlicesOnly s (l.foldl f s) :=
  List.foldlRecOn (motive := SlicesOnly s) l f (refl s) fun _ ht x _ => ht.trans (h _ x)

end SlicesOnly

theorem setSlice_slicesOnly (s : State) (n : Nat) (x : Slice) : SlicesOnly s (s.setSlice n x) := ⟨_, _, rfl⟩

theorem bankAsk_slicesOnly (s : State) (pa src : Nat) (read : Bool) (own : Option Nat) : SlicesOnly s (s.bankAsk pa src read own) := by
  unfold State.bankAsk
  split
  · exact ⟨_, _, rfl⟩
  all_goals exact .refl s

theorem bankWork_slicesOnly (s : State) (pa src : Nat) (read : Bool) : SlicesOnly s (s.bankWork pa src read) := bankAsk_slicesOnly s pa src read none

theorem kvEvict_slicesOnly (s : State) (sl : Nat) (b : KvBlock) (src : Nat) : SlicesOnly s (s.kvEvict sl b src) :=
  (setSlice_slicesOnly s sl _).trans (.foldl (fun st a => bankWork_slicesOnly st a src false) _ _)

theorem cacheEvict_slicesOnly (s : State) (sl : Nat) (l : CacheLine) (src : Nat) : SlicesOnly s (s.cacheEvict sl l src) :=
  have hdrop := setSlice_slicesOnly s sl _
  .ite (hdrop.trans (bankWork_slicesOnly _ _ _ _)) hdrop

theorem evictBorrowed_slicesOnly (s : State) (sl src : Nat) : SlicesOnly s (s.evictBorrowed sl src) := by
  unfold State.evictBorrowed
  dsimp only
  split
  · exact .refl s
  · split
    · exact cacheEvict_slicesOnly s sl _ src
    · exact .refl s

theorem makeRoom_slicesOnly (s : State) (sl src need fuel : Nat) : SlicesOnly s (s.makeRoom sl src need fuel) := by
  induction fuel generalizing s with
  | zero => exact .refl s
  | succ n ih => exact .ite (.refl s) ((evictBorrowed_slicesOnly s sl src).trans (ih _))

theorem cacheAlloc_slicesOnly (s : State) (sl n line src : Nat) (dirty gr : Bool) : SlicesOnly s (s.cacheAlloc sl n line src dirty gr) := by
  have hput (st : State) : SlicesOnly st (st.cachePut sl ⟨line, n, dirty⟩) := setSlice_slicesOnly st sl _
  refine .ite (.refl s) (.ite ((makeRoom_slicesOnly s sl src _ _).trans (hput _)) (.ite (hput s) ?_))
  split
  · exact (cacheEvict_slicesOnly s sl _ src).trans (hput _)
  · exact .refl s

theorem kvAlloc_slicesOnly (s : State) (sl n line tenant src : Nat) (wr : Bool) : SlicesOnly s (s.kvAlloc sl n line tenant src wr) := by
  have hput (st : State) (b : KvBlock) : SlicesOnly st (st.kvPut sl b) := setSlice_slicesOnly st sl _
  refine .ite ((makeRoom_slicesOnly s sl src _ _).trans (hput _ _)) ?_
  split
  · exact .refl s
  · exact (kvEvict_slicesOnly s sl _ src).trans (hput _ _)

theorem kvFill_slicesOnly (s : State) (sl line src : Nat) : SlicesOnly s (s.kvFill sl line src) := by
  unfold State.kvFill
  split
  · exact .foldl (fun st k => .ite (.refl st) (bankWork_slicesOnly st _ src true)) s _
  · exact .refl s

theorem mcastPut_slicesOnly (s : State) (sl line : Nat) : SlicesOnly s (s.mcastPut sl line) :=
  .ite (.refl s) (setSlice_slicesOnly s sl _)

theorem granary_slicesOnly (s : State) (sl pa tenant src : Nat) (wr full gr quiet : Bool) : SlicesOnly s (s.granary sl pa tenant src wr full gr quiet).2 := by
  unfold State.granary
  dsimp only
  split
  · split
    · exact .refl s
    · split
      · split
        · exact setSlice_slicesOnly s sl _
        · exact kvAlloc_slicesOnly s sl _ _ tenant src wr
      · split
        · exact setSlice_slicesOnly s sl _
        · exact .ite (.refl s) (cacheAlloc_slicesOnly s sl _ _ src wr gr)
  all_goals exact .refl s

theorem cacheLast_slicesOnly (s : State) (sl pa : Nat) : SlicesOnly s (s.cacheLast sl pa) := by
  unfold State.cacheLast
  dsimp only
  split
  · exact setSlice_slicesOnly s sl _
  · exact .refl s

theorem bankUse_slicesOnly (s : State) (pa src : Nat) (use : HomeUse) (hit kept near : Bool) : SlicesOnly s (s.bankUse pa src use hit kept near).2 := by
  have hask (st : State) (read : Bool) (own : Option Nat) : SlicesOnly st (st.bankAsk pa src read own) := bankAsk_slicesOnly st pa src read own
  cases use <;> simp only [State.bankUse, apply_ite Prod.snd]
  case read => exact .ite (.refl s) (.ite (.refl s) (hask s _ _))
  case fetch => exact .ite (.refl s) (hask s _ _)
  case write => exact .ite (.refl s) (hask s _ _)
  case atomic => exact .ite (.refl s) (.ite (hask s _ _) ((hask s _ _).trans (hask _ _ _)))
  case place => exact .ite (.refl s) (.ite (.refl s) (hask s _ _))

theorem homeAccess_slicesOnly (s : State) (sl pa tenant src : Nat) (use : HomeUse) (quiet last : Bool) : SlicesOnly s (s.homeAccess sl pa tenant src use quiet last).2 := by
  let s0 := if isPeer pa then s else s.setSlice sl { s.slice sl with rr := src }
  have h0 : SlicesOnly s s0 := .ite (.refl s) (setSlice_slicesOnly s sl _)
  let s1 := (s0.granary sl pa tenant src use.writes (use == .write true) (use == .place) quiet).2
  have h1 : SlicesOnly s s1 := h0.trans (granary_slicesOnly _ _ _ _ _ _ _ _ _)
  let s2 := if last then s1.cacheLast sl pa else s1
  have h2 : SlicesOnly s s2 := .ite (h1.trans (cacheLast_slicesOnly s1 sl pa)) h1
  let s3 := if use.writes then s2.mcastClose sl (pa / 64 * 64) else if use.merges then s2.mcastPut sl (pa / 64 * 64) else s2
  have h3 : SlicesOnly s s3 := .ite (h2.trans (setSlice_slicesOnly s2 sl _)) (.ite (h2.trans (mcastPut_slicesOnly s2 sl _)) h2)
  cases hk : physKind pa <;> simp only [State.homeAccess, hk]
  case hbm =>
    have h4 (hit kept near : Bool) := h3.trans (bankUse_slicesOnly s3 pa src use hit kept near)
    exact .ite (h4 _ _ _) ((h4 _ _ _).trans (kvFill_slicesOnly _ _ _ _))
  all_goals exact h3

end Sys2Proof.Machine
end

section
/-! SUPPORT. What the device's own writes, and a new target of a cluster, leave as it was: sheaves but for the mark of their shortfall record, launches, graph instances, which positions hold a tiller,
which workgroups stand, and the reservations of clusters. -/

namespace Sys2Proof.Machine

/-- What the scheduler holds stands in the second state as in the first. -/
structure Keeps (s s' : State) : Prop where
  sheaf : ∀ j, ∃ sent, s'.sheaf j = { s.sheaf j with shortfall := sent }
  launches : s'.launches = s.launches
  graphs : s'.graphs = s.graphs
  live : ∀ t, (s'.tiller t).live = (s.tiller t).live
  wgs : ∀ g, tfind s.wgs g = none → tfind s'.wgs g = none
  reserved : ∀ cl, (s'.cluster cl).reserved = (s.cluster cl).reserved

namespace Keeps

theorem refl (s : State) : Keeps s s := ⟨fun j => ⟨(s.sheaf j).shortfall, rfl⟩, rfl, rfl, fun _ => rfl, fun _ h => h, fun _ => rfl⟩

theorem trans {s t u : State} (h : Keeps s t) (h' : Keeps t u) : Keeps s u where
  sheaf j := by
    obtain ⟨a, ha⟩ := h.sheaf j
    obtain ⟨b, hb⟩ := h'.sheaf j
    exact ⟨b, by rw [hb, ha]⟩
  launches := h'.launches.trans h.launches
  graphs := h'.graphs.trans h.graphs
  live t := (h'.live t).trans (h.live t)
  wgs g hg := h'.wgs g (h.wgs g hg)
  reserved cl := (h'.reserved cl).trans (h.reserved cl)

theorem ite {s a b : State} {p : Prop} [Decidable p] (ha : Keeps s a) (hb : Keeps s b) : Keeps s (if p then a else b) := by
  split
  · exact ha
  · exact hb

theorem foldl {α : Type} {f : State → α → State} (h : ∀ s x, Keeps s (f s x)) (s : State) (l : List α) : Keeps s (l.foldl f s) :=
  List.foldlRecOn (motive := Keeps s) l f (refl s) fun _ ht x _ => ht.trans (h _ x)

/-- The tables that the relation speaks of are the same. -/
theorem of_eq {s s' : State} (hsheaves : s'.sheaves = s.sheaves) (hlaunches : s'.launches = s.launches) (hgraphs : s'.graphs = s.graphs)
    (htillers : s'.tillers = s.tillers) (hwgs : s'.wgs = s.wgs) (hclusters : s'.clusters = s.clusters) : Keeps s s' where
  sheaf j := ⟨(s.sheaf j).shortfall, by unfold State.sheaf; rw [hsheaves]⟩
  launches := hlaunches
  graphs := hgraphs
  live t := by unfold State.tiller; rw [htillers]
  wgs g hg := by rw [hwgs]; exact hg
  reserved cl := by unfold State.cluster; rw [hclusters]

theorem of_slicesOnly {s s' : State} (h : SlicesOnly s s') : Keeps s s' := by
  obtain ⟨a, b, rfl⟩ := h
  exact .of_eq rfl rfl rfl rfl rfl rfl

/-- A cluster put that is reserved as it was. -/
theorem setCluster {s : State} {cl : Nat} {c : Cluster} (h : c.reserved = (s.cluster cl).reserved) : Keeps s (s.setCluster cl c) where
  sheaf j := ⟨(s.sheaf j).shortfall, rfl⟩
  launches := rfl
  graphs := rfl
  live _ := rfl
  wgs _ hg := hg
  reserved k := by
    by_cases hk : k = cl
    · subst hk; rw [State.setCluster_cluster, h]
    · rw [State.setCluster_cluster_ne _ _ hk]

theorem setTiller {s : State} {t : Nat} {x : Tiller} (h : x.live = (s.tiller t).live) : Keeps s (s.setTiller t x) where
  sheaf j := ⟨(s.sheaf j).shortfall, rfl⟩
  launches := rfl
  graphs := rfl
  live u := by
    by_cases hu : u = t
    · subst hu; rw [State.setTiller_tiller, h]
    · rw [State.setTiller_tiller_ne _ _ hu]
  wgs _ hg := hg
  reserved _ := rfl

end Keeps

/-! ### Turns and records -/

theorem pushTurn_keeps (s : State) (t : Turn) : Keeps s (s.pushTurn t) := .of_eq rfl rfl rfl rfl rfl rfl

theorem post_keeps (s : State) (region : Nat) (r : Rec) : Keeps s (s.post region r) :=
  .ite (.refl s) (.of_eq rfl rfl rfl rfl rfl rfl)

theorem wakeCluster_keeps (s : State) (cl : Nat) : Keeps s (s.wakeCluster cl) := .ite (pushTurn_keeps s _) (.refl s)

/-! ### Writes at a home -/

theorem tiller_wake_live (w : Wg) (t : Tiller) : (t.wake w).live = t.live := by
  unfold Tiller.wake
  split
  · split <;> rfl
  all_goals rfl

/-- A workgroup that stands is replaced. -/
theorem putWg_keeps {s : State} {i : Nat} (w : Wg) (h : tfind s.wgs i ≠ none) : Keeps s (s.putWg i w) := by
  have hput : Keeps s (s.setWg i w) :=
    { Keeps.refl s with
      wgs := fun g hg => by
        have hne : g ≠ i := by rintro rfl; exact h hg
        rw [State.setWg, tfind_tput, if_neg hne, hg] }
  refine (hput.trans (wakeCluster_keeps _ (clusterOf w.core))).trans ?_
  refine { Keeps.refl _ with live := fun t => ?_ }
  refine congrArg Tiller.live (tget_map Tiller.blank _ _ (fun e => ?_) (fun k => ?_) t) |>.trans ?_
  · split <;> rfl
  · rfl
  · split
    · exact tiller_wake_live w _
    · rfl

/-- An arrival at a barrier object of no workgroup overruns (R218): the object expects none. -/
theorem blank_arrive (o scope add : Nat) : Wg.blank.arrive o scope add = none := by
  have hexp : barExpArr Wg.blank.bytes o = 0 := rfl
  rw [Wg.arrive, hexp, if_pos (Nat.zero_le _)]

theorem arriveAt_keeps {s s' : State} {i off scope : Nat} (h : s.arriveAt i off scope = some s') : Keeps s s' := by
  obtain ⟨w, hw, rfl⟩ := Option.map_eq_some_iff.mp h
  refine putWg_keeps w fun hnone => ?_
  have hblank : s.wg i = Wg.blank := by rw [State.wg, tget_eq_getD, hnone]; rfl
  rw [hblank, blank_arrive] at hw
  cases hw

theorem watchArrive_keeps (s : State) (w : Watch) : Keeps s (s.watchArrive w) := by
  unfold State.watchArrive
  dsimp only
  have htiller : Keeps s (s.setTiller w.tid { s.tiller w.tid with watches := (s.tiller w.tid).watches.filter fun q => q != w.seq }) := .setTiller rfl
  split
  · next h => exact htiller.trans (arriveAt_keeps h)
  · exact htiller.trans (post_keeps _ _ _)

theorem watchArrivals_keeps (s : State) (ws : List Watch) : Keeps s (s.watchArrivals ws) := by
  induction ws generalizing s with
  | nil => exact .refl s
  | cons w rest ih => exact (watchArrive_keeps s w).trans (ih _)

theorem fireLine_keeps (s : State) (line : Nat) : Keeps s (s.fireLine line) :=
  Keeps.trans (.ite (.refl s) (.of_slicesOnly (setSlice_slicesOnly s _ _))) (watchArrivals_keeps _ _)

theorem fireLines_keeps (s : State) (ls : List Nat) : Keeps s (s.fireLines ls) := by
  induction ls generalizing s with
  | nil => exact .refl s
  | cons l rest ih => exact (fireLine_keeps s l).trans (ih _)

theorem homePut_keeps (s : State) (cells : List Host.Cell) : Keeps s (s.homePut cells) :=
  Keeps.trans (t := { s with mem := writeCells s.mem cells }) (.of_eq rfl rfl rfl rfl rfl rfl) (fireLines_keeps _ _)

theorem recall_keeps (s : State) (line : Nat) : Keeps s (s.recall line) := by
  unfold State.recall
  refine .ite (.of_eq rfl rfl rfl rfl rfl rfl) ?_
  split
  · exact .refl s
  all_goals exact .of_eq rfl rfl rfl rfl rfl rfl

theorem reach_keeps (s : State) (line : Nat) : Keeps s (s.reach line) := .ite (.of_eq rfl rfl rfl rfl rfl rfl) (.refl s)

theorem storeLine_keeps (s : State) (sl tenant src : Nat) (cells : List Host.Cell) (quiet last : Bool) (line : Nat) :
    Keeps s (s.storeLine sl tenant src cells quiet last line) := by
  have haccess := (recall_keeps s line).trans (.of_slicesOnly (homeAccess_slicesOnly _ sl line tenant src (.write (coversLine cells line)) quiet last))
  exact .ite (haccess.trans (.of_eq rfl rfl rfl rfl rfl rfl)) haccess

theorem homeStoreHere_keeps (s : State) (tenant src : Nat) (cells : List Host.Cell) : Keeps s (s.homeStoreHere tenant src cells) :=
  (Keeps.foldl (fun st l => storeLine_keeps st (st.home l) tenant src cells false false l) s _).trans (homePut_keeps _ _)

theorem homeStore_keeps (s : State) (tenant src : Nat) (cells : List Host.Cell) : Keeps s (s.homeStore tenant src cells) :=
  (Keeps.foldl reach_keeps s _).trans (homeStoreHere_keeps _ _ _ _)

/-! ### Writes of virtual memory -/

theorem debit_keeps (s : State) (core n : Nat) : Keeps s (s.debit core n) := .setCluster rfl

theorem codecNeed_keeps (s : State) (core base rate : Nat) (wr : Bool) (cost hint : Nat) : Keeps s (s.codecNeed core base rate wr cost hint) :=
  .ite (.ite (debit_keeps s core _) (.refl s)) (.of_eq rfl rfl rfl rfl rfl rfl)

theorem strikeRoot_keeps (s : State) (base va n : Nat) : Keeps s (s.strikeRoot base va n) := by
  have hhold : Keeps s (s.hold base) := .of_slicesOnly (setSlice_slicesOnly s _ _)
  unfold State.strikeRoot
  dsimp only
  split
  · exact hhold
  · exact hhold.trans (post_keeps _ _ _)

theorem updateRecord_keeps (s : State) (tenant core crid rate : Nat) (vals : List Nat) : Keeps s (s.updateRecord tenant core crid rate vals) := by
  have hnat (st : State) (a n v : Nat) : Keeps st (st.codecNat tenant core a n v) := homeStoreHere_keeps st tenant core _
  exact .ite (.refl s) (.ite ((((hnat _ _ _ _).trans (hnat _ _ _ _)).trans (hnat _ _ _ _)).trans (hnat _ _ _ _)) (hnat _ _ _ _))

theorem codedWrite_keeps (s : State) (tenant core base rate crid : Nat) (dirty : List (Nat × Byte)) (quiet last : Bool) :
    Keeps s (s.codedWrite tenant core base rate crid dirty quiet last).1 := by
  have hbacking (cells : List Host.Cell) : Keeps s (s.backingWrite tenant core base cells quiet last) :=
    (Keeps.foldl (fun st l => storeLine_keeps st (st.home base) tenant core cells quiet last l) s _).trans (homePut_keeps _ _)
  simp only [State.codedWrite, apply_ite Prod.fst]
  exact .ite (.refl s) ((hbacking _).trans (updateRecord_keeps _ _ _ _ _ _))

theorem putLine_keeps (s : State) (src : Nat) (r : LineRef) (o : Nat) (bs : List Byte) : Keeps s (s.putLine src r o bs) :=
  .ite (.refl s) (.ite (homeStore_keeps s 0 src _) (.ite ((codecNeed_keeps s _ _ _ _ _ _).trans (strikeRoot_keeps _ _ _ _))
    ((codecNeed_keeps s _ _ _ _ _ _).trans (codedWrite_keeps _ _ _ _ _ _ _ _ _))))

theorem vwrite_keeps (s : State) (src root va : Nat) (bs : List Byte) (fuel : Nat) : Keeps s (s.vwrite src root va bs fuel) := by
  induction fuel generalizing s va bs with
  | zero => exact .refl s
  | succ n ih =>
    refine .ite (.refl s) (Keeps.trans ?_ (ih _ _ _))
    split
    · exact putLine_keeps s src _ _ _
    · exact .refl s

theorem recWrite_keeps (s : State) (l : Launch) (off n v : Nat) : Keeps s (s.recWrite l off n v) := vwrite_keeps s _ _ _ _ _

theorem recCount_keeps (s : State) (l : Launch) (off n v : Nat) : Keeps s (s.recCount l off n v) := .ite (.refl s) (recWrite_keeps s l off n v)

theorem recStatus_keeps (s : State) (l : Launch) (status field : Nat) : Keeps s (s.recStatus l status field) := recWrite_keeps s l _ _ _

theorem setDone_keeps (s : State) (l : Launch) (index : Nat) : Keeps s (s.setDone l index) := by
  unfold State.setDone
  dsimp only
  split
  · exact vwrite_keeps s _ _ _ _ _
  · exact .refl s

/-! ### A new target of a cluster -/

theorem startStep_reserved (c : Cluster) (now : Nat) : (c.startStep now).reserved = c.reserved := by
  unfold Cluster.startStep
  split
  · rfl
  · split <;> rfl

/-- A shortfall record is sent for a sheaf that stands as it is listed, or was marked since. -/
theorem shortfall_keeps {s : State} {e : Nat × Sheaf} (cap : Nat) (h : ∃ sent, s.sheaf e.1 = { e.2 with shortfall := sent }) : Keeps s (s.shortfall cap e) := by
  have hmark : Keeps s (s.setSheaf e.1 { e.2 with shortfall := true }) :=
    { Keeps.refl s with
      sheaf := fun j => by
        by_cases hj : j = e.1
        · subst hj
          obtain ⟨sent, hsent⟩ := h
          exact ⟨true, by rw [State.setSheaf_sheaf, hsent]⟩
        · exact ⟨(s.sheaf j).shortfall, by rw [State.setSheaf_sheaf_ne _ _ hj]⟩ }
  exact .ite (hmark.trans (post_keeps _ _ _)) (.refl s)

theorem foldl_shortfall_keeps (s : State) (cap : Nat) (l : List (Nat × Sheaf)) (h : ∀ e ∈ l, s.sheaf e.1 = e.2) :
    Keeps s (l.foldl (fun st e => st.shortfall cap e) s) :=
  List.foldlRecOn (motive := Keeps s) l _ (.refl s) fun st hst e he => hst.trans <| shortfall_keeps cap <| by
    obtain ⟨sent, hsent⟩ := hst.sheaf e.1
    exact ⟨sent, by rw [hsent, h e he]⟩

theorem retarget_keeps {s : State} (h : Says.rising s.sheaves) (cl : Nat) : Keeps s (s.retarget cl) :=
  have htarget : Keeps s (s.setCluster cl ({ s.cluster cl with tgt := s.targetOf cl }.startStep s.time)) := .setCluster (startStep_reserved _ _)
  htarget.trans (foldl_shortfall_keeps _ _ _ fun _ he => tget_of_mem h (List.mem_filter.mp he).1 _)

end Sys2Proof.Machine
end

section
/-! SUPPORT. The victims of a candidate (R355): the fewest of one cluster that let it fit. -/

namespace Sys2Proof.Machine

theorem mem_chooseFrom {α : Type} {n : Nat} {l xs : List α} : xs ∈ chooseFrom n l ↔ xs.Sublist l ∧ xs.length = n := by
  induction l generalizing n xs with
  | nil =>
    cases n with
    | zero => simp [chooseFrom]
    | succ n => simp [chooseFrom]; rintro rfl; simp
  | cons x rest ih =>
    cases n with
    | zero =>
      rw [chooseFrom, List.mem_singleton, List.length_eq_zero_iff]
      exact ⟨fun h => ⟨h ▸ List.nil_sublist _, h⟩, And.right⟩
    | succ n =>
      simp only [chooseFrom, List.mem_append, List.mem_map, ih, List.sublist_cons_iff]
      constructor
      · rintro (⟨ys, ⟨hys, hlen⟩, rfl⟩ | ⟨hxs, hlen⟩)
        · exact ⟨.inr ⟨ys, rfl, hys⟩, by simp [hlen]⟩
        · exact ⟨.inl hxs, hlen⟩
      · rintro ⟨hxs | ⟨ys, rfl, hys⟩, hlen⟩
        · exact .inr ⟨hxs, hlen⟩
        · exact .inl ⟨ys, ⟨hys, by simpa using hlen⟩, rfl⟩

theorem mem_insertVictim {s : State} {e x : Nat × Sheaf} {l : List (Nat × Sheaf)} : x ∈ s.insertVictim e l ↔ x = e ∨ x ∈ l := by
  induction l with
  | nil => simp [State.insertVictim]
  | cons y rest ih =>
    unfold State.insertVictim
    dsimp only
    split
    · simp
    · simp only [List.mem_cons, ih]
      exact or_left_comm

theorem mem_victimsOf {s : State} {prio cl : Nat} {e : Nat × Sheaf} : e ∈ s.victimsOf prio cl ↔ e ∈ s.residents cl ∧ s.mayEvict prio e = true := by
  rw [← List.mem_filter]
  unfold State.victimsOf
  induction (s.residents cl).filter fun e => s.mayEvict prio e with
  | nil => simp
  | cons y rest ih => rw [List.foldr_cons, mem_insertVictim, ih, List.mem_cons]

theorem victimOk_of_mayEvict {s : State} {prio : Nat} {e : Nat × Sheaf} (h : s.mayEvict prio e = true) : Says.victimOk s prio e := by
  simpa [State.mayEvict, Says.victimOk, Sheaf.positions, and_assoc] using h

/-- Some victims of a cluster would do: their launches have frame sets for them, and a candidate fits once they are gone (R355, R356). -/
def State.wouldDo (s : State) (c : Cand) (cl : Nat) (xs : List (Nat × Sheaf)) : Prop :=
  s.framesFor xs = true ∧ (s.fits c.launch cl (xs.map (·.1))).isSome = true

theorem framesFor_iff (s : State) (xs : List (Nat × Sheaf)) :
    s.framesFor xs = true ↔ ∀ e ∈ xs, (xs.filter fun x => decide (x.2.launch = e.2.launch)).length ≤ (s.launch e.2.launch).free.length := by
  simp only [State.framesFor, List.all_eq_true, Nat.ble_eq]
  rfl

/-- The search for the fewest victims finds none smaller, from a number on (R355). -/
theorem fewestFrom_some {s : State} {c : Cand} {cl n fuel : Nat} {vs : List (Nat × Sheaf)} {ids : List Nat} (h : s.fewestFrom c cl vs n fuel = some ids) :
    ∃ xs, ids = xs.map (·.1) ∧ xs.Sublist vs ∧ s.wouldDo c cl xs ∧ n ≤ xs.length ∧ ∀ ys, ys.Sublist vs → s.wouldDo c cl ys → n ≤ ys.length → xs.length ≤ ys.length := by
  induction fuel generalizing n with
  | zero => cases h
  | succ fuel ih =>
    unfold State.fewestFrom at h
    split at h
    · next xs hfind =>
      obtain rfl := Option.some.inj h
      obtain ⟨hsub, hlen⟩ := mem_chooseFrom.mp (List.mem_of_find?_eq_some hfind)
      have hdo := List.find?_some hfind
      exact ⟨xs, rfl, hsub, Bool.and_eq_true_iff.mp hdo, Nat.le_of_eq hlen.symm, fun ys _ _ hn => hlen ▸ hn⟩
    · next hfind =>
      obtain ⟨xs, rfl, hsub, hdo, hlen, hmin⟩ := ih h
      refine ⟨xs, rfl, hsub, hdo, Nat.le_of_succ_le hlen, fun ys hys hdoys hn => ?_⟩
      refine hmin ys hys hdoys (Nat.lt_of_le_of_ne hn fun heq => ?_)
      exact List.find?_eq_none.mp hfind ys (mem_chooseFrom.mpr ⟨hys, heq.symm⟩) (Bool.and_eq_true_iff.mpr hdoys)

theorem fewestFrom_none {s : State} {c : Cand} {cl n fuel : Nat} {vs : List (Nat × Sheaf)} (h : s.fewestFrom c cl vs n fuel = none) {ys : List (Nat × Sheaf)}
    (hys : ys.Sublist vs) (hdo : s.wouldDo c cl ys) (hn : n ≤ ys.length) : n + fuel ≤ ys.length := by
  induction fuel generalizing n with
  | zero => exact hn
  | succ fuel ih =>
    unfold State.fewestFrom at h
    split at h
    · cases h
    · next hfind =>
      have hne : n ≠ ys.length := fun heq => List.find?_eq_none.mp hfind ys (mem_chooseFrom.mpr ⟨hys, heq.symm⟩) (Bool.and_eq_true_iff.mpr hdo)
      have := ih h (Nat.lt_of_le_of_ne hn hne)
      omega

/-- A choice that goes on to what is smaller alone ends with one of the smallest. -/
theorem foldl_smallest {α : Type} {f : Option α → α → Option α} (size : α → Nat) (hnone : ∀ x, f none x = some x)
    (hsome : ∀ y x, f (some y) x = if size x < size y then some x else some y) {l : List α} {y : α} (h : l.foldl f none = some y) :
    y ∈ l ∧ ∀ x ∈ l, size y ≤ size x := by
  have hfrom : ∀ (l : List α) (b : α), l.foldl f (some b) = some y → (y = b ∨ y ∈ l) ∧ size y ≤ size b ∧ ∀ x ∈ l, size y ≤ size x := by
    intro l
    induction l with
    | nil => rintro b h; cases h; simp
    | cons x rest ih =>
      intro b h
      rw [List.foldl_cons, hsome] at h
      by_cases hlt : size x < size b
      · rw [if_pos hlt] at h
        obtain ⟨hy, hle, hmin⟩ := ih x h
        exact ⟨.inr (List.mem_cons.mpr hy), by omega, fun z hz => (List.mem_cons.mp hz).elim (fun e => e ▸ hle) (hmin z)⟩
      · rw [if_neg hlt] at h
        obtain ⟨hy, hle, hmin⟩ := ih b h
        exact ⟨hy.imp id (List.mem_cons_of_mem _), hle, fun z hz => (List.mem_cons.mp hz).elim (fun e => by subst e; omega) (hmin z)⟩
  cases l with
  | nil => cases h
  | cons b rest =>
    rw [List.foldl_cons, hnone] at h
    obtain ⟨hy, hle, hmin⟩ := hfrom rest b h
    exact ⟨List.mem_cons.mpr hy, fun z hz => (List.mem_cons.mp hz).elim (fun e => e ▸ hle) (hmin z)⟩

/-- The victims chosen for a candidate: as few as any that would do, in any cluster that it may enter (R355). -/
theorem victims_spec {s : State} {c : Cand} {cl : Nat} {ids : List Nat} (h : s.victims c = some (cl, ids)) :
    ∃ xs, ids = xs.map (·.1) ∧ xs ≠ [] ∧ xs.Sublist (s.victimsOf (s.effPrio (s.candRegion c)) cl) ∧ s.wouldDo c cl xs ∧
      ∀ cl' ys, cl' < 64 → s.unreserved c cl' = true → ys ≠ [] → ys.Sublist (s.victimsOf (s.effPrio (s.candRegion c)) cl') → s.wouldDo c cl' ys → ids.length ≤ ys.length := by
  obtain ⟨hmem, hmin⟩ := foldl_smallest (fun x : Nat × List Nat => x.2.length) (fun _ => rfl) (fun _ _ => rfl) h
  obtain ⟨cl₀, -, hcl⟩ := List.mem_filterMap.mp hmem
  split at hcl
  case isFalse => cases hcl
  obtain ⟨ids₀, hids, heq⟩ := Option.map_eq_some_iff.mp hcl
  obtain ⟨rfl, rfl⟩ := Prod.mk.inj heq
  obtain ⟨xs, rfl, hsub, hdo, hlen, -⟩ := fewestFrom_some hids
  refine ⟨xs, rfl, List.ne_nil_of_length_pos hlen, hsub, hdo, fun cl' ys hcl' hun hne hys hdoys => ?_⟩
  have hpos : 1 ≤ ys.length := List.length_pos_iff.mpr hne
  cases hfew : s.fewestFrom c cl' (s.victimsOf (s.effPrio (s.candRegion c)) cl') 1 (s.victimsOf (s.effPrio (s.candRegion c)) cl').length with
  | none =>
    have hlong := fewestFrom_none hfew hys hdoys hpos
    have hshort := hys.length_le
    omega
  | some ids' =>
    obtain ⟨xs', rfl, -, -, -, hfewest⟩ := fewestFrom_some hfew
    have hoffered := hmin (cl', xs'.map (·.1)) (List.mem_filterMap.mpr ⟨cl', List.mem_range.mpr hcl', by simp [hun, hfew]⟩)
    have := hfewest ys hys hdoys hpos
    simp only [List.length_map] at hoffered ⊢
    omega

end Sys2Proof.Machine
end

section
/-! SUPPORT. A sheaf placed for the first time (R11, R12, R189): its tillers and workgroups, and what follows in its cluster. -/

namespace Sys2Proof.Machine

theorem Keeps.launch {s s' : State} (h : Keeps s s') (l : Nat) : s'.launch l = s.launch l := by
  unfold State.launch
  rw [h.launches]

/-- Tillers and workgroups of sheaves that stand are put on cores: sheaves change in their lists of tillers alone. -/
structure Seats (s s' : State) : Prop where
  sheaf : ∀ j, ∃ tids, s'.sheaf j = { s.sheaf j with tids := tids }
  rising : Says.rising s.sheaves → Says.rising s'.sheaves
  launches : s'.launches = s.launches
  clusters : s'.clusters = s.clusters

namespace Seats

theorem of_eq {s s' : State} (hsheaves : s'.sheaves = s.sheaves) (hlaunches : s'.launches = s.launches) (hclusters : s'.clusters = s.clusters) : Seats s s' where
  sheaf j := ⟨(s.sheaf j).tids, by unfold State.sheaf; rw [hsheaves]⟩
  rising h := hsheaves ▸ h
  launches := hlaunches
  clusters := hclusters

theorem refl (s : State) : Seats s s := of_eq rfl rfl rfl

theorem trans {s t u : State} (h : Seats s t) (h' : Seats t u) : Seats s u where
  sheaf j := by
    obtain ⟨a, ha⟩ := h.sheaf j
    obtain ⟨b, hb⟩ := h'.sheaf j
    exact ⟨b, by rw [hb, ha]⟩
  rising hr := h'.rising (h.rising hr)
  launches := h'.launches.trans h.launches
  clusters := h'.clusters.trans h.clusters

end Seats

theorem addTiller_seats (s : State) (i core slot : Nat) (x : Tiller) : Seats s (s.addTiller i core slot x) where
  sheaf j := by
    by_cases hj : j = i
    · subst hj; exact ⟨_, State.setSheaf_sheaf _ _ _⟩
    · exact ⟨_, State.setSheaf_sheaf_ne _ _ hj⟩
  rising h := rising_tput h _ _
  launches := rfl
  clusters := rfl

theorem addTillers_seats (s : State) (i core s0 : Nat) (ts : List Tiller) : Seats s (s.addTillers i core s0 ts) := by
  induction ts generalizing s with
  | nil => exact .refl s
  | cons x rest ih => exact (addTiller_seats s i core _ x).trans (ih _)

theorem placeWg_seats (s : State) (i w core s0 : Nat) (ts : List Tiller) : Seats s (s.placeWg i w core s0 ts) := by
  refine Seats.trans (.of_eq ?_ ?_ ?_) (addTillers_seats _ i core s0 ts)
  all_goals
    simp only [State.acquireL1, State.setCore, State.setWg]
    split <;> rfl

theorem placeWgs_seats (s : State) (i : Nat) (tillers : Nat → List Tiller) (w : Nat) (cores : List (Nat × Nat)) : Seats s (s.placeWgs i tillers w cores) := by
  induction cores generalizing s w with
  | nil => exact .refl s
  | cons c rest ih => exact (placeWg_seats s i w _ _ _).trans (ih _ _)

theorem settleIn_keeps {s : State} (h : Says.rising s.sheaves) (cl : Nat) (wasEmpty : Bool) : Keeps s (s.settleIn cl wasEmpty) := by
  let c := { s.cluster cl with idleSince := s.time }
  have hset : Keeps s (s.setCluster cl (if wasEmpty then { c with allow := 64000 * (s.clusterGrant cl : Int), wlvl := 0 } else c)) :=
    .setCluster (by split <;> rfl)
  have hrising : Says.rising (s.setCluster cl (if wasEmpty then { c with allow := 64000 * (s.clusterGrant cl : Int), wlvl := 0 } else c)).sheaves := h
  exact (hset.trans (retarget_keeps hrising cl)).trans (wakeCluster_keeps _ cl)

/-- The sheaf that a first placement makes (R12, R351). -/
def State.newSheaf (s : State) (l index cl : Nat) : Sheaf :=
  { Sheaf.blank with launch := l, index := index, st := .resident, cluster := cl, placed := s.fresh, seen := s.time }

/-- A first placement up to what follows it in its cluster and in the launch's record: the sheaf stands with tillers, and its launch counts it. -/
theorem exists_seated_of_placeNew {s : State} (h : Says.rising s.sheaves) (i l index cl : Nat) (cores : List (Nat × Nat)) (steward : Bool) :
    ∃ t, Keeps t (s.placeNew i l index cl cores steward) ∧ (∃ tids, t.sheaf i = { s.newSheaf l index cl with tids := tids }) ∧
      (t.launch l).placed = (s.launch l).placed + 1 ∧ t.clusters = s.clusters := by
  let x := s.launch l
  let s1 := ({ s with fresh := s.fresh + 1 } : State).setSheaf i (s.newSheaf l index cl)
  let s2 := s1.placeWgs i (fun w => (List.range x.pkt.tillers).map fun t => x.pkt.tiller i index w t steward) 0 cores
  let t := s2.setLaunch l { x with placed := x.placed + 1, next := if index = x.next then index + 1 else x.next }
  have hseats : Seats s1 s2 := placeWgs_seats _ _ _ _ _
  have hrising : Says.rising t.sheaves := hseats.rising (rising_tput h _ _)
  refine ⟨t, ?_, ?_, ?_, hseats.clusters⟩
  · have hsettled := settleIn_keeps hrising cl (s.residents cl).isEmpty
    have hwritten := recWrite_keeps (t.settleIn cl (s.residents cl).isEmpty) ((t.settleIn cl (s.residents cl).isEmpty).launch l) 16 8
      ((t.settleIn cl (s.residents cl).isEmpty).launch l).placed
    exact .ite ((hsettled.trans hwritten).trans (recWrite_keeps _ _ _ _ _)) (hsettled.trans hwritten)
  · obtain ⟨tids, htids⟩ := hseats.sheaf i
    exact ⟨tids, htids.trans (by rw [State.setSheaf_sheaf])⟩
  · exact congrArg Launch.placed (State.setLaunch_launch _ _ _)

end Sys2Proof.Machine
end

section
/-! SUPPORT. A decision among one candidate (R355). -/

namespace Sys2Proof.Machine

/-- The number and state with a sheaf made for a candidate that has none. -/
theorem standIn_of_none (s : State) {c : Cand} (h : c.sheaf = none) :
    s.standIn c = (s.sheaves.length, s.setSheaf s.sheaves.length { Sheaf.blank with launch := c.launch, index := c.index, st := .waiting }) := by
  unfold State.standIn
  rw [h]

theorem leaving_of_none (s : State) {c : Cand} (h : c.sheaf = none) : s.leaving c = false := by
  unfold State.leaving
  rw [h]

theorem execDecide_nil {s s1 : State} (h : s.candidates (s.launches.map (·.1)) = ([], s1)) : execDecide s = .next { s1 with served := [] } := by
  simp [execDecide, h, State.decideAmong, State.bestCand]

theorem execDecide_single {s s1 : State} {c : Cand} (h : s.candidates (s.launches.map (·.1)) = ([c], s1)) :
    execDecide s = .next (State.decideAmong { s1 with served := s1.served.filter fun e => s1.candRegion c == e.1 } [c] 2) := by
  simp [execDecide, h]

theorem decideAmong_of_fit {s : State} {c : Cand} {cl : Nat} {cores : List (Nat × Nat)} (h : s.findFit c = some (cl, cores)) :
    s.decideAmong [c] 2 = (s.placeCand c cl cores).pushTurn (.ev .decide) := by
  simp [State.decideAmong, State.bestCand, h]

/-- The state in which a candidate without a sheaf has one that waits, with a cluster reserved for it (R355). -/
def State.reserveFor (s : State) (c : Cand) (cl : Nat) : State :=
  let i := s.sheaves.length
  let s1 := (s.setSheaf i { Sheaf.blank with launch := c.launch, index := c.index, st := .waiting }).unreserve i
  s1.setCluster cl { s1.cluster cl with reserved := some i }

theorem decideAmong_of_victims {s : State} {c : Cand} {cl : Nat} {vs : List Nat} (hnone : c.sheaf = none) (hfit : s.findFit c = none)
    (hvs : s.victims c = some (cl, vs)) : s.decideAmong [c] 2 = (vs.foldl State.preempt (s.reserveFor c cl)).pushTurn (.ev .decide) := by
  simp [State.decideAmong, State.bestCand, hfit, hvs, leaving_of_none s hnone, standIn_of_none s hnone, State.reserveFor]

/-- A candidate placed that had no sheaf: the sheaf is resident on the cluster, its launch counts it, and the cluster is reserved no more. -/
theorem placeCand_of_none {s : State} {c : Cand} (hnone : c.sheaf = none) (hrising : Says.rising s.sheaves) (cl : Nat) (cores : List (Nat × Nat)) :
    let s' := s.placeCand c cl cores
    let h := s'.sheaf s.sheaves.length
    h.st = .resident ∧ h.launch = c.launch ∧ h.index = c.index ∧ h.cluster = cl ∧ (s'.launch c.launch).placed = (s.launch c.launch).placed + 1 ∧
      (s'.cluster cl).reserved = none := by
  let i := s.sheaves.length
  let s2 := (s.setSheaf i { Sheaf.blank with launch := c.launch, index := c.index, st := .waiting }).unreserve i
  let s3 := s2.setCluster cl { s2.cluster cl with reserved := none }
  let s4 : State := { s3 with served := tput s3.served (s.candRegion c) (tget 0 s3.served (s.candRegion c) + 1) }
  have hwaits : s4.sheaf i = { Sheaf.blank with launch := c.launch, index := c.index, st := .waiting } := tget_tput_same _ _ _ _
  have hplace : s.placeCand c cl cores = s4.placeNew i c.launch c.index cl cores false := by
    simp only [State.placeCand, standIn_of_none s hnone]
    exact if_neg (show ¬ (s4.sheaf i).st = .saved by simp [hwaits])
  obtain ⟨t, hkeeps, ⟨tids, hsheaf⟩, hplaced, hclusters⟩ := exists_seated_of_placeNew (s := s4) (rising_tput hrising _ _) i c.launch c.index cl cores false
  have hreserved : (t.cluster cl).reserved = none := by
    unfold State.cluster
    rw [hclusters]
    exact congrArg Cluster.reserved (State.setCluster_cluster s2 cl _)
  obtain ⟨sent, hsent⟩ := hkeeps.sheaf i
  have hstands : (s.placeCand c cl cores).sheaf i = { s4.newSheaf c.launch c.index cl with tids := tids, shortfall := sent } := by
    rw [hplace, hsent, hsheaf]
  refine ⟨?_, ?_, ?_, ?_, ?_, ?_⟩
  · exact congrArg Sheaf.st hstands
  · exact congrArg Sheaf.launch hstands
  · exact congrArg Sheaf.index hstands
  · exact congrArg Sheaf.cluster hstands
  · rw [hplace, hkeeps.launch, hplaced]; rfl
  · rw [hplace, hkeeps.reserved, hreserved]

end Sys2Proof.Machine
end

section
/-! SUPPORT. Sheaves chosen as victims (R337, R356), and the decisions that the rules name. -/

namespace Sys2Proof.Machine

/-- A sheaf chosen as a victim, up to the count in its launch's record and the waking of its cluster. -/
theorem exists_pending_of_preempt (s : State) (v : Nat) :
    ∃ t, Keeps t (s.preempt v) ∧ (t.sheaf v).st = .pending ∧ (∀ j, j ≠ v → t.sheaf j = s.sheaf j) ∧ t.clusters = s.clusters :=
  ⟨_, (recCount_keeps _ _ _ _ _).trans (wakeCluster_keeps _ _), congrArg Sheaf.st (State.setSheaf_sheaf _ v _), fun _ hj => State.setSheaf_sheaf_ne _ _ hj, rfl⟩

theorem preempt_sheaf_st (s : State) (v : Nat) : ((s.preempt v).sheaf v).st = .pending := by
  obtain ⟨t, hkeeps, hst, -, -⟩ := exists_pending_of_preempt s v
  obtain ⟨sent, hsent⟩ := hkeeps.sheaf v
  rw [hsent, hst]

theorem preempt_sheaf_ne (s : State) {v j : Nat} (h : j ≠ v) : ∃ sent, (s.preempt v).sheaf j = { s.sheaf j with shortfall := sent } := by
  obtain ⟨t, hkeeps, -, hne, -⟩ := exists_pending_of_preempt s v
  rw [← hne j h]
  exact hkeeps.sheaf j

theorem preempt_reserved (s : State) (v cl : Nat) : ((s.preempt v).cluster cl).reserved = (s.cluster cl).reserved := by
  obtain ⟨t, hkeeps, -, -, hclusters⟩ := exists_pending_of_preempt s v
  rw [hkeeps.reserved]
  unfold State.cluster
  rw [hclusters]

theorem foldl_preempt_reserved (s : State) (vs : List Nat) (cl : Nat) : ((vs.foldl State.preempt s).cluster cl).reserved = (s.cluster cl).reserved := by
  induction vs generalizing s with
  | nil => rfl
  | cons v rest ih => rw [List.foldl_cons, ih, preempt_reserved]

theorem foldl_preempt_sheaf {s : State} {vs : List Nat} {j : Nat} (h : j ∉ vs) : ∃ sent, (vs.foldl State.preempt s).sheaf j = { s.sheaf j with shortfall := sent } := by
  induction vs generalizing s with
  | nil => exact ⟨(s.sheaf j).shortfall, rfl⟩
  | cons v rest ih =>
    obtain ⟨a, ha⟩ := preempt_sheaf_ne s (List.ne_of_not_mem_cons h)
    obtain ⟨b, hb⟩ := ih (s := s.preempt v) (List.not_mem_of_not_mem_cons h)
    exact ⟨b, by rw [List.foldl_cons, hb, ha]⟩

theorem foldl_preempt_st {s : State} {vs : List Nat} {v : Nat} (h : v ∈ vs ∨ (s.sheaf v).st = .pending) : ((vs.foldl State.preempt s).sheaf v).st = .pending := by
  induction vs generalizing s with
  | nil => exact h.resolve_left List.not_mem_nil
  | cons w rest ih =>
    refine ih ?_
    by_cases hw : v = w
    · subst hw; exact .inr (preempt_sheaf_st s v)
    · obtain ⟨sent, hsent⟩ := preempt_sheaf_ne s hw
      rw [hsent]
      exact h.imp_left fun hv => (List.mem_cons.mp hv).resolve_left hw

theorem reserveFor_reserved (s : State) (c : Cand) (cl : Nat) : ((s.reserveFor c cl).cluster cl).reserved = some s.sheaves.length :=
  congrArg Cluster.reserved (State.setCluster_cluster _ _ _)

theorem reserveFor_sheaf (s : State) (c : Cand) (cl : Nat) :
    (s.reserveFor c cl).sheaf s.sheaves.length = { Sheaf.blank with launch := c.launch, index := c.index, st := .waiting } :=
  State.setSheaf_sheaf _ _ _

theorem mem_residents {s : State} {cl : Nat} {e : Nat × Sheaf} : e ∈ s.residents cl ↔ e ∈ s.sheaves ∧ e.2.resident = true ∧ e.2.cluster = cl := by
  simp [State.residents]

/-- The victims of a candidate are sheaves that are listed. -/
theorem mem_sheaves_of_mem_victims {s : State} {c : Cand} {cl v : Nat} {vs : List Nat} (h : s.victims c = some (cl, vs)) (hv : v ∈ vs) : v ∈ s.sheaves.map (·.1) := by
  obtain ⟨xs, rfl, -, hsub, -, -⟩ := victims_spec h
  obtain ⟨e, he, rfl⟩ := List.mem_map.mp hv
  exact List.mem_map_of_mem (mem_residents.mp (mem_victimsOf.mp (hsub.subset he)).1).1

/-! ### The clauses of a decision -/

theorem decide_places {s s1 : State} {c : Cand} {cl : Nat} {cores : List (Nat × Nat)} (hcands : s.candidates (s.launches.map (·.1)) = ([c], s1))
    (hnone : c.sheaf = none) :
    let s2 : State := { s1 with served := s1.served.filter fun e => s1.candRegion c == e.1 }
    s2.findFit c = some (cl, cores) → Says.rising s2.sheaves →
    let i := s2.sheaves.length
    ∃ s' : State, exec .decide s = .next s' ∧ (s'.sheaf i).st = .resident ∧ (s'.sheaf i).launch = c.launch ∧ (s'.sheaf i).index = c.index ∧ (s'.sheaf i).cluster = cl ∧
      (s'.launch c.launch).placed = (s2.launch c.launch).placed + 1 ∧ (s'.cluster cl).reserved = none ∧ s'.turns.head? = some (.ev .decide) := by
  intro s2 hfit hrising i
  obtain ⟨hst, hlaunch, hindex, hcluster, hplaced, hreserved⟩ := placeCand_of_none hnone hrising cl cores
  refine ⟨(s2.placeCand c cl cores).pushTurn (.ev .decide), ?_, hst, hlaunch, hindex, hcluster, hplaced, hreserved, rfl⟩
  exact (execDecide_single hcands).trans (congrArg Host.Outcome.next (decideAmong_of_fit hfit))

theorem decide_preempts {s s1 : State} {c : Cand} {cl : Nat} {vs : List Nat} (hcands : s.candidates (s.launches.map (·.1)) = ([c], s1)) (hnone : c.sheaf = none) :
    let s2 : State := { s1 with served := s1.served.filter fun e => s1.candRegion c == e.1 }
    s2.findFit c = none → s2.victims c = some (cl, vs) → s2.sheaves.map (·.1) = List.range s2.sheaves.length →
    ∃ s' : State, exec .decide s = .next s' ∧ (s'.cluster cl).reserved = some s2.sheaves.length ∧ (s'.sheaf s2.sheaves.length).st = .waiting ∧
      (s'.sheaf s2.sheaves.length).launch = c.launch ∧ (s'.sheaf s2.sheaves.length).index = c.index ∧ ∀ v ∈ vs, (s'.sheaf v).st = .pending := by
  intro s2 hfit hvs hkeys
  have hnew : s2.sheaves.length ∉ vs := fun hmem => by
    have := mem_sheaves_of_mem_victims hvs hmem
    rw [hkeys, List.mem_range] at this
    exact Nat.lt_irrefl _ this
  obtain ⟨sent, hsent⟩ := foldl_preempt_sheaf (s := s2.reserveFor c cl) hnew
  rw [reserveFor_sheaf] at hsent
  refine ⟨(vs.foldl State.preempt (s2.reserveFor c cl)).pushTurn (.ev .decide), ?_, ?_, congrArg Sheaf.st hsent, congrArg Sheaf.launch hsent, congrArg Sheaf.index hsent,
    fun v hv => foldl_preempt_st (.inl hv)⟩
  · exact (execDecide_single hcands).trans (congrArg Host.Outcome.next (decideAmong_of_victims hnone hfit hvs))
  · exact (foldl_preempt_reserved _ vs cl).trans (reserveFor_reserved s2 c cl)

end Sys2Proof.Machine
end

section
/-! SUPPORT. The closing release of a sheaf (R213, R270, R357): write-backs go on their way, and a fence waits for them. -/

namespace Sys2Proof.Machine

/-- Two states that differ in caches, allowances, requests and outstanding operations alone. -/
def SendsOnly (s s' : State) : Prop :=
  ∃ cores clusters transit flights fresh, s' = { s with cores := cores, clusters := clusters, transit := transit, flights := flights, fresh := fresh }

namespace SendsOnly

theorem refl (s : State) : SendsOnly s s := ⟨_, _, _, _, _, rfl⟩

theorem trans {s t u : State} (h : SendsOnly s t) (h' : SendsOnly t u) : SendsOnly s u := by
  obtain ⟨_, _, _, _, _, rfl⟩ := h
  obtain ⟨_, _, _, _, _, rfl⟩ := h'
  exact ⟨_, _, _, _, _, rfl⟩

theorem ite {s a b : State} {p : Prop} [Decidable p] (ha : SendsOnly s a) (hb : SendsOnly s b) : SendsOnly s (if p then a else b) := by
  split
  · exact ha
  · exact hb

end SendsOnly

theorem setCore_sendsOnly (s : State) (core : Nat) (x : Core) : SendsOnly s (s.setCore core x) := ⟨_, _, _, _, _, rfl⟩

theorem writeBack_sendsOnly (s : State) (core cause engine : Nat) (l : L1Line) : SendsOnly s (s.writeBack core cause engine l) :=
  .ite ⟨_, _, _, _, _, rfl⟩ ⟨_, _, _, _, _, rfl⟩

theorem writeBackKey_sendsOnly (s : State) (core cause : Nat) (k : LKey) : SendsOnly s (s.writeBackKey core cause k) := by
  unfold State.writeBackKey
  split
  · exact .ite (.refl s) (writeBack_sendsOnly s core cause _ _)
  · exact .refl s

theorem writeBackAll_sendsOnly (s : State) (core : Nat) (cause : Option Nat) (p : L1Line → Bool) : SendsOnly s (s.writeBackAll core cause p) :=
  List.foldlRecOn (motive := SendsOnly s) _ _ (.refl s) fun _ ht _ _ =>
    ht.trans (.ite ((writeBackKey_sendsOnly _ core _ _).trans (setCore_sendsOnly _ core _)) (.refl _))

theorem closeCores_sendsOnly (s : State) (tid : Nat) (cores : List Nat) : SendsOnly s (s.closeCores tid cores) := by
  induction cores generalizing s with
  | nil => exact .refl s
  | cons core rest ih =>
    have hback := writeBackAll_sendsOnly s core (some tid) fun _ => true
    exact SendsOnly.trans (.ite hback (hback.trans ⟨_, _, _, _, _, rfl⟩)) (ih _)

theorem SendsOnly.same {s s' : State} (h : SendsOnly s s') : s'.mem = s.mem ∧ s'.tillers = s.tillers ∧ s'.launches = s.launches := by
  obtain ⟨_, _, _, _, _, rfl⟩ := h
  exact ⟨rfl, rfl, rfl⟩

/-- The release changes its sheaf's mark, and no byte, tiller or launch. -/
theorem closeSheaf_spec (s : State) (i : Nat) : (s.closeSheaf i).sheaf i = { s.sheaf i with closing := true } ∧ (s.closeSheaf i).mem = s.mem ∧
    (s.closeSheaf i).tillers = s.tillers ∧ (s.closeSheaf i).launches = s.launches :=
  ⟨State.setSheaf_sheaf _ _ _, (closeCores_sendsOnly s _ _).same⟩

end Sys2Proof.Machine
end

section
/-! SUPPORT. The retirement of a sheaf (R12, R356, R357): what it held is free, and its launch counts it. -/

namespace Sys2Proof.Machine

theorem mayRetire_of_mayEnd {s : State} {i : Nat} (h : Says.mayEnd s i) : s.mayRetire i = true := by
  obtain ⟨hresident, hexited, hquiet, hchains⟩ := h
  have hres : (s.sheaf i).resident = true := (Sheaf.resident_iff _).mpr hresident
  simp only [State.mayRetire, hres, hquiet, hchains, Sheaf.positions, List.all_map, Bool.true_and, Bool.and_true, Bool.not_false, List.all_eq_true]
  intro e he
  obtain ⟨hexit, hsteward⟩ := hexited e he
  simp [hexit, hsteward]

/-! ### The frame set -/

theorem mem_insertFree (j : Nat) (l : List Nat) : j ∈ insertFree j l := by
  induction l with
  | nil => exact List.mem_singleton_self j
  | cons k rest ih =>
    unfold insertFree
    split
    · exact List.mem_cons_self
    · exact List.mem_cons_of_mem _ ih

theorem freeFrames_of_none {s : State} {i : Nat} (h : (s.sheaf i).frameSet = none) : s.freeFrames i = s := by
  simp [State.freeFrames, h]

theorem freeFrames_of_some {s : State} {i j : Nat} (h : (s.sheaf i).frameSet = some j) : s.freeFrames i =
    (s.setSheaf i { s.sheaf i with frameSet := none }).setLaunch (s.sheaf i).launch
      { s.launch (s.sheaf i).launch with free := insertFree j (s.launch (s.sheaf i).launch).free } := by
  simp [State.freeFrames, h]

theorem freeFrames_sheaf (s : State) (i : Nat) : (s.freeFrames i).sheaf i = { s.sheaf i with frameSet := none } := by
  cases h : (s.sheaf i).frameSet with
  | none => rw [freeFrames_of_none h, ← h]
  | some j => rw [freeFrames_of_some h]; exact State.setSheaf_sheaf _ _ _

theorem freeFrames_rising {s : State} (h : Says.rising s.sheaves) (i : Nat) : Says.rising (s.freeFrames i).sheaves := by
  cases hf : (s.sheaf i).frameSet with
  | none => rw [freeFrames_of_none hf]; exact h
  | some j => rw [freeFrames_of_some hf]; exact rising_tput h _ _

/-! ### What the sheaf held -/

/-- A sheaf freed, up to the new target of its cluster: its tillers and workgroups are gone. -/
theorem exists_freed_of_freeSheaf {s : State} (h : Says.rising s.sheaves) (i : Nat) (st : SheafSt) :
    ∃ t, Keeps t (s.freeSheaf i st) ∧ t.sheaf i = { s.sheaf i with st := st, tids := [] } ∧ (∀ e ∈ (s.sheaf i).tids, (t.tiller e.2).live = false) ∧
      (∀ r, r < 4 → tfind t.wgs (4 * i + r) = none) ∧ t.launches = s.launches := by
  refine ⟨_, retarget_keeps (rising_tput h _ _) _, State.setSheaf_sheaf _ _ _, fun e he => ?_, fun r hr => ?_, rfl⟩
  · have hmem : e.2 ∈ (s.sheaf i).positions := List.mem_map_of_mem he
    have hgone : tfind (s.tillers.filter fun x => !(s.sheaf i).positions.contains x.1) e.2 = none := tfind_filter_none _ _ _ fun _ => by simp [hmem]
    show (tget Tiller.blank (s.tillers.filter fun x => !(s.sheaf i).positions.contains x.1) e.2).live = false
    rw [tget_eq_getD, hgone]
    rfl
  · have hdiv : (4 * i + r) / 4 = i := by omega
    exact tfind_filter_none _ _ _ fun _ => by simp [hdiv]

theorem freeSheaf_spec {s : State} (h : Says.rising s.sheaves) (i : Nat) (st : SheafSt) :
    let s' := s.freeSheaf i st
    (∃ sent, s'.sheaf i = { s.sheaf i with st := st, tids := [], shortfall := sent }) ∧ (∀ e ∈ (s.sheaf i).tids, (s'.tiller e.2).live = false) ∧
      (∀ r, r < 4 → tfind s'.wgs (4 * i + r) = none) ∧ s'.launches = s.launches := by
  obtain ⟨t, hkeeps, hsheaf, hlive, hwgs, hlaunches⟩ := exists_freed_of_freeSheaf h i st
  refine ⟨?_, fun e he => (hkeeps.live _).trans (hlive e he), fun r hr => hkeeps.wgs _ (hwgs r hr), hkeeps.launches.trans hlaunches⟩
  obtain ⟨sent, hsent⟩ := hkeeps.sheaf i
  exact ⟨sent, by rw [hsent, hsheaf]⟩

/-! ### The count of its launch -/

/-- What follows the freeing of a sheaf that retires: its completion bit, its launch's count, the end of a launch with its last sheaf, and what comes after (R351, R355, R357). -/
def State.countOut (s : State) (h : Sheaf) (now : Nat) : State :=
  let l := s.launch h.launch
  let l1 := { l with retired := l.retired + 1 }
  let s3 := ((s.setDone l h.index).setLaunch h.launch l1).recCount l1 24 8 l1.retired
  let s4 := if l1.status = 1 ∧ l1.retired = l1.pkt.total then
      ((s3.recWrite l1 40 8 now).recStatus l1 2 0).setLaunch h.launch { l1 with status := 2 } else s3
  (s4.pushTurn (.ev .decide)).launchEnded l1

theorem execSheafRetire_of_open {s : State} {i : Nat} (hmay : s.mayRetire i = true) (hclosing : (s.sheaf i).closing = false) :
    execSheafRetire i s = .next (s.closeSheaf i) := by
  simp [execSheafRetire, hmay, hclosing]

theorem execSheafRetire_of_closing {s : State} {i : Nat} (hmay : s.mayRetire i = true) (hclosing : (s.sheaf i).closing = true) :
    execSheafRetire i s = .next (((s.freeFrames i).freeSheaf i .retired).countOut (s.sheaf i) s.time) := by
  simp [execSheafRetire, hmay, hclosing, State.countOut]

/-- A state that stands as another but for one launch, which is given. -/
structure Counted (s s' : State) (k : Nat) (l : Launch) : Prop where
  sheaf : ∀ j, ∃ sent, s'.sheaf j = { s.sheaf j with shortfall := sent }
  live : ∀ t, (s'.tiller t).live = (s.tiller t).live
  wgs : ∀ g, tfind s.wgs g = none → tfind s'.wgs g = none
  launch : s'.launch k = l

namespace Counted

theorem of_keeps {s s' : State} (h : Keeps s s') (k : Nat) : Counted s s' k (s.launch k) := ⟨h.sheaf, h.live, h.wgs, h.launch k⟩

theorem keeps {s t u : State} {k : Nat} {l : Launch} (h : Counted s t k l) (h' : Keeps t u) : Counted s u k l where
  sheaf j := by
    obtain ⟨a, ha⟩ := h.sheaf j
    obtain ⟨b, hb⟩ := h'.sheaf j
    exact ⟨b, by rw [hb, ha]⟩
  live t := (h'.live t).trans (h.live t)
  wgs g hg := h'.wgs g (h.wgs g hg)
  launch := (h'.launch k).trans h.launch

theorem setLaunch {s t : State} {k : Nat} {l : Launch} (h : Counted s t k l) (l' : Launch) : Counted s (t.setLaunch k l') k l' :=
  ⟨h.sheaf, h.live, h.wgs, State.setLaunch_launch _ _ _⟩

end Counted

/-- The launch of a sheaf that has retired (R351, R357). -/
def Launch.counted (l : Launch) : Launch :=
  { l with retired := l.retired + 1, status := if l.status = 1 ∧ l.retired + 1 = l.pkt.gx * l.pkt.gy * l.pkt.gz then 2 else l.status }

theorem launchEnded_keeps (s : State) (l : Launch) : Keeps s (s.launchEnded l) := by
  unfold State.launchEnded
  split
  · exact pushTurn_keeps s _
  · exact .refl s

theorem countOut_counted (s : State) (h : Sheaf) (now : Nat) : Counted s (s.countOut h now) h.launch (s.launch h.launch).counted := by
  let l := s.launch h.launch
  let l1 := { l with retired := l.retired + 1 }
  let s3 := ((s.setDone l h.index).setLaunch h.launch l1).recCount l1 24 8 l1.retired
  have h3 : Counted s s3 h.launch l1 := ((Counted.of_keeps (setDone_keeps s l h.index) h.launch).setLaunch l1).keeps (recCount_keeps _ _ _ _ _)
  suffices h4 : Counted s (if l1.status = 1 ∧ l1.retired = l1.pkt.total then
      ((s3.recWrite l1 40 8 now).recStatus l1 2 0).setLaunch h.launch { l1 with status := 2 } else s3) h.launch l.counted from
    (h4.keeps (pushTurn_keeps _ _)).keeps (launchEnded_keeps _ _)
  by_cases hlast : l.status = 1 ∧ l.retired + 1 = l.pkt.gx * l.pkt.gy * l.pkt.gz
  · rw [if_pos (show l1.status = 1 ∧ l1.retired = l1.pkt.total from hlast), Launch.counted, if_pos hlast]
    exact ((h3.keeps (recWrite_keeps _ _ _ _ _)).keeps (recStatus_keeps _ _ _ _)).setLaunch _
  · rw [if_neg (show ¬ (l1.status = 1 ∧ l1.retired = l1.pkt.total) from hlast), Launch.counted, if_neg hlast]
    exact h3

/-- The end of a sheaf that has made its closing release. -/
theorem sheafRetire_of_closing {s : State} {i : Nat} (hend : Says.mayEnd s i) (hrising : Says.rising s.sheaves) (hclosing : (s.sheaf i).closing = true) :
    ∃ s' : State, exec (.sheafRetire i) s = .next s' ∧ (∃ sent, s'.sheaf i = { s.sheaf i with st := .retired, tids := [], frameSet := none, shortfall := sent }) ∧
      (∀ e ∈ (s.sheaf i).tids, (s'.tiller e.2).live = false) ∧ (∀ r, r < 4 → tfind s'.wgs (4 * i + r) = none) ∧
      s'.launch (s.sheaf i).launch = ((s.freeFrames i).launch (s.sheaf i).launch).counted := by
  obtain ⟨⟨a, ha⟩, hlive, hwgs, hlaunches⟩ := freeSheaf_spec (freeFrames_rising hrising i) i .retired
  rw [freeFrames_sheaf] at ha hlive
  have hcounted := countOut_counted ((s.freeFrames i).freeSheaf i .retired) (s.sheaf i) s.time
  obtain ⟨b, hb⟩ := hcounted.sheaf i
  refine ⟨_, execSheafRetire_of_closing (mayRetire_of_mayEnd hend) hclosing, ⟨b, by rw [hb, ha]⟩, fun e he => (hcounted.live _).trans (hlive e he),
    fun r hr => hcounted.wgs _ (hwgs r hr), ?_⟩
  rw [hcounted.launch]
  unfold State.launch
  rw [hlaunches]

end Sys2Proof.Machine
end

section
/-! SUPPORT. Instances of a graph object (R360, R361). -/

namespace Sys2Proof.Machine

theorem instanceDone_iff (s : State) (x : GraphInst) : s.instanceDone x = true ↔ x.running = true ∧ ∀ l ∈ x.launches, 2 ≤ (s.launch l).status := by
  simp [State.instanceDone]

theorem writeQueued_keeps (s : State) (obj root : Nat) : Keeps s (s.writeQueued obj root) := vwrite_keeps s _ _ _ _ _

theorem graphInstanceAdmit_of_done {s : State} {g : Nat} {x : GraphInst} (hx : tfind s.graphs g = some x) (hdone : s.instanceDone x = true) :
    ∃ s' : State, exec (.graphInstanceAdmit g) s = .next s' ∧ s'.graphs = tdel s.graphs g ∧ s'.launches = s.launches := by
  have hqueued := writeQueued_keeps { s with graphs := tdel s.graphs g } x.obj x.root
  cases hinst : (({ s with graphs := tdel s.graphs g } : State).writeQueued x.obj x.root).instances x.obj x.root with
  | nil => exact ⟨_, by simp [exec, execGraphInstanceAdmit, hx, hdone, hinst], hqueued.graphs, hqueued.launches⟩
  | cons e rest =>
    have hturn := hqueued.trans (pushTurn_keeps _ (.ev (.graphInstanceAdmit e.1)))
    exact ⟨_, by simp [exec, execGraphInstanceAdmit, hx, hdone, hinst], hturn.graphs, hturn.launches⟩

/-- The first of an object that waits is admitted with what its packets give (R361). -/
theorem exists_admitted {s s1 : State} {g : Nat} {x : GraphInst} {ls : List Nat} (hx : tfind s.graphs g = some x) (hrun : x.running = false)
    (hfirst : ((s.instances x.obj x.root).head?.map (·.1)) = some g) (hadmit : s.admitAll g x.issuer [] x.pkts = (s1, ls)) :
    ∃ s' : State, exec (.graphInstanceAdmit g) s = .next s' ∧ tfind s'.graphs g = some { x with running := true, launches := ls } ∧ s'.launches = s1.launches := by
  have hdone : s.instanceDone x = false := by simp [State.instanceDone, hrun]
  have hhead : ((s.instances x.obj x.root).head?.any fun e => e.1 == g) = true := by
    obtain ⟨e, he, hg⟩ := Option.map_eq_some_iff.mp hfirst
    simp [he, hg]
  let s2 : State := { s1 with graphs := tput s1.graphs g { x with running := true, launches := ls } }
  have hkeeps : Keeps s2 (if ls.isEmpty then s2.pushTurn (.ev (.graphInstanceAdmit g)) else s2) := .ite (pushTurn_keeps _ _) (.refl _)
  refine ⟨_, by simp only [exec, execGraphInstanceAdmit, hx, hdone, hrun, hhead, hadmit]; rfl, ?_, hkeeps.launches⟩
  rw [hkeeps.graphs, tfind_tput, if_pos rfl]

end Sys2Proof.Machine
end

section
/-! O50: placement, retirement and graph instances (R12, R213, R337, R351, R355 to R357, R359 to R361). -/

namespace Sys2Proof.Machine

/-- The launch of a sheaf that held no frame set, and retires. -/
theorem sheafRetire_of_no_frames {s : State} {i : Nat} (hend : Says.mayEnd s i) (hrising : Says.rising s.sheaves) (hclosing : (s.sheaf i).closing = true)
    (hframes : (s.sheaf i).frameSet = none) :
    ∃ s' : State, exec (.sheafRetire i) s = .next s' ∧ (s'.sheaf i).st = .retired ∧ (s'.sheaf i).tids = [] ∧
      (∀ e ∈ (s.sheaf i).tids, (s'.tiller e.2).live = false) ∧ (∀ r, r < 4 → tfind s'.wgs (4 * i + r) = none) ∧
      s'.launch (s.sheaf i).launch = (s.launch (s.sheaf i).launch).counted := by
  obtain ⟨s', hexec, ⟨sent, hsheaf⟩, hlive, hwgs, hlaunch⟩ := sheafRetire_of_closing hend hrising hclosing
  rw [freeFrames_of_none hframes] at hlaunch
  exact ⟨s', hexec, congrArg Sheaf.st hsheaf, congrArg Sheaf.tids hsheaf, hlive, hwgs, hlaunch⟩

/-- The frame set of a sheaf that held one, and retires. -/
theorem sheafRetire_of_frames {s : State} {i j : Nat} (hend : Says.mayEnd s i) (hrising : Says.rising s.sheaves) (hclosing : (s.sheaf i).closing = true)
    (hframes : (s.sheaf i).frameSet = some j) :
    ∃ s' : State, exec (.sheafRetire i) s = .next s' ∧ (s'.sheaf i).st = .retired ∧ (s'.sheaf i).frameSet = none ∧ j ∈ (s'.launch (s.sheaf i).launch).free := by
  obtain ⟨s', hexec, ⟨sent, hsheaf⟩, -, -, hlaunch⟩ := sheafRetire_of_closing hend hrising hclosing
  refine ⟨s', hexec, congrArg Sheaf.st hsheaf, congrArg Sheaf.frameSet hsheaf, ?_⟩
  rw [hlaunch, freeFrames_of_some hframes, State.setLaunch_launch]
  exact mem_insertFree j _

/-- The victims as the rules choose them (R355, R356). -/
theorem victims_fewest {s : State} {c : Cand} {cl : Nat} {vs : List Nat} (h : s.victims c = some (cl, vs)) :
    let prio := s.effPrio (s.candRegion c)
    let spare (xs : List (Nat × Sheaf)) : Prop := ∀ e ∈ xs, (xs.filter fun x => decide (x.2.launch = e.2.launch)).length ≤ (s.launch e.2.launch).free.length
    (∃ xs : List (Nat × Sheaf), vs = xs.map (·.1) ∧ xs ≠ [] ∧ spare xs ∧ (∀ e ∈ xs, e ∈ s.sheaves ∧ e.2.cluster = cl ∧ Says.victimOk s prio e)) ∧ (s.fits c.launch cl vs).isSome = true ∧
    ∀ (cl' : Nat) (ys : List (Nat × Sheaf)), cl' < 64 → s.unreserved c cl' = true → ys ≠ [] → ys.Sublist (s.victimsOf prio cl') → spare ys → (s.fits c.launch cl' (ys.map (·.1))).isSome = true →
      vs.length ≤ ys.length := by
  obtain ⟨xs, rfl, hne, hsub, ⟨hframes, hfits⟩, hmin⟩ := victims_spec h
  refine ⟨⟨xs, rfl, hne, (framesFor_iff s xs).mp hframes, fun e he => ?_⟩, hfits, fun cl' ys hcl' hun hys hsubys hspare hfitsys => ?_⟩
  · obtain ⟨hres, hevict⟩ := mem_victimsOf.mp (hsub.subset he)
    obtain ⟨hmem, -, hcluster⟩ := mem_residents.mp hres
    exact ⟨hmem, hcluster, victimOk_of_mayEvict hevict⟩
  · exact hmin cl' ys hcl' hun hys hsubys ⟨(framesFor_iff s ys).mpr hspare, hfitsys⟩

end Sys2Proof.Machine

open Sys2Proof Sys2Proof.Machine

/-- Settles O50: a decision is followed clause by clause, and a retirement through the states that it passes, each compared with the next by what it leaves as it was. -/
theorem placement : Obligations.Placement := by
  refine ⟨⟨?places, ?preempts, ?victims, ?nothing⟩, ?retires, ?graphs⟩
  case places =>
    intro s s1 c cl cores served hcands hnone hserved
    subst hserved
    exact decide_places hcands hnone
  case preempts => exact fun s s1 c cl vs hcands hnone => decide_preempts hcands hnone
  case victims => exact fun s c cl vs h => victims_fewest h
  case nothing => exact fun s s1 hcands => execDecide_nil hcands
  case retires =>
    intro i s hend hrising h l
    refine ⟨fun hclosing => ?_, fun hclosing hframes => ?_, fun j hclosing hframes => sheafRetire_of_frames hend hrising hclosing hframes⟩
    · exact ⟨_, execSheafRetire_of_open (mayRetire_of_mayEnd hend) hclosing, closeSheaf_spec s i⟩
    · obtain ⟨s', hexec, hst, htids, hlive, hwgs, hlaunch⟩ := sheafRetire_of_no_frames hend hrising hclosing hframes
      exact ⟨s', hexec, hst, htids, hlive, hwgs, congrArg Launch.retired hlaunch, congrArg Launch.status hlaunch⟩
  case graphs =>
    intro g s x hx
    refine ⟨fun hrun hends => ?_, fun hrun hfirst hpkts => ?_, fun hrun hfirst d s1 hpkts hadmit => ?_⟩
    · exact graphInstanceAdmit_of_done hx ((instanceDone_iff s x).mpr ⟨hrun, hends⟩)
    · obtain ⟨s', hexec, hgraph, -⟩ := exists_admitted (s1 := s) (ls := []) hx hrun hfirst (by rw [hpkts]; rfl)
      exact ⟨s', hexec, hgraph⟩
    · exact exists_admitted hx hrun hfirst (by simp [hpkts, State.admitAll, hadmit])
end
